-- ==== Sys2Proof/Word.lean ====
section
/-!
DEFINITION. The word types of the module and nothing more: what the manual treats as bits is a bit vector.
-/
namespace Sys2Proof

/-- One byte of device memory or of a packet (R9, R10). -/
abbrev Byte := BitVec 8

/-- A 16-bit field of a command or a register. -/
abbrev W16 := BitVec 16

/-- A 32-bit register, FP32 code or status word (R32, R54). -/
abbrev W32 := BitVec 32

/-- A 64-bit counter, table word or address parameter (R330, R421). -/
abbrev W64 := BitVec 64

/-- A record of device memory that the manual lays out in 64-bit words (R128, R196, R223, R340). -/
abbrev Rec := List W64

/-- Word `i` of a record; a word past its end reads 0. -/
def Rec.word (r : Rec) (i : Nat) : W64 := r.getD i 0

/-- Field [hi:lo] of word `i` of a record (R8). -/
def Rec.field (r : Rec) (i hi lo : Nat) : Nat := ((r.word i).toNat >>> lo) % 2 ^ (hi + 1 - lo)

/-- Field [hi:lo] of a word (R8). -/
def fieldOf {w : Nat} (x : BitVec w) (hi lo : Nat) : Nat := (x.toNat >>> lo) % 2 ^ (hi + 1 - lo)

/-- A Boolean as a one-bit number. -/
def bit01 (b : Bool) : Nat := if b then 1 else 0

end Sys2Proof
end

