-- ==== Sys2Proof/Config.lean ====
section
/-!
DEFINITION. The values that the manual leaves open, each an opaque constant: nothing in Lean can evaluate one. A
meaning applies it to the operands it depends on, or to the counter `free` of State (log entry 4).
-/
namespace Sys2Proof

/-- The VXU operations for which R60 gives an error bound and no result (R60, R109). -/
inductive OpenOp where
  | exp | exp2 | log | log2 | tanh | sigm | erf | gelu
  deriving DecidableEq, Repr

/-- A 32-bit free value (log entry 4): DESIGN CHOICE, nothing constrains it. -/
opaque Config.freeValue : Nat → BitVec 32

/-- A byte of a free string: session challenges (R436), signatures; DESIGN CHOICE (log entry 4). -/
opaque Config.freeByte : Nat → Nat → BitVec 8

/-- FP32 result of an operation whose result R60 only bounds, as a function of the operand: the device is
deterministic (R26) and the manual states no result (log entry 10): DESIGN CHOICE. -/
opaque Config.openResult : OpenOp → BitVec 32 → BitVec 32

/-- Which value within 1 ulp a reciprocal (`false`) or reciprocal square root (`true`) takes (R60, log entry 10). -/
opaque Config.ulpChoice : Bool → BitVec 32 → Nat

/-- How far a word of a diagonal block's factorisation or triangular solve lies from the nearest word: R170 and R186 fix the work and not
this rounding (log entry 11). The arguments are the operation and its operand words. -/
opaque Config.unitStep : Nat → List Int → Int

/-- Elements of the module's slice of a DIAG or STATELESS layer: no field of the loaded tables carries it (R194, R211, R239;
log entry 12). Arguments: LAYER, EXPERT. -/
opaque Config.layerElements : Nat → Nat → Nat

/-- Module fence index of a layer's update-complete fence (R21, R207): no field names it (log entry 36). -/
opaque Config.layerFence : Nat → BitVec 14

/-- Offset in the parity region of a sender's staging window, and of the acknowledgement words that holders write (R377 to R379):
the manual gives no layout (log entry 37). Arguments: holder, window; holder. -/
opaque Config.parityWindow : Nat → Nat → Nat
opaque Config.parityAck : Nat → Nat

/-- A byte that another module supplies and that reaches the module by a transfer whose frames the manual does not lay out: rebuilt
blocks, factors and repairs (R386, R387, R395; log entry 38). Arguments: draw, offset. -/
opaque Config.peerByte : Nat → Nat → BitVec 8

/-- Offset in the digest area at which a member's digest of a label lies: the manual gives no layout (R375, R394; log entry 43).
Arguments: replica index, place in the ring of 64. -/
opaque Config.digestSlot : Nat → Nat → Nat

/-- Codes of the STATE fields of DIGEST_READ and DIVERGENCE_READ: the manual gives none (R382; log entry 43). -/
opaque Config.digestState : Bool → BitVec 8
opaque Config.divergenceState : Nat → BitVec 16

/-- The axis and direction byte of a DISCOVER record: the manual does not code it (R268; log entry 41). Arguments: axis, whether −. -/
opaque Config.axisByte : Nat → Bool → BitVec 8

/-- Row at which a peer places this module's first row for an expert: it depends on lists that other modules send to the peer, and the
manual does not say how a sender learns of them (R242; log entry 40). Argument: draw. -/
opaque Config.peerRow : Nat → Nat

/-- The signature that the signing unit makes over bytes (R438, R440): the private key leaves no trace (entry 13). -/
opaque Config.signature : List (BitVec 8) → List (BitVec 8)

/-- Digest of a measurement whose byte layout the manual does not give: M2, M3, M4 and M6 of R439 (entry 13). -/
opaque Config.measure : Nat → List Nat → BitVec 256

/-- A unit's section of a dump: the manual gives no layout (R374; entry 4). Arguments: unit kind, index, draw. -/
opaque Config.dumpSection : Nat → Nat → Nat → List (BitVec 8)

end Sys2Proof
end

