-- ==== Sys2Proof/Syntax.lean ====
section
/-!
DEFINITION. The commands the module takes: one constructor per row of spec/opcode_table.json, in the table's order.
Operands are the parameters of the manual's command, the fields of its packet or frame, or the reading of the outside
world that the event brings (a voltage, a test's outcome).
-/
namespace Sys2Proof

/-- Header of a KCP packet as it arrives (R323), with the addresses and UDP ports between which it travels and the outcome of the checks of form:
`reserved` is some reserved header or parameter field not 0 (R11), `badCrc` a failing CRC-32C (R324), `badLen` a
PARAM_LEN that disagrees with the opcode (R331). -/
structure KcpHdr where
  port     : Fin 2
  srcAddr  : BitVec 128
  srcPort  : W16
  dstAddr  : BitVec 128 := 0     -- the port's address that it was sent to (R321)
  dstPort  : W16 := 51470
  context  : BitVec 8
  sequence : W32
  session  : W32
  status   : W16 := 0
  reserved : Bool := false
  badCrc   : Bool := false
  badLen   : Bool := false
  deriving DecidableEq, Repr

/-- Ethernet and KFT header of a received fabric frame (R251, R252, R254). -/
structure FrameHdr where
  port     : Fin 32
  dstMac   : BitVec 48
  etype    : W16 := 0x88B5
  ver      : BitVec 4 := 1
  tc       : BitVec 3 := 0
  dst      : BitVec 15
  src      : BitVec 15
  vc       : BitVec 3 := 0
  first    : Bool := true
  last     : Bool := true
  ackv     : Bool := false
  ackClass : BitVec 2 := 0
  age      : BitVec 8 := 0
  seq      : BitVec 24 := 0
  context  : Fin 64
  ackSeq   : BitVec 24 := 0
  stripe   : BitVec 4 := 0
  hopSeq   : W16 := 0
  hopAck   : W16 := 0
  arg      : W64 := 0
  reserved : Bool := false
  deriving DecidableEq, Repr

/-- What the SECDED code of a bank meets in one pass or issue group (R96): single-bit errors corrected on reads, and whether a read
was uncorrectable. -/
structure BankEcc where
  corrected     : Nat := 0
  uncorrectable : Bool := false
  deriving DecidableEq, Repr

/-- Outcome of a known-answer test (R85). -/
inductive KatResult where
  | pass
  | row (r : Fin 128)
  | spare (group : Fin 4)
  | column
  deriving DecidableEq, Repr

/-- What is wrong with a dropped host-port datagram (R320, R322, R324, R325, R330). -/
inductive DropReason where
  | malformed          -- fewer than 36 bytes, wrong MAGIC or VERSION, or a length other than 36 + PARAM_LEN
  | fragment           -- an IP fragment (R322)
  | tagged             -- an 802.1Q frame (R320)
  | foreignType        -- an EtherType the port does not handle, or PAUSE (R320): discarded, not counted
  | foreignPort        -- a UDP port other than the KCP port (R321): discarded, not counted
  | unknownOpcode (h : KcpHdr) (op : W16)
  deriving DecidableEq, Repr

/-- What is wrong with a discarded fabric frame (R250, R252), or a frame of `bytes` payload bytes whose OP is reserved (R255). -/
inductive ForeignFrame where
  | pause | tagged | etype
  | badOp (f : FrameHdr) (bytes : Nat)
  deriving DecidableEq, Repr

/-- Kinds of medium that a port's CMIS memory names (R267). -/
inductive MediaKind where
  | copper | optical | other
  deriving DecidableEq, Repr

/-- What a port reads from the CMIS memory of its cable or module (R267): type, length in decimetres, serial number, and the one-way
latency it reports, in ns. -/
structure Media where
  kind      : MediaKind
  lengthDm  : Nat := 0
  serial    : List Byte := []
  latencyNs : Nat := 0
  deriving DecidableEq, Repr

/-- The second half of a READ_REQ payload (R255): the length and four reserved bytes. -/
structure ReqLength where
  bytes : W32
  rsvd  : W32 := 0
  deriving DecidableEq, Repr

/-- How a die reset ends (R90, R367): its duration, and the arrays of the die whose test fails. -/
structure DieResetEnd where
  us        : Nat
  katFailed : List (Fin 24) := []
  deriving DecidableEq, Repr

/-- How a transfer on the management bus ends (R456): after whole words, inside a last word, or with a repeated start that reads words. -/
inductive TransferEnd where
  | whole | partialWord
  | reads (words : Nat)
  deriving DecidableEq, Repr

/-- Neighbor Discovery messages that a host port handles (R321). -/
inductive NdMessage where
  | solicitation (target sender : BitVec 128)
  | advertisement (target : BitVec 128)
  | dadConflict (target : BitVec 128)
  deriving DecidableEq, Repr

/-- Outcome of the scrub of one sector (R301). -/
inductive ScrubResult where
  | clean | corrected | uncorrectable
  deriving DecidableEq, Repr

/-- Parity errors that an access meets on one channel (R299): how often it had to be repeated, and whether the fourth
repeat failed too. -/
structure ChannelRepeats where
  channel : Fin 1024
  repeats : Fin 5
  failed  : Bool := false
  deriving DecidableEq, Repr

/-- Engines that an engine reset names (R366): the unit kinds of R57 and R359. -/
inductive Engine where
  | array (n : Fin 192) | rte (n : Fin 8) | fuu (n : Fin 8) | dma (n : Fin 8) | coll (n : Fin 4)
  deriving DecidableEq, Repr

/-- Dies that a die reset names (R367). -/
inductive Die where
  | cd (n : Fin 8) | bd (n : Fin 8) | io (n : Fin 4)
  deriving DecidableEq, Repr

/-- PLLs of R412, and the reference oscillator they multiply. -/
inductive Pll where
  | dvfs (n : Fin 8) | serdes (n : Fin 4) | hbm (n : Fin 8) | management | reference
  deriving DecidableEq, Repr

/-- Causes of an orderly stop (R403). -/
inductive StopCause where
  | holdup | overVoltage | thermal | holdupFault
  deriving DecidableEq, Repr

/-- What stops the control core (R360, R369, R370). -/
inductive CoreFault where
  | ecc | parity | watchdog | duringRestart
  deriving DecidableEq, Repr

/-- The slot EEPROM record as it is read at boot (R442); `crcOk` is the outcome of its CRC, `answers` whether a device
answered at 0x50 (R457). -/
structure SlotRecord where
  answers    : Bool := true
  crcOk      : Bool := true
  crcRead    : W32 := 0
  spare      : Bool := false
  naxes      : Nat := 0
  rackId     : W32 := 0
  lens       : List Nat := []
  coords     : List Nat := []
  spareIndex : Nat := 0
  deriving DecidableEq, Repr

/-- What a boot reads from the world (R413, R430, R432, R441..R443, R401): whether the ROM equals its digest, the
reference qualified, the signature checks of the two slots held, the module EEPROM's CRC held; the slot record; the
stack identities; the hold-up capacity in mJ; the arrays whose known-answer test passed; and the pending burn. -/
structure BootInputs where
  romOk      : Bool := true
  refOk      : Bool := true
  sigOkA     : Bool := true
  sigOkB     : Bool := true
  eepromOk   : Bool := true
  slot       : SlotRecord := {}
  stackIds   : List W64 := []
  holdupMj   : Nat := 12000
  katFailed  : List (Fin 192) := []
  deriving DecidableEq, Repr

/-- Readings that the 1 ms evaluation of the DVFS level uses (R405, R411). -/
structure PowerReading where
  pAvg10ms  : Nat
  tMax      : Nat
  tSensor   : Nat
  coolMs    : Nat      -- how long T_MAX has been below 90 degrees, in ms
  iThrottle : Nat      -- highest level that keeps the input current within 58 A
  envLevel  : Nat      -- highest level that keeps the draw within the envelope target
  capLevel  : Nat      -- highest level whose 10 ms average stays within the cap in force
  deriving DecidableEq, Repr

/-- The module's commands: the rows of spec/opcode_table.json. -/
inductive Instr where
  -- group 0x01, device
  | devInfo (h : KcpHdr)
  | devSet (h : KcpHdr) (id : W16) (value : W64)
  | devGet (h : KcpHdr) (id : W16)
  | powerState (h : KcpHdr) (value : W64)
  | regulatorSet (h : KcpHdr) (partition : BitVec 8) (rate : W16) (bucket : W32)
  | timeSet (h : KcpHdr) (seconds : W64)
  | devReset (h : KcpHdr) (level : BitVec 8)
  -- group 0x02, contexts
  | ctxCreate (h : KcpHdr) (priority partition : BitVec 8)
  | ctxDestroy (h : KcpHdr)
  | ctxQuery (h : KcpHdr)
  | ctxPurge (h : KcpHdr)
  | ctxPriority (h : KcpHdr) (priority : BitVec 8)
  -- group 0x03, memory and streams
  | memGrant (h : KcpHdr) (base bytes : W64)
  | memRelease (h : KcpHdr) (region : W16)
  | memWrite (h : KcpHdr) (addr : W64) (data : List Byte) (parityErrors : List ChannelRepeats)
  | memRead (h : KcpHdr) (addr : W64) (bytes : W32) (parityErrors : List ChannelRepeats)
  | memFill (h : KcpHdr) (addr bytes : W64) (pattern : W32) (fence : W16)
  | streamOpen (h : KcpHdr) (stream dir : BitVec 8) (addr bytes : W64)
  | streamData (h : KcpHdr) (stream : BitVec 8) (offset : W64) (data : List Byte)
  | streamClose (h : KcpHdr) (stream : BitVec 8) (crc : W32)
  | streamTimeout (slot : Fin 16) (stream : Fin 32)
  | cisternAttach (h : KcpHdr)
  | shardSet (h : KcpHdr) (layer expert : W16) (firstBlock momentAge b1pow b2pow : W32)
  | cisternPrefetch (ctx : Fin 64) (shard : Nat)
  -- group 0x04, programs
  | progLoad (h : KcpHdr) (dir : W64) (entries : W16)
  | loadDone (ctx : Fin 64)
  | progUnload (h : KcpHdr)
  | progQuery (h : KcpHdr)
  | gridSubmit (h : KcpHdr) (grid : W64)
  -- group 0x05, step control and fences
  | stepRun (h : KcpHdr) (count : W32)
  | stepHold (h : KcpHdr) (atStep : W64)
  | stepQuery (h : KcpHdr)
  | fenceSignal (h : KcpHdr) (fence : W16) (inc : W32)
  | fenceQuery (h : KcpHdr) (fence : W16)
  | fenceNotify (h : KcpHdr) (fence : W16) (target : W32)
  -- group 0x06, solver and roots
  | rsCreate (h : KcpHdr) (order nblkA : W32) (pattern memBase memBytes : W64) (damp : W32) (mode : BitVec 8)
  | rsDestroy (h : KcpHdr) (handle : W16)
  | rsFeed (h : KcpHdr) (handle : W16) (bytes : W32) (src : W64)
  | rsFactor (h : KcpHdr) (handle fence : W16) (status : W64)
  | rsSolve (h : KcpHdr) (handle flags fence : W16) (nrhs : W32) (b x status : W64)
  | rsQuery (h : KcpHdr) (handle : W16)
  | rsGenerationResident (handle : Fin 256)
  | rsWorkComplete (handle : Fin 256)
  | rootConfig (h : KcpHdr) (w0 w1 w2 w3 : W64)
  | rootQuery (h : KcpHdr) (layer expert : W16) (side : BitVec 8) (block : W16)
  -- group 0x07, telemetry
  | counterRead (h : KcpHdr) (block unit first count : W16)
  | regRead (h : KcpHdr) (addr : W64) (words : W16) (silent : Bool)
  | regClear (h : KcpHdr) (addr : W64) (mask : W32)
  | captureRead (h : KcpHdr)
  | captureArm (h : KcpHdr)
  | tableRead (h : KcpHdr) (table count : W16) (first : W32)
  | idleRead (h : KcpHdr)
  | idleClear (h : KcpHdr) (mask : W16)
  -- group 0x08, faults and recovery
  | eventRead (h : KcpHdr) (first : W32) (count : W16)
  | snapshotRead (h : KcpHdr) (offset : W64) (bytes : W32)
  | dumpRead (h : KcpHdr) (offset : W64) (bytes : W32)
  | retrainRequest (h : KcpHdr) (channel : W16)
  | recoverBegin (h : KcpHdr)
  | recoverReady (ctx : Fin 64)
  | recoverPoint (h : KcpHdr) (point : W64)
  | peerSet (h : KcpHdr) (position : W16) (state : BitVec 8) (tag : BitVec 24) (servedBy : W16)
  | spareAssign (h : KcpHdr) (position : W16)
  | recoverLoad (h : KcpHdr) (dir : W64) (entries : W16) (point : W64) (flags : W32)
  | rebuildQuery (h : KcpHdr)
  | digestRead (h : KcpHdr) (label : W64)
  | divergenceRead (h : KcpHdr)
  | unitReset (h : KcpHdr) (unitKind : BitVec 8) (unitIndex : W16)
  | dieReset (h : KcpHdr) (dieKind index : BitVec 8)
  | dumpTake (h : KcpHdr)
  -- group 0x09, sessions, identity, firmware, owner keys
  | sessionOpen (h : KcpHdr) (challenge sig : List Byte) (sigOk : Bool)
  | sessionClose (h : KcpHdr)
  | sessionTimeout (slot : Fin 16)
  | challengeExpiry (addr : BitVec 128) (port : W16)
  | hostAck (h : KcpHdr)
  | d2hResend (slot : Fin 16) (sequence : W32)
  | identInfo (h : KcpHdr)
  | identKeyRead (h : KcpHdr)
  | attest (h : KcpHdr) (nonce : BitVec 256)
  | fwBegin (h : KcpHdr) (slot : BitVec 8) (bytes : W32)
  | fwWrite (h : KcpHdr) (offset : W32) (data : List Byte)
  | fwEnd (h : KcpHdr) (sigOk : Bool)
  | fwActivate (h : KcpHdr) (slot : BitVec 8) (sigOk : Bool)
  | fwCommit (h : KcpHdr) (advance : BitVec 8)
  | ownerEnroll (h : KcpHdr) (pub : List Byte)
  | ownerReplace (h : KcpHdr) (pub sig : List Byte) (sigOk : Bool)
  | ownerRemove (h : KcpHdr) (sig : List Byte) (sigOk : Bool)
  -- host ports
  | hostPortLinkUp (port : Fin 2) (common400 lane1 : Bool)
  | hostPortLaneLoss (port : Fin 2) (lane : Fin 2)
  | hostPortRetry400G (port : Fin 2) (trained : Bool)
  | dhcpRenew (port : Fin 2) (addr gateway : W32) (prefixLen : BitVec 8) (leaseSec : W32)
  | routerAdvertisement (port : Fin 2) (pfx : BitVec 64)
  | neighborDiscovery (port : Fin 2) (msg : NdMessage)
  | arpRequest (port : Fin 2) (target sender : W32)
  | icmpEchoRequest (port : Fin 2) (v6 : Bool) (dst src : BitVec 128) (payload : List Byte)
  -- KFT frames
  | write (f : FrameHdr) (payload : List Byte)
  | readReq (f : FrameHdr) (requester : W64) (length : ReqLength)
  | readResp (f : FrameHdr) (payload : List Byte)
  | signal (f : FrameHdr)
  | dispatch (f : FrameHdr) (payload : List Byte)
  | delta (f : FrameHdr) (payload : List Byte)
  | parity (f : FrameHdr) (payload : List Byte)
  | coll (f : FrameHdr) (payload : List Byte)
  | e2eAck (f : FrameHdr)
  | e2eNack (f : FrameHdr)
  | routeUpdate (f : FrameHdr)
  | hopNak (f : FrameHdr)
  | credit (f : FrameHdr) (counts : List W32)
  | discover (f : FrameHdr) (record stamps : List Byte)
  | linkState (f : FrameHdr)
  | fcsErrorFrame (port : Fin 32)
  | discardedFrame (port : Fin 32) (kind : ForeignFrame)
  | hopAckInterval (port : Fin 32)
  -- fabric link events
  | portLinkUp (port : Fin 32) (media : Media)
  | laneDrop (port : Fin 32) (lane : Fin 4)
  | laneReadmit (port : Fin 32) (lane : Fin 4)
  | farEndSilent (port : Fin 32)
  | portLost (port : Fin 32)
  | linkUp (axis : Fin 5) (lower : Fin 64)
  | vcShare (port : Fin 32) (value : W32)
  | collectiveStart (ctx : Fin 64) (slot task : Nat)
  -- steps and tasks
  | stepStart (ctx : Fin 64)
  | stepBoundary (ctx : Fin 64)
  | taskComplete (ctx : Fin 64) (slot task : Nat)
  -- arrays, Sluice and vector units
  | passStart (array : Fin 192)
  | passEnd (array : Fin 192) (parityErrors : Nat) (ecc : BankEcc)
  | sluiceHandover (array : Fin 192)
  | vxuIssueGroup (vxu : Fin 192) (ecc : BankEcc) (parityErrors : List ChannelRepeats)
  | zrelClearDone (array : Fin 192) (tile : Fin 16)
  | dispatchAccept (vxu : Fin 192)
  | katDue (array : Fin 192)
  | katEnd (array : Fin 192) (result : KatResult)
  | spareCtl (array : Fin 192) (value : W32)
  | skewTrim (array : Fin 192) (value : W32)
  | retire (array : Fin 192)
  | runKat (array : Fin 192)
  | resume (array : Fin 192)
  -- statistics and roots
  | statAbsorption (ctx : Fin 64) (layer expert side block : Nat)
  | rteJobStart (engine : Fin 8)
  | rteProductDrain (engine : Fin 8) (residueError : Bool)
  | rootPublish (engine : Fin 8)
  | rteFault (engine : Fin 8) (testPassed : Bool)
  -- updates
  | blockUpdateStart (ctx : Fin 64) (shard block : Nat)
  | writeSweepStart (ctx : Fin 64) (shard block : Nat)
  | blockCommit (ctx : Fin 64) (shard block : Nat)
  | lateUpdate (ctx : Fin 64) (shard : Nat)
  -- memory
  | wcbEvict (stack : Fin 32)
  | scrubStep (channel : Fin 1024) (result : ScrubResult)
  | retrainDue (channel : Fin 1024)
  | driftAlarm (channel : Fin 1024)
  | retrainStart
  | retrainEnd (passed : Bool)
  | channelSilent (channel : Fin 1024)
  | channelFenced (channel : Fin 1024) (ceInHour ueInHour : Nat)
  | granuleRelocate (channel : Fin 1024)
  -- faults and recovery
  | contextPurged (ctx : Fin 64)
  | purgeUnitTimeout (ctx : Fin 64) (unit : Engine) (confirmLate : Bool)
  | engineReset (unit : Engine) (testPassed : Bool) (durationUs : Nat)
  | dieResetComplete (die : Die) (outcome : DieResetEnd)
  | moduleWarmReset (inputs : BootInputs)
  | watchdogExpiry
  | coreRestart (cause : CoreFault) (imageOk : Bool)
  | coreRestartTimeout
  | dumpWrite (cause : W16) (sequencerOnly : Bool)
  | dumpUnitTimeout (unitKind : Fin 16) (unitIndex : Fin 1024)
  | rebuildBlock (ctx : Fin 64) (block : Nat)
  | foldSelfCheck (ctx : Fin 64)
  | digestForm (ctx : Fin 64)
  | digestCompare (ctx : Fin 64)
  | granuleLocalise (ctx : Fin 64) (block : Nat)
  | divergenceRepair (ctx : Fin 64)
  -- input power
  | inputThrottle (vin : W16)
  | inputThrottleEnd (vin : W16)
  | inputCut (vin : W16)
  | inputRecovered (vin : W16) (rideUs : W32)
  | surge (vinMax : W16) (durationUs : W32)
  | surgeTimeout (vinMax : W16)
  | overVoltage (vin : W16)
  | holdupExhausted
  | orderlyStop (cause : StopCause)
  | holdupMeasure (milliJoules : Nat)
  -- clock rate, temperature and clocks
  | dvfsEvaluate (r : PowerReading)
  | dvfsStep
  | envelopeUpdate (demand pIn maxBurn : Nat)
  | thermalTrip (tMax sensor : Nat)
  | refQualifyWindow (edges : Nat)
  | refQualifyTimeout
  | pllLockWindow (pll : Pll) (ppmError : Int)
  | clockFault (pll : Pll)
  | pllRelock (n : Fin 8) (locked : Bool)
  -- time
  | ppsEdge (sinceLastNs : Nat)
  | ppsLost
  -- boot and management
  | coldBoot (inputs : BootInputs)
  | resetNRelease (lowUs : Nat)
  | warmReset
  | fullReset
  | alertCauseClear (mask : W32)
  | erase (slot : Fin 2)
  | program (slot : Fin 2) (unit : BitVec 18)
  | check (slot : Fin 2) (sigOk : Bool)
  | mgmtRegisterWrite (offset : W16) (words : List W32) (tail : TransferEnd)
  | setdasa (addr : BitVec 7)
  | entdaa (addr : BitVec 7)
  | rstdaa
  | getstatus
  -- rows the table lists last
  | idleSaturated (ctx : Fin 64) (cause : Fin 12)
  | nanosecondFieldWrap
  | resetNAssert
  | stackPhyFailure (stack : Fin 32)
  | inputPowerOverLimit (watts : Nat)
  | kcpPacketDrop (port : Fin 2) (reason : DropReason)
  deriving DecidableEq, Repr

end Sys2Proof
end

