-- ==== Sys2Proof/Machine/State.lean ====
section
/-!
DEFINITION. The state of one HT-K2040-LC module as plain data, its reset value, and the reasons a step can stop.
A finite table is a `Tab`: a list of (index, value) pairs, strictly rising in the index, in which an index that is not
listed holds the table's reset value. INVENTORY.md lists every field with its rule.
-/
namespace Sys2Proof.Machine

open Sys2Proof

/-- A sparse table: (index, value) pairs in strictly rising index order; an unlisted index holds the reset value. -/
abbrev Tab (α : Type) := List (Nat × α)

/-- Device memory: (address, byte) pairs in the same form; an unlisted byte reads 0 (log entry 6). -/
abbrev Memory := List Host.Cell

/-! ### What the module sends -/

/-- A KCP reply (R327), with the address and UDP port it goes to, and those it comes from: the ones that the command was sent to (R321,
R322). -/
structure Reply where
  port     : Fin 2
  addr     : BitVec 128
  udp      : W16
  src      : BitVec 128 := 0
  srcUdp   : W16 := 51470
  context  : BitVec 8
  opcode   : W16
  sequence : W32
  session  : W32
  status   : W16
  params   : List Byte
  deriving DecidableEq, Repr

/-- A device-originated KCP packet: a notice or stream data (R328). -/
structure Notice where
  opcode   : W16
  context  : BitVec 8
  sequence : W32
  params   : List Byte
  deriving DecidableEq, Repr

/-- An Ethernet II header (R251, R252). -/
structure EthHdr where
  dst   : BitVec 48 := 0
  src   : BitVec 48 := 0
  etype : W16 := 0
  deriving DecidableEq, Repr

/-- A KFT frame that a port sends (R254). -/
structure TxFrame where
  op      : Byte
  tc      : BitVec 3
  dst     : BitVec 15
  src     : BitVec 15
  vc      : BitVec 3
  first   : Bool
  last    : Bool
  seq     : BitVec 24
  context : BitVec 8
  stripe  : BitVec 4
  arg     : W64
  hopSeq  : W16
  payload : List Byte
  age     : BitVec 8 := 0
  ackv    : Bool := false        -- an E2E_ACK's acknowledgement: class and next sequence expected
  ackClass : BitVec 2 := 0
  ackSeq  : BitVec 24 := 0
  hopAck  : W16 := 0
  eth     : EthHdr := {}         -- written by the port that sends it
  since   : Nat := 0             -- management tick at which it was queued at its port (R266)
  inPort  : Nat := 32            -- port it arrived on; 32 for a frame of this module (R266)
  held    : Option (Nat × Nat) := none  -- buffer space that it holds until it is sent on: VC and units (R259)
  deriving DecidableEq, Repr

/-- Everything that leaves the module. -/
inductive Out where
  | reply (r : Reply)
  | notice (session : W32) (n : Notice) (srcUdp : W16)
  | frame (port : Fin 32) (f : TxFrame)
  | link (port : Fin 32) (eth : EthHdr) (op : Byte) (hopAck : W16) (arg : W64) (payload : List Byte)
  | arpReply (port : Fin 2) (target sender : W32)
  | icmpReply (port : Fin 2) (v6 : Bool) (src dst : BitVec 128) (payload : List Byte)
  | neighborAdvert (port : Fin 2) (target : BitVec 128)
  | dhcpRequest (port : Fin 2) (addr : W32)
  | mgmtStatus (word : W16)
  | mgmtRead (words : List W32)
  deriving DecidableEq, Repr

/-! ### KCP sessions and host ports -/

/-- An open stream (R352, R353): host streams 0 to 15, Cistern fetches 16 to 31. -/
structure Stream where
  number   : Nat
  context  : Nat
  toHost   : Bool
  addr     : Nat
  bytes    : Nat
  next     : Nat := 0            -- device to host: bytes already sent
  timedOut : Bool := false
  purged   : Bool := false
  deriving DecidableEq, Repr

/-- A session (R325, R328, R329). -/
structure Session where
  id       : W32
  addr     : BitVec 128
  udp      : W16
  port     : Fin 2
  expected : W32
  cache    : List Reply := []
  held     : List (W32 × Instr) := []
  d2hNext  : W32 := 1
  unacked  : List Notice := []
  waiting  : List Notice := []
  streams  : List Stream := []
  notifies : List (Nat × W32) := []
  deriving DecidableEq, Repr

/-- An outstanding session challenge (R436). -/
structure Challenge where
  addr  : BitVec 128
  udp   : W16
  value : List Byte
  deriving DecidableEq, Repr

/-- A host port (R320, R321). -/
structure HostPort where
  up        : Bool := false
  rate100   : Bool := false
  lane1Lost : Bool := false
  ipv6      : List (BitVec 128) := []
  ipv4      : Option (W32 × Nat) := none
  gateway   : W32 := 0
  leaseSec  : Nat := 0
  deriving DecidableEq, Repr

structure Kcp where
  sessions   : Tab Session := []
  challenges : List Challenge := []
  settings   : Tab W64 := []
  hp0        : HostPort := {}
  hp1        : HostPort := {}
  drops      : W64 := 0
  badCrc     : W64 := 0
  duplicates : W64 := 0
  deriving DecidableEq, Repr

/-! ### Programs, grids and shards of a context -/

/-- Context states, in the order of their codes (R336). -/
inductive CtxState where
  | free | created | loading | loaded | running | holding | held | purging | faulted
  deriving DecidableEq, Repr

/-- Service states (R16, R330). -/
inductive Service where
  | normal | startUp | test | recovery
  deriving DecidableEq, Repr

/-- A loaded program (R337): its directory and the structures it names, as loaded. -/
structure Program where
  dirAddr   : Nat
  dir       : List Rec
  layout    : Rec
  placement : Rec
  update    : Rec
  layers    : List Rec
  stats     : List Rec
  root      : Rec
  hasRoot   : Bool
  grids     : List Rec
  oneShot   : Nat
  fences    : List W64
  leases    : List W64
  cistern   : List Rec
  recovery  : Option Rec
  stages    : List W64
  experts   : List W32
  shardMap  : List Rec
  baseSlot  : Nat
  accInRes  : List Nat     -- ACC_BASE of the buffers placed in the Reservoir (R212)
  keep      : List Nat     -- layers marked KEEP, as layer * 4096 + expert (R237)
  deriving DecidableEq, Repr

/-- Progress of one task of a resident grid (R71, R343). -/
structure TaskRun where
  started  : Tab Nat := [] -- MXA: runs started, per tile position
  ended    : Tab Nat := [] -- MXA: runs ended, per tile position
  vxuDone  : Nat := 0      -- MXA with FIN: tiles whose VXU task has ended
  finished : Bool := false -- VXU, COLL, XFER: the work itself has ended
  joined   : Bool := false -- COLL, XFER: started
  delayed  : Bool := false -- MXA: counted in ACC_ALIAS (R81)
  accepted : Tab Nat := [] -- TOPK: entries that the collective engine has taken, per tile position (R102, R121)
  deriving DecidableEq, Repr

/-- A grid in a module slot (R344). -/
structure GridRun where
  slot  : Nat
  gseq  : W32
  desc  : Rec
  step  : Option Nat       -- none: a one-shot grid
  done  : List Nat := []   -- completed task indices
  tasks : Tab TaskRun := []
  deriving DecidableEq, Repr

/-- Which rule an update block follows in a step (R200). -/
inductive Rule where
  | root | damped | diag | stateless
  deriving DecidableEq, Repr

/-- Where an update block stands in R207. -/
inductive BlockPhase where
  | idle | started | swept
  deriving DecidableEq, Repr

/-- A write sweep's results that commit together (R207, R218). -/
structure SweepResult where
  master   : List W32
  m        : List W32
  v        : List W32
  copy     : List Byte
  skipped  : Bool
  clipped  : Bool
  fallback : Bool
  wSq      : W32
  wMax     : W32
  uSq      : W32
  uMax     : W32
  graft    : Option W32          -- the graft scale, when one was formed
  flags    : Nat
  deriving DecidableEq, Repr

/-- An update block (R194, R207). -/
structure Block where
  step      : Nat := 0
  phase     : BlockPhase := .idle
  gradStep  : Nat := 0           -- step of the gradient in the arrival buffer
  grad      : Tab W32 := []      -- arrival buffer contents by element
  landed    : Nat := 0           -- elements landed
  rule      : Rule := .diag
  late      : Bool := false
  dir       : List W32 := []     -- the preconditioned direction D (R203)
  gsq       : W32 := 0
  gmax      : W32 := 0
  dsq       : W32 := 0
  rootL     : Nat := 0           -- selected root buffers (R177), 0 when none
  rootR     : Nat := 0
  sweep     : Option SweepResult := none
  undo      : List Byte := []
  ahead     : Bool := false
  acked     : Bool := true       -- its parity message has been applied (R378)
  holdFix   : Bool := false      -- waits for a repair (R394)
  pflags    : Nat := 0           -- flags of the preconditioning products
  parityStep : Nat := 0          -- last step whose parity message has been formed (R378)
  posted    : Nat := 0           -- passes of its array work not yet started (R17, R207)
  feeding   : Nat := 0           -- passes of its array work under way
  deriving DecidableEq, Repr

/-- A late-buffer slot: one step's gradient of a block (R214). -/
structure LateGrad where
  step  : Nat
  block : Nat
  grad  : Tab W32          -- the elements that have landed
  deriving DecidableEq, Repr

/-- An owned shard: its record (R195) and its update blocks. -/
structure Shard where
  layer       : Nat
  expert      : Nat
  first       : Nat
  count       : Nat
  step        : Nat := 0
  age         : W32 := 0
  b1pow       : W32 := 0x3F800000
  b2pow       : W32 := 0x3F800000
  momentValid : Bool := true
  inCistern   : Bool := false
  handle      : W64 := 0
  parityPart  : Bool := false    -- its Cistern source is the Parity Group (R385)
  late        : List LateGrad := []
  lateSlots   : Nat := 0
  blocks      : Tab Block := []
  deriving DecidableEq, Repr

/-- Telemetry of a layer gathered while its blocks commit in a step (R217, R218). -/
structure LayerAcc where
  step    : Nat := 0
  rules   : Nat := 0
  skipped : Nat := 0
  clipped : Bool := false
  fallback : Bool := false
  parts   : Tab (List W32) := []  -- per block: W_SQ W_MAX G_SQ G_MAX U_SQ U_MAX GRAFT
  elems   : Nat := 0
  deriving DecidableEq, Repr

/-- A Cistern fetch that has been posted (R355). -/
structure Fetch where
  stream : Nat
  shard  : Nat
  got    : Nat := 0
  deriving DecidableEq, Repr

/-- A staged peer record of kind FACTOR_BLOCK (R127, R155). -/
structure PeerSum where
  member : Nat
  step   : Nat
  tag    : BitVec 128
  rows   : Nat
  sums   : List W32
  deriving DecidableEq, Repr

/-- A scheduled refresh (R180). -/
structure Refresh where
  step   : Nat
  engine : Nat             -- virtual engine
  layer  : Nat             -- index of the Statistics Layer Descriptor
  side   : Nat
  block  : Nat
  deriving DecidableEq, Repr

/-- State that the statistics and refreshes of a context need (05, 06). -/
structure Stats where
  kept      : Tab Nat := []            -- kept rows by (layer index, side), of the step in progress
  groups    : Tab Nat := []            -- statistics groups added into S, by factor block key
  tapped    : Tab Nat := []            -- taps made, by (layer index, side, group)
  peers     : List PeerSum := []
  absorbed  : Tab Nat := []            -- last step absorbed by factor block key
  schedule  : List Refresh := []
  scheduled : Nat := 1                 -- last step whose refreshes have been scheduled (R180, R370)
  arrays    : List Nat := []           -- array of each ACT factor block's statistics passes, in table order (R136)
  resets    : Tab Nat := []            -- last step whose absorption reset a factor block, by factor block key (R143)
  lastSched : Tab Nat := []            -- last step for which a block's refresh was scheduled, by factor block key
  deriving DecidableEq, Repr

/-- A purge in progress (R362). -/
structure Purge where
  asked     : List Engine
  hung      : List Engine := []
  late      : List Engine := []
  cause     : W32 := 0
  deriving DecidableEq, Repr

/-- Phase of divergence localisation (R394, R395). -/
inductive DivPhase where
  | none | regions | granules | located | unresolved
  deriving DecidableEq, Repr

/-- A granule whose folds differ among the members (R394): the members' folds in replica order, and the members whose region failed its
self-check. -/
structure Divergent where
  region  : Nat
  granule : Nat
  folds   : List (W64 × Nat)
  failed  : List Nat
  deriving DecidableEq, Repr

/-- Folds, digests and divergence state of a context (R390..R396). -/
structure Folds where
  fold      : Tab (W64 × Nat) := []     -- (A, B) per region
  table     : Tab (W64 × Nat) := []     -- folds copied for a label: key label * 2^32 + region
  copied    : List (Nat × Nat) := []    -- (label, block number) whose folds are copied
  digests   : List (Nat × BitVec 256 × Bool) := []  -- (label, digest, compared), newest first, at most 64
  baseline  : Bool := false
  checkPos  : Nat := 0
  checkDue  : Nat := 0                  -- regions that the self-check still recomputes in this step (R392)
  phase     : DivPhase := .none
  badLabel  : Nat := 0
  target    : Nat := 0                  -- label at which the listed regions are localised
  regions   : List Nat := []
  localised : List Nat := []            -- block numbers whose granules have been compared
  granules  : List Divergent := []
  peers     : Tab (BitVec 256) := []    -- digests received: key member * 64 + place in the ring of 64
  suspects  : Bool := false             -- SUSPECT_WINDOW named this context since the last matching label
  holdNext  : Bool := false             -- hold at the next boundary (R395)
  deriving DecidableEq, Repr

/-- Recovery of a context (R383..R388). -/
structure Recovery where
  quiesced   : Bool := false
  begun      : Bool := false
  blocks     : Nat := 0
  todoBlocks : List Nat := []           -- blocks still to be rebuilt
  slots      : Nat := 0
  todoSlots  : List Nat := []           -- parity slots still to be rebuilt
  lost       : List Nat := []           -- members of the Parity Group lost (R386)
  session    : W32 := 0                 -- session of the RECOVER_BEGIN
  point      : Nat := 0
  deriving DecidableEq, Repr

/-- A load in progress (R338, R385). -/
structure LoadReq where
  session : W32
  dir     : Nat
  entries : Nat
  recover : Bool := false
  rejoin  : Bool := false
  point   : Nat := 0
  deriving DecidableEq, Repr

/-- Parity messages of a context to one holder (R378). -/
structure ParityOut where
  next : W32 := 0
  sent : List (W32 × Nat × Nat × List Byte) := []  -- unapplied: MSG, block number, step, delta
  wait : List (Nat × Nat × List Byte) := []  -- block number, step, delta: beyond the two unapplied messages
  deriving DecidableEq, Repr

/-- A context (R335, R336). -/
structure Ctx where
  state     : CtxState := .free
  service   : Service := .normal
  priority  : Nat := 0
  partition : Nat := 0
  step      : W64 := 0
  runLeft   : W32 := 0
  started   : Nat := 0
  nextGrid  : Nat := 0            -- step grids of the last started step already submitted
  holdStep  : Option Nat := none
  holdSess  : W32 := 0
  exc       : Tab W64 := []
  counters  : Tab W64 := []
  counters9 : Tab W64 := []
  capture   : List W32 := []
  armed     : Bool := false
  idle      : Tab (BitVec 48) := []
  idleSat   : W16 := 0
  regions   : List (Nat × Nat × Nat) := []
  load      : Option LoadReq := none
  loadStat  : W16 × W16 × W32 × W16 := (0, 0, 0, 0)
  program   : Option Program := none
  gseq      : W32 := 0
  grids     : List GridRun := []
  shards    : List Shard := []
  layerAcc  : Tab LayerAcc := []        -- key: layer * 2^48 + step
  signalled : Tab Nat := []             -- per layer, last step whose update-complete fence was signalled (R207, R216)
  ownerDone : Tab Nat := []             -- last step of a layer that another owner has signalled: key layer * 2^15 + position (R21)
  rewritten : List (Nat × Nat) := []    -- ranges that the host has written while the context is held (R199, R392)
  parityOut : Tab ParityOut := []       -- parity messages to each holder, by member index (R378)
  cistern   : Option W32 := none
  fetches   : List Fetch := []
  stats     : Stats := {}
  purge     : Option Purge := none
  snapshot  : List Byte := []
  folds     : Folds := {}
  recovery  : Recovery := {}
  gathered  : Tab Nat := []             -- per layer and expert (layer * 4096 + expert), the last step whose working copy has been gathered (R237)
  deriving DecidableEq, Repr

/-- A fence held by a context (R346, R362). -/
structure Fence where
  owner  : Nat
  value  : W32
  init   : W32
  stride : W16
  host   : Bool
  frozen : Bool := false
  deriving DecidableEq, Repr

/-! ### Matrix Arrays, banks, Sluice and vector units -/

/-- Tile states (R95). -/
inductive TileState where
  | free | leased | inPass | handover | held
  deriving DecidableEq, Repr

/-- An accumulator tile (R94, R95, R96), with the record its operation keeps for R45, R54 and R79. -/
structure Tile where
  st       : TileState := .free
  ctx      : Nat := 0
  handle   : Nat := 0
  int      : Bool := false
  clearing : Bool := false
  poisoned : Bool := false
  elems    : Tab W32 := []
  seen     : Tab Nat := []      -- per element: bit 0 +inf seen, bit 1 -inf seen (R45)
  flags    : Nat := 0
  firstRun : Option Nat := none
  colLo    : Nat := 255
  colHi    : Nat := 0
  dmaFlags : Nat := 0           -- flags of the DMA engines' conversions (R314), with their columns
  dmaLo    : Nat := 255
  dmaHi    : Nat := 0
  tapFlags : Nat := 0           -- flags of the Rill's conversions (R132)
  deriving DecidableEq, Repr

/-- What a pass is for: a task's tile, a statistics pass (R135), or the array work of an update block (R17, R207). -/
inductive PassKind where
  | task (slot task : Nat)
  | stat (layer side block group : Nat)
  | pre (shard block : Nat)
  deriving DecidableEq, Repr

/-- A pass that has started and not ended (R70, R78), with the operands the DMA engines built (R67..R69). -/
structure Pass where
  kind    : PassKind
  ctx     : Nat
  index   : Nat := 0                       -- pass index in the task
  run     : Nat := 0                       -- run index for the tile (R78)
  tile    : Nat := 0
  pos     : Nat := 0
  fmt     : Nat := 0
  split   : Nat := 0                       -- split FP32 pass 1..8, else 0
  overwr  : Bool := true                   -- overwrite: the first run of an operation that does not accumulate
  fin     : Bool := false
  cols    : Nat := 256
  zfill   : Bool := false
  rows    : List (Nat × List Nat) := []    -- fed rows and their K element codes
  rowSc   : List (List Nat) := []          -- MX scale codes per fed row
  image   : List (List Nat) := []          -- per column, K element codes
  imageSc : List (List Nat) := []
  keep    : List (List Bool) := []         -- element mask per fed row
  aStat   : Bool := false
  mxA     : Bool := false
  mxB     : Bool := false
  dmaFlags : Nat := 0
  dmaLo   : Nat := 255
  dmaHi   : Nat := 0
  replayed : Bool := false
  deriving DecidableEq, Repr

/-- A Sluice slot (R97). -/
structure SluiceSlot where
  tile   : Nat
  status : W32
  ctx    : Nat
  slot   : Nat
  task   : Nat
  pos    : Nat
  vxu    : Nat
  deriving DecidableEq, Repr

/-- One lane's partial of a reduction (R112). -/
structure Partial where
  n     : Nat := 0
  v     : W32 := 0
  m2    : W32 := 0
  flags : Nat := 0
  deriving DecidableEq, Repr

/-- A VXU task in progress (R103, R107, R117, R119). -/
structure VxuRun where
  ctx     : Nat
  slot    : Nat
  task    : Nat
  tile    : Option SluiceSlot
  addr    : Nat
  words   : Rec
  row     : Nat := 0                   -- place among the dimension-0 runs that the task visits
  group   : Nat := 0
  second  : Bool := false              -- second read of a long softmax row (R117)
  logits  : List (W32 × Bool) := []    -- row logits with their mask bit
  rowNan  : Bool := false              -- an unmasked NaN logit met in the first read (R116)
  rowInf  : Nat := 0                   -- unmasked +inf logits met in the first read
  pairs   : Tab (W32 × W32) := []      -- per lane (mm, sigma) of the first read
  reds    : Tab (List Partial) := []
  flags   : Nat := 0
  laneLo  : Nat := 128
  laneHi  : Nat := 0
  capIdx  : Option Nat := none
  counts  : Tab Nat := []              -- TOPK: pairs accepted per expert
  lists   : Tab Nat := []              -- TOPK: entries sent per destination
  queue   : List (Nat × W64) := []     -- TOPK: entries the collective engine has not taken
  sent    : Nat := 0                   -- TOPK: entries taken, or formed again after they were (R102)
  deriving DecidableEq, Repr

/-- An array group: MXA, bank, Sluice and VXU (R61, R88, R94, R97, R103). -/
structure ArrayUnit where
  retired   : Bool := false
  halted    : Bool := true
  parStuck  : Bool := false
  katStuck  : Bool := false
  spareCtl  : W32 := 0
  skewTrim  : W32 := 0
  parEvents : Nat := 0
  katFails  : Nat := 0
  katRun    : Bool := false            -- a known-answer test is due or running
  fedBy     : W64 := 0                 -- contexts that fed a pass since the last passing KAT (R86)
  katNs     : Nat := 0                 -- time of the last passing KAT, in ns since the module reset
  katPassed : Bool := true             -- the last test passed, and no repair register has been written since (R91)
  lastCtx   : Nat := 63
  tiles     : Tab Tile := []
  passes    : List Pass := []
  slots     : List SluiceSlot := []
  handover  : Option SluiceSlot := none
  transfer  : List SluiceSlot := []
  counters  : Tab W64 := []
  vxuCtr    : Tab W64 := []
  runs      : List VxuRun := []        -- VXU tasks in progress, the oldest first
  memWaited : Nat := 0                 -- groups that a ready memory task has waited (R104)
  vxuCtx    : Nat := 63                -- context of the last memory task taken
  stalled   : Nat := 0
  deriving DecidableEq, Repr

/-! ### Memory -/

/-- A write-combining entry (R294); a stack's list holds the oldest first. -/
structure WcbEntry where
  sector : Nat
  bytes  : List (Nat × Byte)     -- offset in the sector and byte
  age    : Nat := 0              -- management ticks since its allocation
  deriving DecidableEq, Repr

/-- Channel states, in the order of their codes (R317). -/
inductive ChState where
  | active | retrainQueued | retraining | relocating | fenced | lost
  deriving DecidableEq, Repr

/-- An HBM channel (R317). -/
structure Channel where
  state     : ChState := .active
  -- accesses that wait: (sector, bytes), the first 256 of them in the hold queue; an access that writes nothing carries no bytes
  hold      : List (Nat × List (Nat × Byte)) := []
  blocked   : Bool := false      -- an access has exhausted its repeats: every later one waits until the retrain (R299)
  ce        : Nat := 0
  ue        : Nat := 0
  parRetry  : Nat := 0
  retrains  : Nat := 0
  cursor    : Nat := 0           -- next granule to relocate
  paused    : Bool := false      -- relocation paused for a retrain (R319)
  scrubPos  : Nat := 0
  deriving DecidableEq, Repr

/-- A remap entry (R306). -/
structure Remap where
  target : Nat
  slot   : Nat
  poison : Bool
  deriving DecidableEq, Repr

/-- A bandwidth regulator (R298). -/
structure Regulator where
  rate   : W16 := 0
  bucket : BitVec 20 := 0x10000
  tokens : BitVec 20 := 0x10000
  frac   : Nat := 0              -- sixteenths of a token
  owed   : List (Nat × Bool × Nat) := []   -- accesses that wait for tokens, oldest first: context, by a DMA engine, tokens missing
  deriving DecidableEq, Repr

/-- An accumulation buffer that the Reservoir holds: the HBM range that names it, its place in its context's accumulation region, and the
region's shares on the base dies (R212, R312). -/
structure Placed where
  ctx    : Nat
  base   : Nat
  bytes  : Nat
  start  : Nat           -- place of its first byte in the region
  share  : Nat           -- bytes of the region on each die
  shares : List Nat      -- where the share of each die begins
  deriving DecidableEq, Repr

structure Mem where
  placed    : List Placed := []
  bytes     : Memory := []
  poison    : List Nat := []          -- poisoned units: addresses of 64-byte sectors and Reservoir words
  wcb       : Tab (List WcbEntry) := []
  chans     : Tab Channel := []
  queue     : List Nat := []
  busy      : Option Nat := none
  order     : List Nat := []          -- channels in fence order (the repair log)
  remap     : Tab Remap := []         -- key: channel * 2^19 + local index
  used      : Tab Nat := []           -- spare slots used per channel
  regs      : Tab Regulator := []
  counters  : Tab W64 := []           -- stack * 8 + counter
  relocated : W64 := 0
  exhausted : Bool := false
  deriving DecidableEq, Repr

/-! ### Fabric -/

/-- Port states, in the order of their codes (R284). -/
inductive PortState where
  | down | training | discovery | up | held | retired
  deriving DecidableEq, Repr

/-- The far end's DISCOVER record (R268). -/
structure FarEnd where
  position : Nat             -- with bit 15 set for a spare not in a position
  spare    : Nat             -- spare identifier, 0xFFFF for a working module
  port     : Nat
  axis     : Byte            -- axis and direction
  tag      : Nat
  crc      : W32
  sent     : W64
  echoed   : W64
  deriving DecidableEq, Repr

/-- A fabric port (R249..R259, R284, R285). -/
structure Port where
  state     : PortState := .down
  lanes     : BitVec 4 := 0
  cfgErr    : Bool := false
  mediaBad  : Bool := false
  rtt       : W16 := 0
  vcShare   : W32 := 0x00444444
  arbCfg    : W32 := 0x00008421
  fcsErr    : Nat := 0
  hdrErr    : Nat := 0
  laneDrops : Nat := 0
  misroute  : Nat := 0
  counters  : Tab W64 := []
  hopTx     : W16 := 0
  hopRx     : W16 := 0
  nakOut    : Bool := false
  replay    : List TxFrame := []
  fails     : Nat := 0
  credits   : List W32 := []          -- far end's cumulative credit counts, VC 0 first
  usedTx    : Tab Nat := []           -- 64-byte units sent per VC
  freed     : Tab Nat := []           -- 64-byte units returned per VC
  waiting   : List TxFrame := []
  turn      : Nat := 0               -- place in the round robin over input port and VC (R266)
  media     : Option Media := none   -- what the CMIS memory holds (R267)
  rttMax    : Nat := 0               -- largest round trip of the DISCOVER exchanges, in ns (R271)
  exchanges : Nat := 0               -- DISCOVER exchanges since the link came up (R271)
  stamps    : List (Nat × W64) := [] -- timestamps of the records whose exchange is open, newest first, with the PPS steps before each (R426)
  lost      : Bool := false          -- it has gone down with its die and its loss is still to be handled (R280)
  good      : BitVec 4 := 0          -- lanes that this end reports good (R253)
  farGood   : BitVec 4 := 0          -- lanes that the far end reports good
  quota     : List Nat := []          -- frames that TC 0, 1 and 2 may still send in this round (R266)
  ackOwed   : Bool := false
  record    : Option FarEnd := none
  readmit   : Option Nat := none      -- when a lane was last re-admitted, in ns (R253)
  deriving DecidableEq, Repr

/-- What a received frame does once every frame before it has been taken (R263): nothing, raise a fence after the last frame of its
message, or carry a part of a message that is handled whole. -/
inductive RxItem where
  | plain (last : Bool)
  | fence (ctx fence : Nat) (last : Bool)
  | part (op ctx : Nat) (first last : Bool) (off : Nat) (data : List Byte)
  deriving DecidableEq, Repr

/-- A receive stream (R261, R263). -/
structure RxStream where
  expected : BitVec 24 := 0
  got      : List (BitVec 24) := []
  later    : List (BitVec 24 × RxItem) := []
  acc      : Tab Byte := []           -- the message being received: bytes by their offset (R263)
  fences   : List (Nat × Nat) := []   -- fences of the message being received
  deriving DecidableEq, Repr

/-- A transmit stream (R261, R262). -/
structure TxStream where
  next    : BitVec 24 := 0
  unacked : List TxFrame := []
  pending : List TxFrame := []        -- beyond the window of 1,024
  messages : Nat := 0                 -- messages sent, for STRIPE (R265)
  tasks   : List (BitVec 24 × Nat × Nat × Nat) := []  -- XFER tasks: last SEQ, context, slot, task
  deriving DecidableEq, Repr

/-- A collective operation in progress on this member (R275 to R278). -/
structure Collective where
  ctx      : Nat
  slot     : Nat
  task     : Nat
  group    : Nat
  op       : Nat
  src      : Nat                       -- addresses of its tensor descriptors
  dst      : Nat
  step     : Nat                       -- step of its grid
  seen     : List (Nat × Nat) := []    -- segments taken: 0 reducing or 1 gathering, byte offset
  finished : Bool := false             -- its destination region is written
  deriving DecidableEq, Repr

/-- A COLL segment that has not been taken: its collective has not started here, or its buffer is full (R210, R278). Its credit is
withheld: port, VC and units. -/
structure EarlySeg where
  ctx    : Nat
  group  : Nat
  op     : Nat
  offset : Nat
  data   : List Byte
  port   : Nat
  vc     : Nat
  units  : Nat
  deriving DecidableEq, Repr

/-- A frame that waits for a way to its destination, and whether it is a resend (R262, R272). -/
structure Parked where
  frame : TxFrame
  retx  : Bool := false
  deriving DecidableEq, Repr

structure Fabric where
  etype    : W16 := 0x88B5
  position : BitVec 15 := 0
  isSpare  : Bool := false
  assigned : Bool := false            -- a SPARE_ASSIGN is in force (R442)
  ports    : Tab Port := []
  rx       : Tab RxStream := []
  tx       : Tab TxStream := []
  parked   : List Parked := []        -- frames that wait for a way to their destination
  detours  : List (Nat × Nat) := []   -- (axis, lower coordinate) of links that are down
  peers    : Tab W64 := []
  groups   : Tab Rec := []
  colls    : List Collective := []
  early    : List EarlySeg := []
  dispatch : Tab (List (Nat × W64)) := []   -- entries by place in the list; key: context * 2^15 + source
  listed   : Tab (List W64) := []     -- the lists this module has sent; key: context * 2^15 + destination
  rows     : Tab Nat := []            -- bytes of row WRITEs received; key: context * 2^48 + address
  combine  : Tab Bool := []           -- per context: the rows are dispatched, the combine is next (R242)
  psteps   : Tab Nat := []            -- PSTEP by (context, source, block)
  pmsgs    : Tab W32 := []            -- last MSG applied; key: context * 2^15 + source
  deriving DecidableEq, Repr

/-! ### Root Engines, Fused Update Units and Resident Solves -/

/-- A square matrix of KQ32 words by rows, with its block exponent (R38). -/
structure Mat where
  rows : List (List Int) := []
  exp  : Int := 0
  deriving DecidableEq, Repr

/-- A report of replaced pivots (R171): how many, the first one's index, and whether one was zero or negative. -/
structure Pivots where
  count : Nat := 0
  first : Nat := 0
  zero  : Bool := false
  deriving DecidableEq, Repr

/-- The product that an engine runs next in a ROOT refresh, by its place in R165. -/
inductive RootPhase where
  | warmPower (i : Nat)     -- Y = Y * Y
  | warmM                   -- M = Y * A
  | coldA2 | coldA4
  | stepX (k : Nat)         -- X = X * T
  | stepQ (k i : Nat)       -- Q = Q * Q
  | stepM (k : Nat)         -- M = Q * M
  | damped (i : Nat)        -- block product i of the DAMPED sequence of R170
  | resident (handle : Nat) -- a Resident Solve block operation
  | done
  deriving DecidableEq, Repr

/-- A job on a Root Engine (R157, R165, R170, R181). -/
structure RteJob where
  ctx      : Nat
  layer    : Nat := 0
  side     : Nat := 0
  block    : Nat := 0
  step     : Nat := 0
  venv     : Nat := 0
  order    : Nat := 0
  p        : Nat := 4
  trim     : Bool := true
  isDamped : Bool := false
  cold     : Bool := false
  mismatch : Bool := false
  iters    : Nat := 0
  eA       : Int := 0
  eX0      : Int := 0
  a        : Mat := {}
  x0       : Mat := {}             -- the words a warm start begins from
  x        : Mat := {}
  y        : Mat := {}
  m        : Mat := {}
  t        : Mat := {}
  q        : Mat := {}
  phase    : RootPhase := .done
  tile     : Nat := 0              -- output tiles of the running product already drained
  retried  : Bool := false
  tiles    : List Nat := []
  sat      : Bool := false
  satA     : Bool := false         -- the assembly saturated
  resid    : W32 := 0
  tag      : BitVec 128 := 0
  stopped  : Bool := false         -- R148: a non-finite factor stopped the refresh
  piv      : Pivots := {}          -- the pivots that a DAMPED refresh replaced (R171)
  deriving DecidableEq, Repr

structure Rte where
  inService : Bool := true
  halted    : Bool := false            -- stopped by a second residue mismatch until its fault is handled (R164, R182)
  job       : Option RteJob := none
  restart   : List RteJob := []        -- jobs taken over from a failed engine, to run again from their assembled blocks
  publish   : List RteJob := []    -- refreshes that wait to publish (R177)
  serves    : List Nat := []       -- virtual engines mapped here besides its own
  lastCtx   : Nat := 63            -- context served last (R335)
  ownMoved  : Bool := false        -- its own virtual engine runs elsewhere (R182)
  counters  : Tab W64 := []
  deriving DecidableEq, Repr

/-- Work queued on a Resident Solve structure (R190). -/
structure RsWork where
  solve    : Bool
  refactor : Bool
  fence    : Nat
  nrhs     : Nat
  b        : Nat
  x        : Nat
  status   : Nat
  blocks   : Nat := 0              -- block operations done
  issued   : Nat := 0              -- place in issue order among all structures (R181)
  deriving DecidableEq, Repr

/-- A Resident Solve structure (R184..R190). -/
structure RsStruct where
  owner     : Nat
  order     : Nat
  pattern   : List (Nat × Nat)
  factor    : List (Nat × Nat)
  damp      : W32
  full      : Bool
  memBase   : Nat
  memBytes  : Nat
  gen       : W32 := 0
  staged    : Option W32 := none
  lastSeen  : Bool := false        -- the staged generation has its LAST record
  exchanged : Bool := false        -- which image is resident
  factorGen : Option W32 := none
  work      : List RsWork := []
  running   : Bool := false
  record    : Rec := []
  deriving DecidableEq, Repr

/-- A Fused Update Unit (R208, R222). -/
structure Fuu where
  sweep    : Option (Nat × Nat × Nat) := none  -- context, shard, block of the write sweep in progress
  lastCtx  : Nat := 63                         -- context served last (R335)
  counters : Tab W64 := []
  deriving DecidableEq, Repr

/-! ### Faults, power, boot, management -/

/-- An event record (R359). -/
structure Event where
  seq       : W32
  code      : W16
  cls       : Nat
  ctx       : Option Nat
  unitKind  : Nat
  unitIndex : Nat
  aux       : W32
  time      : W64
  arg       : W64
  deriving DecidableEq, Repr

/-- A dump being written (R372..R374). -/
structure Dump where
  slot     : Nat
  seq      : W32
  cause    : W16
  time     : W64
  hung     : List (Nat × Nat) := []   -- unit kind and index of the units that did not answer
  deriving DecidableEq, Repr

structure Faults where
  log       : List Event := []
  nextSeq   : W32 := 0
  counters  : Tab W64 := []
  engines   : List Engine := []        -- engine resets in progress
  dies      : List Die := []           -- die resets in progress
  coreUp    : Bool := false
  restart   : Option CoreFault := none -- a core restart in progress
  restarts  : List Nat := []           -- ticks of the restarts of the last 60 s
  dump      : Option Dump := none
  dumps     : List (Nat × W32) := []   -- slot and SEQ of the written dumps
  nextDump  : W32 := 0
  resetAsked : Bool := false           -- a warm reset has been asked for and not yet performed (R365, R368)
  deriving DecidableEq, Repr

/-- Power states, in the order of their codes (R422). -/
inductive PState where
  | run | sleep | deepSleep | ride | stopping
  deriving DecidableEq, Repr

/-- PPS states, in the order of their codes (R422). -/
inductive PpsState where
  | free | locked | holdover
  deriving DecidableEq, Repr

/-- A clock as the boot and R412 to R415 see it: its counting windows and its ready flag. -/
structure ClockRef where
  windows : List Nat := []
  ready   : Bool := false
  deriving DecidableEq, Repr

structure Power where
  pstate    : PState := .run
  before    : PState := .run          -- the state an input cut returns to
  level     : Nat := 0
  cycFrac   : Nat := 0                -- the part of an arithmetic cycle that has passed, in units of 1/400 (log entry 9)
  target    : Nat := 0                -- level the sequencer moves to (R405, R406)
  throttle  : Bool := false
  cut       : Bool := false
  capped    : Bool := false
  shaping   : Bool := false
  vin       : W16 := 0
  vinMin    : W16 := 0xFFFF
  vinMax    : W16 := 0
  rideUs    : W32 := 0
  pTarget   : Nat := 0
  pIn       : Nat := 0
  pBurn     : Nat := 0
  holdup    : Nat := 0
  capacity  : Nat := 0
  capForce  : Nat := 3600
  capFrac   : Nat := 0                -- tenths of a watt of the cap in force and of the target
  envFrac   : Nat := 0
  ramp      : Bool := true
  pacing    : Bool := false          -- pacing inserts idle cycles (R405)
  halfIdle  : Bool := false          -- pacing holds at least half of all cycles idle (R411)
  thermal   : Nat := 7
  tMax      : Nat := 0
  tSensor   : Nat := 0
  reference : ClockRef := {}
  mgmtPll   : ClockRef := {}
  cdPll     : Tab ClockRef := []
  ioPll     : Tab ClockRef := []
  hbmPll    : Tab ClockRef := []
  lastLoss  : Tab Nat := []           -- tick of the last loss of DVFS PLL n
  enables   : BitVec 8 := 0           -- run enables of CDn and BDn
  swRefused : Bool := false
  seen      : BitVec 6 := 0           -- W1C bits [5:0] of offset 0x20
  seconds   : BitVec 34 := 0
  nanos     : Nat := 0
  frac      : Nat := 0                -- the part below 1 ns, in units of 10^-10 ns
  slewPpb   : Int := 0
  timeHi    : W32 := 0
  pps       : PpsState := .free
  ppsErr    : Int := 0
  ppsSteps  : Nat := 0                -- PPS steps (R418), against which an exchange under way is held (R426)
  ppsSince  : Nat := 0                -- ns since the last accepted edge, at the last edge
  ppsRun    : Nat := 0                -- successive rejected edges 1 s apart
  ppsAt     : Option Nat := none      -- tick of the last edge (PPS_PRESENT, R422)
  pendSec   : Option (BitVec 34) := none
  secSet    : Bool := false
  stepped   : Bool := false
  counters  : Tab W64 := []           -- BURN_MJ ENERGY_MJ SHAPE_SHORT_MS PPS_REJECTS
  stopCause : Option StopCause := none
  railsDown : Bool := false           -- step 3 of an orderly stop is done (R402)
  ticks     : Nat := 0                -- management ticks since the last module reset: no setting of the time counter moves it
  shaped    : Bool := false           -- T has started at the measured draw (R409)
  throttled : Bool := false           -- the input throttle limits the level (R405)
  cooled    : Bool := false           -- the thermal limit limits the level (R405)
  enveloped : Bool := false           -- the envelope limits the level (R405)
  deriving DecidableEq, Repr

/-- A firmware slot of the flash (R428): the bytes programmed, 0xFF where erased. -/
structure FwSlot where
  bytes   : Tab Byte := []
  deriving DecidableEq, Repr

/-- A power fault record (R403). -/
structure PowerRecord where
  cause    : Nat
  time     : W64
  vinMin   : W16
  vinMax   : W16
  pBefore  : Nat
  tMax     : Nat
  rideUs   : W32
  eventSeq : W32
  deriving DecidableEq, Repr

structure Boot where
  stage       : Nat := 0
  recovery    : Bool := false
  booted      : Fin 2 := 0
  vendorKey   : BitVec 256 := 0
  romDigest   : BitVec 256 := 0
  rollback    : Nat := 0
  ownerDigest : List (BitVec 256) := [0, 0, 0, 0]
  ownerState  : List Nat := [0, 0, 0, 0]
  ownerPub    : List Byte := []
  slotA       : FwSlot := {}
  slotB       : FwSlot := {}
  pref        : Fin 2 := 0
  trial       : Bool := false
  tryCount    : Nat := 0
  bootSeq     : W32 := 0
  bootCount   : W32 := 0
  reported    : W32 := 0
  repairArr   : List (Nat × W32 × Bool) := []  -- array, SPARE_CTL, retired (R90)
  repairRte   : List Nat := []
  powerLog    : List PowerRecord := []
  netSettings : Tab W64 := []
  fwUpdate    : Option (Fin 2 × Nat) := none
  serial      : W64 := 0
  mfgTime     : W64 := 0
  hostMac     : List (BitVec 48) := [0, 0]
  stackId     : List W64 := []
  identPub    : List Byte := []
  identDigest : BitVec 256 := 0
  mfgSig      : List Byte := []
  stepping    : Byte := 0xB1
  slot        : SlotRecord := {}
  slotValid   : Bool := false
  eepromBad   : Bool := false         -- the module EEPROM failed its CRC at this boot (R441)
  measures    : List (BitVec 256) := []
  stacksRead  : List W64 := []
  deriving DecidableEq, Repr

structure Mgmt where
  alertCause : BitVec 9 := 0
  alertEn    : BitVec 9 := 0x1FF
  enrollEn   : Bool := false
  recState   : Nat := 0
  recValid   : Bool := false
  recData    : Tab W32 := []
  dynAddr    : Option (BitVec 7) := none
  resetLow   : Bool := false
  deriving DecidableEq, Repr

/-- The state of the module. `free` and `out` are the model's own (log entries 4 and 5). -/
structure State where
  pending : List Instr := []
  free    : Nat := 0
  out     : List Out := []
  kcp     : Kcp := {}
  ctxs    : Tab Ctx := []
  fences  : Tab Fence := []
  arrays  : Tab ArrayUnit := []
  mem     : Mem := {}
  fabric  : Fabric := {}
  rtes    : Tab Rte := []
  structs : Tab RsStruct := []
  fuus    : Tab Fuu := []
  lnt     : Tab Rec := []
  faults  : Faults := {}
  power   : Power := {}
  boot    : Boot := {}
  mgmt    : Mgmt := {}
  deriving DecidableEq, Repr

/-- The module right after reset (R15): every field at the value of its rule's reset column; where the manual gives
none, the value that INVENTORY.md and the log name. It waits in boot (stage 0) for COLD_BOOT. -/
def State.reset : State := {}

/-- Reasons for which the model stops. No meaning of this model raises one: every command has an effect, or is not
taken (log entry 3). Safe: none is reachable. -/
inductive Fault where
  | /-- Kept for a command that names a part the module does not have; raised by no meaning. Safe. -/
    noSuchUnit
  deriving DecidableEq, Repr

/-- Reasons for which a command has no meaning in the model. -/
inductive Refusal where
  | /-- A constructor of Instr whose meaning is not written: raised by exec's arm alone. Safe. -/
    notModelled (mnemonic : String)
  deriving DecidableEq, Repr

end Sys2Proof.Machine
end

