-- ==== Sys2Proof/Machine/Tab.lean ====
section
/-!
DEFINITION. Sparse tables and byte memory: the only operations that read or change one.
-/
namespace Sys2Proof.Machine

/-- The value listed at an index, if any. -/
def Tab.find? {α : Type} (t : Tab α) (i : Nat) : Option α :=
  match t with
  | [] => none
  | (k, v) :: r => if k = i then some v else Tab.find? r i

/-- The value at an index; an unlisted index holds the reset value `d`. -/
def Tab.get {α : Type} (d : α) (t : Tab α) (i : Nat) : α := (Tab.find? t i).getD d

/-- Set the value at an index, keeping the indices rising. -/
def Tab.put {α : Type} (t : Tab α) (i : Nat) (v : α) : Tab α :=
  match t with
  | [] => [(i, v)]
  | (k, w) :: r => if i < k then (i, v) :: (k, w) :: r else if k = i then (i, v) :: r else (k, w) :: Tab.put r i v

/-- Remove an index: it holds its reset value again. -/
def Tab.drop {α : Type} (t : Tab α) (i : Nat) : Tab α := List.filter (fun e => decide (e.1 ≠ i)) t

/-- Change the value at an index. -/
def Tab.modify {α : Type} (d : α) (t : Tab α) (i : Nat) (f : α → α) : Tab α := Tab.put t i (f (Tab.get d t i))

/-- Change every listed value. -/
def Tab.mapAll {α : Type} (t : Tab α) (f : Nat → α → α) : Tab α := List.map (fun e => (e.1, f e.1 e.2)) t

/-- Indices strictly rising: the one canonical form of a table. -/
def Tab.wf {α : Type} (t : Tab α) : Bool :=
  match t with
  | [] => true
  | (k, _) :: r => r.all (fun e => decide (k < e.1)) && Tab.wf r

/-- Add to a counter of a counter table; 64-bit counters wrap (R421). -/
def Tab.count (t : Tab W64) (i n : Nat) : Tab W64 := Tab.modify 0 t i (· + BitVec.ofNat 64 n)

/-- The byte at an address; a byte that nothing has written reads 0 (log entry 6). -/
def Memory.byte (m : Memory) (a : Nat) : Byte := Tab.get 0 m a

/-- Write one byte: 0 is what an unlisted byte reads as, so writing it removes the entry. -/
def Memory.write (m : Memory) (a : Nat) (b : Byte) : Memory := if b = 0 then Tab.drop m a else Tab.put m a b

/-- Write bytes at consecutive addresses. -/
def Memory.writes (m : Memory) (a : Nat) (bs : List Byte) : Memory :=
  match bs with
  | [] => m
  | b :: r => Memory.writes (Memory.write m a b) (a + 1) r

/-- Clear the bytes of a range to 0. -/
def Memory.clear (m : Memory) (a n : Nat) : Memory := List.filter (fun e => !(decide (a ≤ e.1) && decide (e.1 < a + n))) m

/-- The bytes of a range. -/
def Memory.bytes (m : Memory) (a n : Nat) : List Byte := (List.range n).map (fun i => Memory.byte m (a + i))

/-- The canonical form: addresses strictly rising, no entry equal to 0. -/
def Memory.wf (m : Memory) : Bool := Tab.wf m && m.all (fun e => decide (e.2 ≠ 0))

end Sys2Proof.Machine
end

