-- ==== Sys2Proof/Machine/Num.lean ====
section
/-!
DEFINITION. Numbers: the floating formats (R32, R41), exact values, rounding to nearest even (R49), MX blocks (R35,
R50), KQ32 (R38), the split of FP32 (R47) and the FP32 operations of the Vector Unit (R60, R109, R110).
-/
namespace Sys2Proof.Machine

open Sys2Proof

/-! ### Flags (R52), as bits of the status word (R54) -/

def fInv : Nat := 1
def fNan : Nat := 2
def fOvf : Nat := 4
def fUnf : Nat := 8
def fSat : Nat := 16
def fEmpty : Nat := 64

/-- An exact value: NaN, an infinity, or (−1)^neg × m × 2^e; the sign of a zero is kept (R34). -/
inductive Num where
  | nan
  | inf (neg : Bool)
  | fin (neg : Bool) (m : Nat) (e : Int)
  deriving DecidableEq, Repr

/-- A value with the flags that forming it raised. -/
abbrev Flagged (α : Type) := α × Nat

/-- A floating format (R32, R41): exponent and fraction bits, bias, and whether the top exponent holds inf and NaN
(E4M3 has a NaN at the top code only; E2M1 has neither). -/
structure Fmt where
  ebits : Nat
  fbits : Nat
  bias  : Int
  ieee  : Bool := true
  nanTop : Bool := false

def fp32 : Fmt := { ebits := 8, fbits := 23, bias := 127 }
def bf16 : Fmt := { ebits := 8, fbits := 7, bias := 127 }
def fp16 : Fmt := { ebits := 5, fbits := 10, bias := 15 }
def e5m2 : Fmt := { ebits := 5, fbits := 2, bias := 15 }
def e4m3 : Fmt := { ebits := 4, fbits := 3, bias := 7, ieee := false, nanTop := true }
def e2m1 : Fmt := { ebits := 2, fbits := 1, bias := 1, ieee := false }
def cs24 : Fmt := { ebits := 9, fbits := 14, bias := 255 }
def cs40 : Fmt := { ebits := 9, fbits := 30, bias := 255 }

/-- Largest exponent of a finite value. -/
def Fmt.emax (f : Fmt) : Int := (2 ^ f.ebits : Nat) - 1 - (if f.ieee then 1 else 0) - f.bias
/-- Exponent of the smallest normal. -/
def Fmt.emin (f : Fmt) : Int := 1 - f.bias
/-- Largest significand at the largest exponent, as an integer with `fbits` fraction bits. -/
def Fmt.topSig (f : Fmt) : Nat := 2 ^ (f.fbits + 1) - (if f.nanTop then 2 else 1)

/-- The value of a code (R32). -/
def Fmt.decode (f : Fmt) (code : Nat) : Num :=
  let neg := (code >>> (f.ebits + f.fbits)) % 2 = 1
  let ex := (code >>> f.fbits) % 2 ^ f.ebits
  let fr := code % 2 ^ f.fbits
  if f.ieee && ex = 2 ^ f.ebits - 1 then (if fr = 0 then .inf neg else .nan)
  else if f.nanTop && ex = 2 ^ f.ebits - 1 && fr = 2 ^ f.fbits - 1 then .nan
  else if ex = 0 then .fin neg fr (f.emin - f.fbits)
  else .fin neg (2 ^ f.fbits + fr) ((ex : Int) - f.bias - f.fbits)

/-- Code of the canonical NaN (R33). -/
def Fmt.nanCode (f : Fmt) : Nat :=
  if f.ieee then (2 ^ f.ebits - 1) * 2 ^ f.fbits + 2 ^ (f.fbits - 1) else 2 ^ (f.ebits + f.fbits) - 1
def Fmt.signBit (f : Fmt) (neg : Bool) : Nat := if neg then 2 ^ (f.ebits + f.fbits) else 0
def Fmt.infCode (f : Fmt) (neg : Bool) : Nat := f.signBit neg + (2 ^ f.ebits - 1) * 2 ^ f.fbits
/-- Code of the largest finite value. -/
def Fmt.maxCode (f : Fmt) (neg : Bool) : Nat := f.signBit neg + (f.emax + f.bias).toNat * 2 ^ f.fbits + (f.topSig - 2 ^ f.fbits)

/-- m × 2^(−k), rounded to the nearest integer, ties to even, and whether it was exact. -/
def rneShift (m k : Nat) : Nat × Bool :=
  if k > Nat.log2 m + 2 then (0, m = 0) else
  let q := m >>> k
  let r := m - q <<< k
  let half := 2 ^ k
  if 2 * r < half || (2 * r = half && q % 2 = 0) then (q, r = 0) else (q + 1, r = 0)

/-- m × 2^e with e scaled to a given exponent: the integer nearest to m × 2^(e − q), and whether it is exact. -/
def rneAt (m : Nat) (e q : Int) : Nat × Bool :=
  if q ≤ e then (m <<< (e - q).toNat, true) else rneShift m (q - e).toNat

/-- Floor of log2 of m × 2^e, for m above 0. -/
def topExp (m : Nat) (e : Int) : Int := e + Nat.log2 m

/-- A magnitude rounded to a format with no upper limit: significand, exponent of its last place, and whether exact. -/
def Fmt.roundMag (f : Fmt) (m : Nat) (e : Int) : Nat × Int × Bool :=
  let q := max (topExp m e) f.emin - f.fbits
  let r := rneAt m e q
  if r.1 = 2 ^ (f.fbits + 1) then (2 ^ f.fbits, q + 1, r.2) else (r.1, q, r.2)

/-- The rounded magnitude exceeds the format's largest finite value (R49). -/
def Fmt.overflows (f : Fmt) (sig : Nat) (q : Int) : Bool :=
  decide (q + f.fbits > f.emax) || (decide (q + f.fbits = f.emax) && decide (sig > f.topSig))

/-- What becomes of a finite value that is out of range. -/
inductive Over where
  | toInf | saturate | toNan
  deriving DecidableEq, Repr

/-- Code of a value in a format by one RNE, with the flags of R49 and R52. An infinity in a format without one is the
limit, or NaN, with INV. -/
def Fmt.encode (f : Fmt) (ov : Over) (x : Num) : Flagged Nat :=
  match x with
  | .nan => (f.nanCode, fNan)
  | .inf neg =>
    if f.ieee then (f.infCode neg, 0)
    else if ov = .toNan then (f.nanCode, fInv) else (f.maxCode neg, fInv)
  | .fin neg m e =>
    if m = 0 then (f.signBit neg, 0) else
    let r := f.roundMag m e
    if f.overflows r.1 r.2.1 then
      match ov with
      | .toInf => (f.infCode neg, fOvf)
      | .saturate => (f.maxCode neg, fSat)
      | .toNan => (f.nanCode, fOvf)
    else if r.1 < 2 ^ f.fbits then (f.signBit neg + r.1, if r.2.2 then 0 else fUnf)
    else (f.signBit neg + ((r.2.1 + f.fbits + f.bias).toNat * 2 ^ f.fbits + (r.1 - 2 ^ f.fbits)), 0)

/-- A value rounded to a format with infinities, as a value. -/
def Fmt.round (f : Fmt) (x : Num) : Flagged Num :=
  match x with
  | .fin _ _ _ => let r := f.encode .toInf x; (f.decode r.1, r.2)
  | y => (y, 0)

/-! ### Exact arithmetic -/

def Num.isNan : Num → Bool | .nan => true | _ => false
def Num.isInf : Num → Bool | .inf _ => true | _ => false
def Num.isZero : Num → Bool | .fin _ m _ => decide (m = 0) | _ => false
def Num.neg? : Num → Bool | .nan => false | .inf n => n | .fin n _ _ => n
def Num.negate : Num → Num | .nan => .nan | .inf n => .inf (!n) | .fin n m e => .fin (!n) m e
def Num.abs : Num → Num | .nan => .nan | .inf _ => .inf false | .fin _ m e => .fin false m e
def nZero : Num := .fin false 0 0
def nOne : Num := .fin false 1 0
/-- An integer as a value. -/
def Num.ofInt (i : Int) : Num := .fin (decide (i < 0)) i.natAbs 0
def Num.ofNat (n : Nat) : Num := .fin false n 0
/-- The exact value as (signed significand, exponent). -/
def signed (neg : Bool) (m : Nat) : Int := if neg then -(m : Int) else (m : Int)

/-- Exact sum of two values; infinities of both signs give NaN with INV (R52); an exact zero is −0 only when both terms
are −0 (R34). A NaN operand sets NAN_IN. -/
def Num.add (x y : Num) : Flagged Num :=
  match x, y with
  | .nan, _ => (.nan, fNan)
  | _, .nan => (.nan, fNan)
  | .inf a, .inf b => if a = b then (.inf a, 0) else (.nan, fInv)
  | .inf a, _ => (.inf a, 0)
  | _, .inf b => (.inf b, 0)
  | .fin a m e, .fin b n g =>
    if m = 0 && n = 0 then (.fin (a && b) 0 0, 0)
    else if m = 0 then (.fin b n g, 0)
    else if n = 0 then (.fin a m e, 0)
    else
      let q := min e g
      let s : Int := signed a (m <<< (e - q).toNat) + signed b (n <<< (g - q).toNat)
      (.fin (decide (s < 0)) s.natAbs q, 0)

/-- Exact product; 0 × inf gives NaN with INV. -/
def Num.mul (x y : Num) : Flagged Num :=
  match x, y with
  | .nan, _ => (.nan, fNan)
  | _, .nan => (.nan, fNan)
  | .inf a, .inf b => (.inf (a != b), 0)
  | .inf a, .fin b n _ => if n = 0 then (.nan, fInv) else (.inf (a != b), 0)
  | .fin a m _, .inf b => if m = 0 then (.nan, fInv) else (.inf (a != b), 0)
  | .fin a m e, .fin b n g => (.fin (a != b) (m * n) (e + g), 0)

/-- x × y + z without rounding. -/
def Num.fma (x y z : Num) : Flagged Num :=
  let p := x.mul y
  if x.isNan || y.isNan || z.isNan then (.nan, fNan ||| p.2) else
  if p.2 ≠ 0 then p else p.1.add z

/-- Quotient with 64 bits and a sticky bit below, enough for one RNE to any format. -/
def divMag (m : Nat) (e : Int) (n : Nat) (g : Int) : Nat × Int :=
  let k := 66 + Nat.log2 n
  let a := m <<< k
  let q := a / n
  (2 * q + (if a % n = 0 then 0 else 1), e - g - k - 1)

/-- x ÷ y (R110): a finite nonzero value by 0 is the signed infinity with OVF; 0/0 and inf/inf are NaN with INV. -/
def Num.div (x y : Num) : Flagged Num :=
  match x, y with
  | .nan, _ => (.nan, fNan)
  | _, .nan => (.nan, fNan)
  | .inf _, .inf _ => (.nan, fInv)
  | .inf a, .fin b _ _ => (.inf (a != b), 0)
  | .fin a _ _, .inf b => (.fin (a != b) 0 0, 0)
  | .fin a m e, .fin b n g =>
    if n = 0 then (if m = 0 then (.nan, fInv) else (.inf (a != b), fOvf))
    else if m = 0 then (.fin (a != b) 0 0, 0)
    else let r := divMag m e n g; (.fin (a != b) r.1 r.2, 0)

/-- Integer square root, one bit of the result at a time. -/
def isqrt (bits n : Nat) (acc : Nat := 0) : Nat :=
  match bits with
  | 0 => acc
  | k + 1 => let t := acc + 2 ^ k; isqrt k n (if t * t ≤ n then t else acc)

/-- Square root with a sticky bit (R52: of a value below zero it is NaN with INV; √−0 is −0). -/
def Num.sqrt (x : Num) : Flagged Num :=
  match x with
  | .nan => (.nan, fNan)
  | .inf neg => if neg then (.nan, fInv) else (.inf false, 0)
  | .fin neg m e =>
    if m = 0 then (.fin neg 0 0, 0) else
    if neg then (.nan, fInv) else
    let odd := (e % 2).toNat
    let n := m <<< (132 + odd)
    let r := isqrt (Nat.log2 n / 2 + 1) n
    (.fin false (2 * r + (if r * r = n then 0 else 1)) ((e - odd - 132) / 2 - 1), 0)

/-- Compare finite or infinite values: −1, 0 or 1, with −0 equal to +0. -/
def Num.cmp (x y : Num) : Int :=
  match x, y with
  | .nan, _ => 0
  | _, .nan => 0
  | .inf a, .inf b => if a = b then 0 else if a then -1 else 1
  | .inf a, _ => if a then -1 else 1
  | _, .inf b => if b then 1 else -1
  | .fin a m e, .fin b n g =>
    let q := min e g
    let l : Int := signed a (m <<< (e - q).toNat)
    let r : Int := signed b (n <<< (g - q).toNat)
    if l < r then -1 else if l = r then 0 else 1

/-- x < y in the order of MIN and MAX, where −0 lies below +0 (R110). -/
def Num.below (x y : Num) : Bool := decide (x.cmp y < 0) || (decide (x.cmp y = 0) && x.isZero && y.isZero && x.neg? && !y.neg?)
def Num.minOf (x y : Num) : Flagged Num := if x.isNan || y.isNan then (.nan, fNan) else (if y.below x then y else x, 0)
def Num.maxOf (x y : Num) : Flagged Num := if x.isNan || y.isNan then (.nan, fNan) else (if x.below y then y else x, 0)

/-! ### FP32 words -/

def val (w : W32) : Num := fp32.decode w.toNat
/-- FP32 code of a value by one RNE. -/
def toF32 (x : Num) : Flagged W32 := let r := fp32.encode .toInf x; (BitVec.ofNat 32 r.1, r.2)
/-- Round a value that already carries flags; a NaN it formed adds none. -/
def rnd (x : Flagged Num) : Flagged W32 :=
  match x.1 with
  | .nan => (0x7FC00000, x.2)
  | y => let r := toF32 y; (r.1, r.2 ||| x.2)

def f32add (a b : W32) : Flagged W32 := rnd ((val a).add (val b))
def f32sub (a b : W32) : Flagged W32 := rnd ((val a).add (val b).negate)
def f32mul (a b : W32) : Flagged W32 := rnd ((val a).mul (val b))
def f32fma (a b c : W32) : Flagged W32 := rnd ((val a).fma (val b) (val c))
def f32div (a b : W32) : Flagged W32 := rnd ((val a).div (val b))
def f32sqrt (a : W32) : Flagged W32 := rnd (val a).sqrt
def f32max (a b : W32) : Flagged W32 := rnd ((val a).maxOf (val b))
def f32min (a b : W32) : Flagged W32 := rnd ((val a).minOf (val b))
def f32abs (a : W32) : W32 := (toF32 (val a).abs).1
def f32one : W32 := 0x3F800000
def f32nan : W32 := 0x7FC00000
def f32inf (neg : Bool) : W32 := if neg then 0xFF800000 else 0x7F800000
/-- An FP32 code is finite. -/
def f32finite (a : W32) : Bool := decide (fieldOf a 30 23 ≠ 255)
def f32isNan (a : W32) : Bool := (val a).isNan
def f32isInf (a : W32) : Bool := (val a).isInf
def f32isZero (a : W32) : Bool := (val a).isZero
/-- a < b for FP32 codes that are not NaN. -/
def f32lt (a b : W32) : Bool := decide ((val a).cmp (val b) < 0)
def f32le (a b : W32) : Bool := decide ((val a).cmp (val b) ≤ 0)
/-- An unsigned integer as FP32, by RNE. -/
def f32ofNat (n : Nat) : W32 := (toF32 (.ofNat n)).1

/-- The FP32 codes within 1 ulp of an exact positive or negative result: `near c` says that code `c` is one; the free
choice picks among them (R60, log entry 10). -/
def pickUlp (root : Bool) (x r : W32) (near : W32 → Bool) : W32 :=
  if !f32finite r || f32isZero r then r else
  let cs := [r, r + 1, r - 1].filter fun c => f32finite c && near c
  (cs[Config.ulpChoice root x % max cs.length 1]?).getD r

/-- Exponent of the last place of an FP32 code. -/
def ulpExp (r : W32) : Int := max (fieldOf r 30 23 : Int) 1 - 150

/-- 1 ÷ a within 1 ulp (R60, R110). -/
def f32rcp (a : W32) : Flagged W32 :=
  let r := f32div f32one a
  match val a with
  | .fin neg m e =>
    if m = 0 then r else
    -- |c × a − 1| ≤ ulp × |a|
    let off := fun (c : W32) => (((val c).mul (.fin neg m e)).1.add (.fin true 1 0)).1.abs
    let c := pickUlp false a r.1 fun c => decide ((off c).cmp (.fin false m (e + ulpExp r.1)) ≤ 0)
    -- UNF and OVF are those of the result taken (R52)
    (c, if f32isInf c then fOvf else if fieldOf c 30 23 = 0 && !(off c).isZero then fUnf else 0)
  | _ => r

/-- 1 ÷ √a within 1 ulp. RSQRT(−0) is −inf with OVF (R110). -/
def f32rsqrt (a : W32) : Flagged W32 :=
  match val a with
  | .nan => (f32nan, fNan)
  | .inf neg => if neg then (f32nan, fInv) else (0, 0)
  | .fin neg m e =>
    if m = 0 then (f32inf neg, fOvf) else if neg then (f32nan, fInv) else
    let r := rnd ((nOne.div (Num.sqrt (.fin false m e)).1))
    let u : Num := .fin false 1 (ulpExp r.1)
    (pickUlp true a r.1 fun c =>
      let lo := ((val c).add u.negate).1
      let hi := ((val c).add u).1
      let sq := fun (t : Num) => ((t.mul t).1.mul (.fin false m e)).1
      (lo.neg? || decide ((sq lo).cmp nOne ≤ 0)) && decide ((sq hi).cmp nOne ≥ 0), r.2)

/-- Results at special operands of the operations that R60 only bounds (R110), when it fixes them. -/
def openSpecial (op : OpenOp) (x : Num) : Option (Flagged W32) :=
  match op, x with
  | _, .nan => some (f32nan, fNan)
  | .exp, .inf neg => some (if neg then 0 else f32inf false, 0)
  | .exp2, .inf neg => some (if neg then 0 else f32inf false, 0)
  | .log, .inf neg => some (if neg then (f32nan, fInv) else (f32inf false, 0))
  | .log2, .inf neg => some (if neg then (f32nan, fInv) else (f32inf false, 0))
  | .tanh, .inf neg => some (if neg then 0xBF800000 else f32one, 0)
  | .erf, .inf neg => some (if neg then 0xBF800000 else f32one, 0)
  | .sigm, .inf neg => some (if neg then 0 else f32one, 0)
  | .gelu, .inf neg => some (if neg then 0x80000000 else f32inf false, 0)
  | .log, .fin neg m _ => if m = 0 then some (f32inf true, fOvf) else if neg then some (f32nan, fInv) else none
  | .log2, .fin neg m _ => if m = 0 then some (f32inf true, fOvf) else if neg then some (f32nan, fInv) else none
  | _, .fin _ _ _ => none

/-! ### Enclosures of the functions that R60 bounds

A real is held as an integer over 2^128; every function below is within 2^-60 of the real it names, relative to its size where
the text says so. They serve to state R60's bound and nothing else. -/

/-- Product of two reals held over 2^128. -/
def fixMul (a b : Int) : Int := Int.fdiv (a * b) (2 ^ 128)
def fixOne : Int := 2 ^ 128
/-- ln 2, 2 ÷ √π and 1 ÷ √2, each over 2^128. -/
def fixLn2 : Int := 235865763225513294137944142764154484399
def fixErfScale : Int := 383967533763538142977158567454335403656
def fixRootHalf : Int := 240615969168004511545033772477625056927

/-- A finite value over 2^128. -/
def fixOf (neg : Bool) (m : Nat) (e : Int) : Int :=
  let k := e + 128
  signed neg (if 0 ≤ k then m <<< k.toNat else m >>> (-k).toNat)

/-- e^r for |r| below 1: 40 terms of the series. -/
def fixExp (r : Int) : Int :=
  ((List.range 40).foldl (fun (x : Int × Int) (k : Nat) => (x.1 + x.2, Int.fdiv (fixMul x.2 r) ((k : Int) + 1))) (0, fixOne)).1

/-- e^x as a significand over 2^128 and a power of two. -/
def fixExpPair (x : Int) : Int × Int :=
  let k := Int.fdiv x fixLn2
  (fixExp (x - k * fixLn2), k)

/-- e^(−x) over 2^128, for x from 0 on. -/
def fixExpNeg (x : Int) : Int :=
  if 128 * fixOne < x then 0 else
  let p := fixExpPair (-x)
  p.1 >>> (-p.2).toNat

/-- ln of m × 2^e for m above 0: the exponent's share and the series of the inverse hyperbolic tangent. -/
def fixLn (m : Nat) (e : Int) : Int :=
  let t := topExp m e
  let v := fixOf false m (e - t)
  let t := if 3 * fixOne < 2 * v then t + 1 else t
  let v := fixOf false m (e - t)
  let z := Int.fdiv ((v - fixOne) * fixOne) (v + fixOne)
  let zz := fixMul z z
  let s := ((List.range 30).foldl (fun (x : Int × Int) (k : Nat) => (x.1 + Int.fdiv x.2 (2 * (k : Int) + 1), fixMul x.2 zz)) (0, z)).1
  t * fixLn2 + 2 * s

/-- erf of x from 0 on: 1 from 8 on, else the series whose terms are all positive. -/
def fixErf (x : Int) : Int :=
  if 8 * fixOne < x then fixOne else
  let xx := fixMul x x
  let s := ((List.range 300).foldl (fun (t : Int × Int) (k : Nat) => (t.1 + t.2, Int.fdiv (2 * fixMul t.2 xx) (2 * (k : Int) + 3))) (0, x)).1
  let p := fixExpPair xx
  Int.fdiv (fixMul fixErfScale s * fixOne) (p.1 * 2 ^ p.2.toNat)

/-- The real number that an operation of R60 names at a finite operand: significand and exponent. -/
def openReal (op : OpenOp) (neg : Bool) (m : Nat) (e : Int) : Int × Int :=
  let x := fixOf false m e
  let far := decide (200 * fixOne < x)
  let sgn := fun (v : Int) => if neg then -v else v
  match op with
  | .exp => if far then (1, if neg then -400 else 400) else let p := fixExpPair (sgn x); (p.1, p.2 - 128)
  | .exp2 =>
    if far then (1, if neg then -400 else 400) else
    let y := sgn x
    let k := Int.fdiv y fixOne
    (fixExp (fixMul (y - k * fixOne) fixLn2), k - 128)
  | .log => (fixLn m e, -128)
  | .log2 => (Int.fdiv (fixLn m e * fixOne) fixLn2, -128)
  | .tanh => let q := fixExpNeg (2 * x); (sgn (Int.fdiv ((fixOne - q) * fixOne) (fixOne + q)), -128)
  | .sigm => let q := fixExpNeg x; (Int.fdiv ((if neg then q else fixOne) * fixOne) (fixOne + q), -128)
  | .erf => (sgn (fixErf x), -128)
  | .gelu => (Int.fdiv (sgn x * (fixOne + sgn (fixErf (fixMul x fixRootHalf)))) (2 * fixOne), -128)

/-- R60's bound: 2 ulp, or 4 ulp or 2^-26 absolute, whichever is larger; `r` is the code nearest to the exact result. -/
def openBound (op : OpenOp) (r : W32) : Num :=
  let u := max (min (fieldOf r 30 23) 254 : Int) 1 - 150
  match op with
  | .exp | .exp2 | .log | .log2 => .fin false 2 u
  | _ => .fin false 4 (max u (-28))

/-- The value of a code that is no NaN, an infinity standing for 2^128. -/
def codeValue (c : W32) : Num := match val c with | .inf neg => .fin neg 1 128 | v => v

/-- The code is a result that R60 allows at a finite operand: it lies within the bound of the exact result, up to the width
2^-60 of the enclosure. -/
def openAllowed (op : OpenOp) (neg : Bool) (m : Nat) (e : Int) (c : W32) : Bool :=
  let f := openReal op neg m e
  let v : Num := .fin (decide (f.1 < 0)) f.1.natAbs f.2
  let slack : Num := .fin false (f.1.natAbs / 2 ^ 60 + 2 ^ 48) f.2
  let gap := ((codeValue c).add v.negate).1.abs
  !f32isNan c && decide (gap.cmp ((openBound op (toF32 v).1).add slack).1 ≤ 0)

/-- The exact result at a finite operand, where it is a number of finitely many binary digits: the others never equal an FP32 value. -/
def openExact (op : OpenOp) (neg : Bool) (m : Nat) (e : Int) : Option Num :=
  let int := rneAt m e 0
  match op with
  | .exp => if m = 0 then some nOne else none
  | .exp2 => if int.2 then some (.fin false 1 (signed neg int.1)) else none
  | .log => if (Num.fin neg m e).cmp nOne = 0 then some nZero else none
  | .log2 => if m = 2 ^ Nat.log2 m then some (.ofInt (topExp m e)) else none
  | .sigm => if m = 0 then some (.fin false 1 (-1)) else none
  | _ => if m = 0 then some nZero else none

/-- An operation whose result R60 only bounds: a function of the operand that nothing else constrains (log entry 10). Flags that
R52 computes from the result follow the free result: OVF when it is infinite, UNF when it is below the smallest normal and
inexact. -/
def f32open (op : OpenOp) (a : W32) : Flagged W32 :=
  match openSpecial op (val a), val a with
  | some r, _ => r
  | none, .fin neg m e =>
    let c := Config.openResult op a
    let f := openReal op neg m e
    let r := if openAllowed op neg m e c then c else (toF32 (.fin (decide (f.1 < 0)) f.1.natAbs f.2)).1
    (r, if f32isInf r then fOvf
        else if fieldOf r 30 23 = 0 && !((openExact op neg m e).any fun x => (val r).cmp x = 0) then fUnf else 0)
  | none, _ => (f32nan, fNan)

/-! ### Integers (R37, R49) -/

/-- Round a value to the nearest integer, ties to even, with its exactness. -/
def Num.toInt (neg : Bool) (m : Nat) (e : Int) : Int := signed neg (rneAt m e 0).1

/-- Float to a signed integer of a width: the nearest limit with SAT out of range, INV for an infinity, 0 with INV and
NAN_IN for NaN. -/
def toIntSat (bits : Nat) (x : Num) : Flagged Int :=
  let lo : Int := -((2 ^ (bits - 1) : Nat) : Int)
  let hi : Int := ((2 ^ (bits - 1) : Nat) : Int) - 1
  match x with
  | .nan => (0, fInv ||| fNan)
  | .inf neg => (if neg then lo else hi, fInv)
  | .fin neg m e =>
    let i := Num.toInt neg m e
    if i < lo then (lo, fSat) else if i > hi then (hi, fSat) else (i, 0)

/-- A two's complement code as an integer. -/
def sext (bits code : Nat) : Int := if code % 2 ^ bits < 2 ^ (bits - 1) then (code % 2 ^ bits : Nat) else (code % 2 ^ bits : Nat) - (2 ^ bits : Nat)
/-- An integer as a two's complement code. -/
def twos (bits : Nat) (i : Int) : Nat := (i % (2 ^ bits : Nat)).toNat

/-! ### MX blocks (R35, R50) -/

/-- The value of an MX element with its scale code. -/
def mxValue (f : Fmt) (scale code : Nat) : Num :=
  if scale = 255 then .nan else
  match f.decode code with
  | .fin neg m e => .fin neg m (e + scale - 127)
  | y => y

/-- emax of the MX element formats (R50). -/
def mxEmax (f : Fmt) : Int := if f.ebits = 2 then 2 else if f.ebits = 4 then 8 else 15

/-- Convert a block to an MX format: scale code, element codes with their own flags, flags of the whole block. -/
def mxElements (f : Fmt) (xs : List Num) : Nat × List (Flagged Nat) × Nat :=
  if xs.any Num.isNan then (255, xs.map fun _ => (0, 0), fNan ||| (if xs.any Num.isInf then fInv else 0))
  else if xs.any Num.isInf then (255, xs.map fun _ => (0, 0), fInv)
  else if xs.all Num.isZero then (0, xs.map fun _ => (0, 0), 0)
  else
    let a := xs.foldl (fun r x => if r.cmp x.abs < 0 then x.abs else r) nZero
    let s : Int := (match a with | .fin _ m e => topExp m e | _ => 0) - mxEmax f
    let t : Int := max (-127) (min s 127)
    let es := xs.map fun x =>
      match x with
      | .fin neg m e =>
        let r := f.encode .saturate (.fin neg m (e - t))
        (r.1, r.2 &&& fUnf)
      | _ => (0, 0)
    ((t + 127).toNat, es, if s > 127 then fOvf else 0)

/-- A block in an MX format: scale code, element codes and flags. -/
def mxEncode (f : Fmt) (xs : List Num) : Nat × List Nat × Nat :=
  let e := mxElements f xs
  (e.1, e.2.1.map (·.1), e.2.1.foldl (fun g x => g ||| x.2) e.2.2)

/-! ### KQ32 (R38, R49) -/

/-- FP32 to a KQ32 word of block exponent E: q = RNE(x × 2^(30 − E)). -/
def toKq (e : Int) (x : W32) : Flagged Int :=
  match val x with
  | .fin neg m g => toIntSat 32 (.fin neg m (g + 30 - e))
  | y => toIntSat 32 y

/-- The value of a KQ32 word. -/
def kqVal (e q : Int) : Num := .fin (decide (q < 0)) q.natAbs (e - 30)
/-- KQ32 to FP32 by RNE; an inexact subnormal sets UNF (R49). -/
def kqToF32 (e q : Int) : Flagged W32 := toF32 (kqVal e q)

/-! ### Three-piece FP32 (R47) -/

/-- Truncate a magnitude to 8 significant bits, in BF16's range. -/
def trunc8 (m : Nat) (e : Int) : Nat × Int :=
  if m = 0 then (0, e) else
  let q := max (topExp m e - 7) (-133)
  if q ≤ e then (m, e) else (m >>> (q - e).toNat, q)

/-- m × 2^e − n × 2^g for a truncation n × 2^g of m × 2^e. -/
def restOf (m : Nat) (e : Int) (n : Nat) (g : Int) : Nat × Int :=
  let q := min e g
  (m <<< (e - q).toNat - n <<< (g - q).toNat, q)

/-- The pieces hi, mid and lo of an FP32 operand as values. Pieces of an infinite operand are ±inf, +0, +0. -/
def splitF32 (w : W32) : Num × Num × Num :=
  match val w with
  | .nan => (.nan, .nan, .nan)
  | .inf neg => (.inf neg, nZero, nZero)
  | .fin neg m e =>
    if m = 0 then (.fin neg 0 0, .fin neg 0 0, .fin neg 0 0) else
    let h := trunc8 m e
    let r := restOf m e h.1 h.2
    let d := trunc8 r.1 r.2
    let r2 := restOf r.1 r.2 d.1 d.2
    let l := trunc8 r2.1 r2.2
    let piece := fun (p : Nat × Int) => if p.1 = 0 then nZero else Num.fin neg p.1 p.2
    (.fin neg h.1 h.2, piece d, piece l)

end Sys2Proof.Machine
end

