-- ==== Sys2Proof/Machine/Bytes.lean ====
section
/-!
DEFINITION. Byte strings: byte orders (R9, R10), CRC-32C and SHAKE256, which the manual names without defining
(PRESUMED: the Castagnoli CRC of RFC 3720 and the function of FIPS 202; log entry 15).
-/
namespace Sys2Proof.Machine

/-- `n` bytes, least significant first (R9). -/
def le (n v : Nat) : List Byte :=
  match n with
  | 0 => []
  | k + 1 => BitVec.ofNat 8 v :: le k (v / 256)

/-- `n` bytes, most significant first (R10). -/
def be (n v : Nat) : List Byte := (le n v).reverse

/-- The number that bytes spell, least significant first. -/
def leNat (bs : List Byte) : Nat :=
  match bs with
  | [] => 0
  | b :: r => b.toNat + 256 * leNat r

/-- The number that bytes spell, most significant first. -/
def beNat (bs : List Byte) : Nat := leNat bs.reverse

/-- Pad with zero bytes to a length. -/
def padTo (n : Nat) (bs : List Byte) : List Byte := bs ++ List.replicate (n - bs.length) 0

/-- Pad with zero bytes to a multiple of 4 (R330). -/
def pad4 (bs : List Byte) : List Byte := padTo ((bs.length + 3) / 4 * 4) bs

/-- Bytes `o` to `o + n - 1` of a string; bytes past its end are 0. -/
def slice (bs : List Byte) (o n : Nat) : List Byte := padTo n ((bs.drop o).take n)

/-- One bit of the reflected CRC-32C. -/
def crcBit (c : W32) : W32 := if c.getLsbD 0 then (c >>> 1) ^^^ 0x82F63B78#32 else c >>> 1

def crcByte (c : W32) (b : Byte) : W32 :=
  crcBit (crcBit (crcBit (crcBit (crcBit (crcBit (crcBit (crcBit (c ^^^ b.setWidth 32))))))))

/-- CRC-32C of a byte string. -/
def crc32c (bs : List Byte) : W32 := ~~~ (bs.foldl crcByte 0xFFFFFFFF#32)

/-! ### SHAKE256 -/

/-- Rotation amounts of Keccak-f[1600], lane (x, y) at index x + 5y. -/
def keccakRot : List Nat :=
  [0, 1, 62, 28, 27, 36, 44, 6, 55, 20, 3, 10, 43, 25, 39, 41, 45, 15, 21, 8, 18, 2, 61, 56, 14]

def keccakRc : List W64 :=
  [0x0000000000000001, 0x0000000000008082, 0x800000000000808A, 0x8000000080008000, 0x000000000000808B,
   0x0000000080000001, 0x8000000080008081, 0x8000000000008009, 0x000000000000008A, 0x0000000000000088,
   0x0000000080008009, 0x000000008000000A] ++
  [0x000000008000808B, 0x800000000000008B, 0x8000000000008089, 0x8000000000008003, 0x8000000000008002,
   0x8000000000000080, 0x000000000000800A, 0x800000008000000A, 0x8000000080008081, 0x8000000000008080,
   0x0000000080000001, 0x8000000080008008]

/-- Lane `i` of a Keccak state. -/
def lane (a : List W64) (i : Nat) : W64 := a.getD i 0

/-- One round of Keccak-f[1600]: theta, rho and pi, chi, iota. -/
def keccakRound (a : List W64) (rc : W64) : List W64 :=
  let c := (List.range 5).map fun x => lane a x ^^^ lane a (x + 5) ^^^ lane a (x + 10) ^^^ lane a (x + 15) ^^^ lane a (x + 20)
  let d := (List.range 5).map fun x => lane c ((x + 4) % 5) ^^^ (lane c ((x + 1) % 5)).rotateLeft 1
  let t := (List.range 25).map fun i => (lane a i ^^^ lane d (i % 5)).rotateLeft (keccakRot.getD i 0)
  -- lane (x, y) of b is lane (x + 3y, x) of t
  let b := (List.range 25).map fun i => lane t ((i % 5 + 3 * (i / 5)) % 5 + 5 * (i % 5))
  (List.range 25).map fun i =>
    let y := i / 5 * 5
    let v := lane b i ^^^ (~~~ lane b (y + (i + 1) % 5 % 5) &&& lane b (y + (i + 2) % 5 % 5))
    if i = 0 then v ^^^ rc else v

def keccakF (a : List W64) : List W64 := keccakRc.foldl keccakRound a

/-- Absorb whole 136-byte blocks; `n` bounds their number. -/
def shakeAbsorb (n : Nat) (a : List W64) (bs : List Byte) : List W64 :=
  match n with
  | 0 => a
  | k + 1 =>
    let blk := (List.range 25).map fun i =>
      if i < 17 then lane a i ^^^ BitVec.ofNat 64 (leNat ((bs.drop (8 * i)).take 8)) else lane a i
    shakeAbsorb k (keccakF blk) (bs.drop 136)

/-- SHAKE256 with an output of 256 bits, the first output byte in bits [7:0]. -/
def shake256 (bs : List Byte) : BitVec 256 :=
  let n := bs.length / 136 + 1
  let padLen := n * 136 - bs.length
  let padded := if padLen = 1 then bs ++ [0x9F] else bs ++ [0x1F] ++ List.replicate (padLen - 2) 0 ++ [0x80]
  let a := shakeAbsorb n (List.replicate 25 0) padded
  BitVec.ofNat 256 ((lane a 0).toNat + 2 ^ 64 * (lane a 1).toNat + 2 ^ 128 * (lane a 2).toNat + 2 ^ 192 * (lane a 3).toNat)

end Sys2Proof.Machine
end

