-- ==== Sys2Proof/Machine/Ops.lean ====
section
/-!
DEFINITION. The operations that meanings share: tables of State, device memory with its write-combining buffers and
poison (R287 to R311), notices and events (R328, R359), fences (R346, R347), contexts' memory (R288) and the start of a
context purge (R362).
-/
namespace Sys2Proof.Machine

open Sys2Proof

/-! ### Entries of the state's tables -/

def State.ctx (s : State) (c : Nat) : Ctx := Tab.get {} s.ctxs c
def State.setCtx (s : State) (c : Nat) (x : Ctx) : State := { s with ctxs := Tab.put s.ctxs c x }
def State.onCtx (s : State) (c : Nat) (f : Ctx → Ctx) : State := s.setCtx c (f (s.ctx c))
def State.array (s : State) (n : Nat) : ArrayUnit := Tab.get {} s.arrays n
def State.setArray (s : State) (n : Nat) (x : ArrayUnit) : State := { s with arrays := Tab.put s.arrays n x }
def State.onArray (s : State) (n : Nat) (f : ArrayUnit → ArrayUnit) : State := s.setArray n (f (s.array n))
def State.rte (s : State) (n : Nat) : Rte := Tab.get {} s.rtes n
def State.setRte (s : State) (n : Nat) (x : Rte) : State := { s with rtes := Tab.put s.rtes n x }
def State.fuu (s : State) (n : Nat) : Fuu := Tab.get {} s.fuus n
def State.setFuu (s : State) (n : Nat) (x : Fuu) : State := { s with fuus := Tab.put s.fuus n x }
def State.port (s : State) (p : Nat) : Port := Tab.get {} s.fabric.ports p
def State.setPort (s : State) (p : Nat) (x : Port) : State := { s with fabric := { s.fabric with ports := Tab.put s.fabric.ports p x } }
def State.onPort (s : State) (p : Nat) (f : Port → Port) : State := s.setPort p (f (s.port p))
def Mem.chan (m : Mem) (c : Nat) : Channel := Tab.get {} m.chans c
def Mem.setChan (m : Mem) (c : Nat) (x : Channel) : Mem := { m with chans := Tab.put m.chans c x }
def State.session? (s : State) (slot : Nat) : Option Session := Tab.find? s.kcp.sessions slot
def State.setSession (s : State) (slot : Nat) (x : Session) : State :=
  { s with kcp := { s.kcp with sessions := Tab.put s.kcp.sessions slot x } }

/-- A port goes down with its die: one that was UP is lost, and its frames wait for that to be handled (R280, R367). -/
def Port.goDown (x : Port) : Port :=
  if x.state = .retired then x else { x with state := .down, lanes := 0, lost := x.lost || x.state = .up }

/-- Add to a per-context counter of block 1 (R334). -/
def State.countCtx (s : State) (c i n : Nat) : State := s.onCtx c fun x => { x with counters := Tab.count x.counters i n }
/-- Add to a per-context counter of block 9 (R397). -/
def State.countCtx9 (s : State) (c i n : Nat) : State := s.onCtx c fun x => { x with counters9 := Tab.count x.counters9 i n }
/-- Add to a module counter of R397: PURGES, ENGINE_RESETS, DIE_RESETS, CORE_RESTARTS. -/
def State.countFault (s : State) (i n : Nat) : State := { s with faults := { s.faults with counters := Tab.count s.faults.counters i n } }
/-- Add to a per-port counter of R285. -/
def State.countPort (s : State) (p i n : Nat) : State := s.onPort p fun x => { x with counters := Tab.count x.counters i n }
/-- Add to a per-array counter of block 2 (R101, R156, R318). -/
def State.countArray (s : State) (a i n : Nat) : State := s.onArray a fun x => { x with counters := Tab.count x.counters i n }

/-- Add to a per-VXU counter of block 3 (R101): VXU_BUSY_CYCLES, VXU_IDLE_CYCLES, DISPATCH_STALL_CYCLES. -/
def State.countVxu (s : State) (a i n : Nat) : State := s.onArray a fun x => { x with vxuCtr := Tab.count x.vxuCtr i n }
/-- Cycles of a Fused Update Unit's sweep over a block of `n` elements (R220). -/
def sweepCycles (n : Nat) : Nat := (n + 127) / 128 + 200
/-- Add sweeps over a block of `n` elements to FUU_BUSY_CYCLES (R222). -/
def State.countSweeps (s : State) (u sweeps n : Nat) : State :=
  s.setFuu u { s.fuu u with counters := Tab.count (s.fuu u).counters 0 (sweeps * sweepCycles n) }

/-! ### Indices of the counters of block 1, in the order of R334 -/

def cAccAlias := 0
def cDispatchDrops := 1
def cGateNanRows := 2
def cStatStageWait := 3
def cTapRowsKept := 4
def cFactorResets := 5
def cZeroFactors := 6
def cDeltaRefused := 7
def cRefreshWarm := 8
def cRefreshCold := 9
def cRefreshDamped := 10
def cWarmMismatches := 11
def cRootKept := 12
def cPivReg := 13
def cPivZero := 14
def cRsSolves := 15
def cAccSpill := 16
def cLateBytes := 17
def cCisternFetch := 18
def cLateUpdates := 19
def cClipped := 20
def cSkipped := 21
def cGraftFallbacks := 22
def cStateless := 23
def cRegather := 24
def cE2eRetx := 25
def cE2eDup := 26
def cPurgedDrops := 27

/-! ### Time and free values -/

/-- The time counter: seconds in [63:30], nanoseconds in [29:0] (R417). -/
def State.now (s : State) : W64 := s.power.seconds ++ BitVec.ofNat 30 s.power.nanos

/-- Nanoseconds since the last module reset, by management ticks of 2.5 ns (R417): what the device's own intervals are measured
by. No TIME_SET and no PPS step moves it. -/
def State.upNs (s : State) : Nat := s.power.ticks * 5 / 2

/-- Ticks of the management clock in a number of seconds (R412). -/
def ticksOf (seconds : Nat) : Nat := seconds * 400000000

/-- The next free value (log entry 4). -/
def State.freeWord (s : State) : W32 := Config.freeValue s.free
/-- Advance the counter of free values. -/
def State.drawn (s : State) : State := { s with free := s.free + 1 }

/-- Apply a device step where its conditions give it something to do, else leave the state unchanged (log entry 3). -/
def whenReady {α : Type} (o : Option α) (f : α → State) (s : State) : State :=
  match o with
  | some a => f a
  | none => s

/-- A device step under a condition. -/
def onlyIf (b : Bool) (f : State → State) (s : State) : State := if b then f s else s

/-! ### What runs (R367, R400, R412, R416) -/

/-- The power state that POWER_STATE names: during an input cut, the one the cut interrupted (R416, R422). -/
def Power.pwState (p : Power) : PState := if p.pstate = .ride then p.before else p.pstate

/-- A compute die and its base die run: enabled, in power state RUN, no die reset under way. -/
def State.cdRuns (s : State) (n : Nat) : Bool :=
  s.power.enables.getLsbD n && s.power.pstate = .run && !(s.faults.dies.any fun d =>
    match d with | .cd k => k.val = n | .bd k => k.val = n | .io _ => false)

/-- A base die's units run: they share the enables of their compute die. -/
def State.bdRuns (s : State) (n : Nat) : Bool :=
  s.power.enables.getLsbD n && s.power.pstate = .run && !(s.faults.dies.any fun d => match d with | .bd k => k.val = n | _ => false)

/-- A Root Engine runs: its dies do, it is in service and not halted, and its reset is not under way. -/
def State.rteRuns (s : State) (n : Nat) : Bool :=
  s.cdRuns n && (s.rte n).inService && !(s.rte n).halted && !(s.faults.engines.any fun e => match e with | .rte k => k.val = n | _ => false)

/-- A Fused Update Unit runs. -/
def State.fuuRuns (s : State) (n : Nat) : Bool :=
  s.bdRuns n && !(s.faults.engines.any fun e => match e with | .fuu k => k.val = n | _ => false)

/-- The DMA engine of a base die runs. -/
def State.dmaRuns (s : State) (n : Nat) : Bool :=
  s.bdRuns n && !(s.faults.engines.any fun e => match e with | .dma k => k.val = n | _ => false)

/-- Firmware runs: the control core is up (R370). -/
def State.firmware (s : State) : Bool := s.faults.coreUp

/-! ### What leaves the module -/

def State.emit (s : State) (o : Out) : State := { s with out := s.out ++ [o] }

def State.hp (s : State) (p : Fin 2) : HostPort := if p = 0 then s.kcp.hp0 else s.kcp.hp1
def State.setHp (s : State) (p : Fin 2) (x : HostPort) : State :=
  if p = 0 then { s with kcp := { s.kcp with hp0 := x } } else { s with kcp := { s.kcp with hp1 := x } }

/-- Some host port is up to carry a device-originated packet. -/
def State.hostUp (s : State) : Bool := s.kcp.hp0.up || s.kcp.hp1.up

/-- The UDP port on which KCP runs: setting 0x0001 (R322, R333). -/
def State.kcpPort (s : State) : W16 := (Tab.get 51470 s.kcp.settings 1).setWidth 16

/-- Send a notice to a session: it takes the session's next device sequence; at most 256 are unacknowledged and further
packets wait (R328). -/
def State.notify (s : State) (slot : Nat) (op : W16) (ctx : BitVec 8) (params : List Byte) : State :=
  match s.session? slot with
  | none => s
  | some x =>
    let n : Notice := { opcode := op, context := ctx, sequence := x.d2hNext, params := params }
    let x := { x with d2hNext := x.d2hNext + 1 }
    if x.unacked.length < 256 then
      let s := s.setSession slot { x with unacked := x.unacked ++ [n] }
      if s.hostUp then s.emit (.notice x.id n s.kcpPort) else s
    else s.setSession slot { x with waiting := x.waiting ++ [n] }

/-- Send a notice to every open session. -/
def State.notifyAll (s : State) (op : W16) (ctx : BitVec 8) (params : List Byte) : State :=
  s.kcp.sessions.foldl (fun s e => s.notify e.1 op ctx params) s

/-! ### Event records (R359, R360, R465) -/

/-- CLASS of an event code: R465, R424, R447. `fw` says that a MEM_UE lies in the firmware region or the Dump Vault. -/
def eventClass (code : Nat) (fw : Bool) : Nat :=
  if [0x01, 0x03, 0x05, 0x06, 0x10, 0x11, 0x12, 0x14, 0x21, 0x30, 0x61, 0x66].contains code then 1
  else if code = 0x20 then (if fw then 0 else 2)
  else if [0x04, 0x17, 0x24].contains code then 2
  else if [0x31, 0x32, 0x35].contains code then 3
  else if code = 0x33 then 4
  else if [0x23, 0x34, 0x63, 0x86, 0x88].contains code then 5
  else if [0x18, 0x22, 0x53].contains code then 6
  else 0

/-- The eight 32-bit words of an event record (R359). -/
def Event.words (e : Event) : List W32 :=
  [e.seq,
   e.code ++ BitVec.ofNat 3 e.cls ++ BitVec.ofBool e.ctx.isSome ++ BitVec.ofNat 6 (e.ctx.getD 0) ++ 0#6,
   BitVec.ofNat 4 e.unitKind ++ BitVec.ofNat 10 e.unitIndex ++ 0#18,
   e.aux, e.time.setWidth 32, (e.time >>> 32).setWidth 32, e.arg.setWidth 32, (e.arg >>> 32).setWidth 32]

/-- 32-bit words as parameter fields (R10). -/
def params32 (ws : List W32) : List Byte := ws.flatMap fun w => be 4 w.toNat
/-- 64-bit words as parameter fields (R10). -/
def params64 (ws : List W64) : List Byte := ws.flatMap fun w => be 8 w.toNat

/-- The unit that an event names, with the codes of R57 and R359. -/
structure EventUnit where
  kind  : Nat
  index : Nat

def engineUnit : Engine → EventUnit
  | .array n => ⟨0, n⟩
  | .rte n => ⟨5, n⟩
  | .fuu n => ⟨3, n⟩
  | .dma n => ⟨2, n⟩
  | .coll n => ⟨8, n⟩

def unitModule : EventUnit := ⟨12, 0⟩
def unitCore : EventUnit := ⟨9, 0⟩

/-- Raise an event: one record in the log, which keeps the newest 65,536 (R361), and an EVENT notice (0x08F0) to every
open session. -/
def State.raise (s : State) (code : Nat) (ctx : Option Nat) (u : EventUnit) (arg : W64) (aux : W32) (fw : Bool := false) : State :=
  let e : Event := { seq := s.faults.nextSeq, code := BitVec.ofNat 16 code, cls := eventClass code fw, ctx := ctx,
                     unitKind := u.kind, unitIndex := u.index, aux := aux, time := s.now, arg := arg }
  let log := s.faults.log ++ [e]
  let s := { s with faults := { s.faults with log := log.drop (log.length - 65536), nextSeq := s.faults.nextSeq + 1 } }
  s.notifyAll 0x08F0 (match ctx with | some c => BitVec.ofNat 8 c | none => 0xFF) (params32 e.words)

/-- An error counter of 16 bits sticks at 0xFFFF and raises COUNTER_STUCK once, with its register and field (R421). -/
def State.stuck (s : State) (old : Nat) (addr lsb : Nat) : State :=
  if old + 1 = 0xFFFF then s.raise 0x6A none unitModule (BitVec.ofNat 64 addr) (BitVec.ofNat 32 lsb) else s
def stick (old : Nat) : Nat := min (old + 1) 0xFFFF

/-- Set causes of the management alert (R459): they stay until the rack controller clears them. -/
def State.alert (s : State) (bit : Nat) : State :=
  { s with mgmt := { s.mgmt with alertCause := s.mgmt.alertCause ||| BitVec.ofNat 9 (2 ^ bit) } }

/-! ### The address map (R287, R292) -/

def hbmCtxEnd : Nat := 0x017880000000
def fwRegion : Nat := 0x017880000000
def vaultBase : Nat := 0x017980000000
def hbmEnd : Nat := 0x017A00000000
def reservoirBase : Nat := 0x100000000000
def reservoirEnd : Nat := 0x100200000000

/-- Channel of an HBM address: the XOR of three granule fields (R292). -/
def channelOf (a : Nat) : Nat := (a / 4096 % 1024) ^^^ (a / 4096 / 1024 % 1024) ^^^ (a / 4096 / 2 ^ 20 % 512)
/-- Local index of an HBM address on its channel (R292). -/
def localOf (a : Nat) : Nat := a / 4096 / 1024 % 2 ^ 19
/-- Key of a granule in the remap table. -/
def remapKey (c l : Nat) : Nat := c * 2 ^ 19 + l
/-- The device address of granule (c, l): the inverse of R292. -/
def granuleAddr (c l : Nat) : Nat := (l * 1024 + (c ^^^ (l % 1024) ^^^ (l / 1024))) * 4096
def isReservoir (a : Nat) : Bool := decide (reservoirBase ≤ a)
/-- Bytes of the unit that ECC poisons: a 64-byte HBM sector (R300) or a Reservoir word (R311). -/
def poisonUnit (a : Nat) : Nat := if isReservoir a then 8 else 64

/-! ### Reading memory (R293, R295, R300) -/

/-- Add to a per-stack counter of R318: 0 WCB_RMW, 1 WCB_FORWARDS, 2 HOLD_FULL_CYCLES, 3 SCRUB_CE, 4 REMAP_ACCESSES. -/
def Mem.count (m : Mem) (stack i n : Nat) : Mem := { m with counters := Tab.count m.counters (stack * 8 + i) n }

/-- Whether the granule of an address is reached through the degraded map (R293). -/
def Mem.remapped (m : Mem) (a : Nat) : Bool :=
  match (m.chan (channelOf a)).state with
  | .fenced | .lost => true
  | .relocating => (Tab.find? m.remap (remapKey (channelOf a) (localOf a))).isSome
  | _ => false

/-- The channel that serves an address: its own, or the one in whose spare slot the degraded map places its granule (R293, R306). -/
def Mem.serving (m : Mem) (a : Nat) : Nat :=
  if m.remapped a then ((Tab.find? m.remap (remapKey (channelOf a) (localOf a))).map (·.target)).getD (channelOf a) else channelOf a

/-- Accesses to a channel wait in its hold queue: it retrains, or an access to it has exhausted its repeats (R299, R303). -/
def Channel.holds (x : Channel) : Bool := x.state = .retraining || x.blocked

/-- Entries of a stack's write-combining buffer (R294). Writes that wait for an entry stand after them in the list. -/
def wcbDepth : Nat := 512

/-- The write-combining entry of a sector, if one exists. -/
def Mem.entry? (m : Mem) (sec : Nat) : Option WcbEntry :=
  (Tab.get [] m.wcb (channelOf sec / 32)).find? (fun e => e.sector = sec)

/-- The newest byte for an address that waits in the hold queue of the channel that serves it (R299, R303, R304). -/
def Mem.heldByte (m : Mem) (a : Nat) : Option Byte :=
  let c := m.chan (m.serving a)
  if c.holds then (c.hold.reverse.find? (fun h => h.1 = a / 64 * 64)).bind (fun h => h.2.lookup (a % 64)) else none

/-- Where the byte that an address names lies: an accumulation buffer that the Reservoir holds keeps its HBM range as its name, and the range
behind it is not accessed (R212). -/
def Mem.home (m : Mem) (a : Nat) : Nat :=
  if isReservoir a then a else
  match m.placed.find? (fun p => decide (p.base ≤ a) && decide (a < p.base + p.bytes)) with
  | some p =>
    let o := p.start + (a - p.base)
    let h := p.shares.getD (o / p.share) 0 + o % p.share
    if isReservoir h then h else a
  | none => a

/-- The byte at an address as every reader sees it: a write is visible from the moment the controller accepts it, so
the buffer's bytes come before those of accesses that wait in a hold queue, and those before the channel's (R295, R304). -/
def Mem.byte (m : Mem) (a : Nat) : Byte :=
  if isReservoir (m.home a) then Memory.byte m.bytes (m.home a) else
  match (m.entry? (a / 64 * 64)).bind (fun e => e.bytes.lookup (a % 64)) with
  | some b => b
  | none => (m.heldByte a).getD (Memory.byte m.bytes a)

/-- Bytes of a range. -/
def Mem.read (m : Mem) (a n : Nat) : List Byte := (List.range n).map fun i => m.byte (a + i)
/-- A little-endian number of `n` bytes (R9). -/
def Mem.readNat (m : Mem) (a n : Nat) : Nat := leNat (m.read a n)
def Mem.word32 (m : Mem) (a : Nat) : W32 := BitVec.ofNat 32 (m.readNat a 4)
def Mem.word64 (m : Mem) (a : Nat) : W64 := BitVec.ofNat 64 (m.readNat a 8)
/-- `n` 64-bit words of a record. -/
def Mem.record (m : Mem) (a n : Nat) : Rec := (List.range n).map fun i => m.word64 (a + 8 * i)
def Mem.words32 (m : Mem) (a n : Nat) : List W32 := (List.range n).map fun i => m.word32 (a + 4 * i)

/-- The first poisoned unit that a range touches: a poisoned sector or word, or a POISON granule (R300, R308, R311). -/
def Mem.poisonRange (m : Mem) (a n : Nat) : Option Nat :=
  match m.poison.find? (fun p => decide (p < a + n) && decide (a < p + poisonUnit p)) with
  | some p => some p
  | none =>
    (List.find? (fun (e : Nat × Remap) => e.2.poison && decide (granuleAddr (e.1 / 2 ^ 19) (e.1 % 2 ^ 19) < a + n) &&
      decide (a < granuleAddr (e.1 / 2 ^ 19) (e.1 % 2 ^ 19) + 4096)) m.remap).map fun e =>
        granuleAddr (e.1 / 2 ^ 19) (e.1 % 2 ^ 19)

/-- The first poison that a read of a range meets, of which an accumulation buffer's bytes may lie in the Reservoir (R212). -/
def Mem.poisonIn (m : Mem) (a n : Nat) : Option Nat :=
  if m.placed.any fun p => decide (p.base < a + n) && decide (a < p.base + p.bytes) then
    (List.range n).findSome? fun i => (m.poisonRange (m.home (a + i)) 1).map fun _ => a + i
  else m.poisonRange a n

/-- Count one read that requests bytes of a sector; `req` says which offsets. The buffer answers it alone when its entry covers them
(R295, R318). -/
def Mem.noteSector (m : Mem) (sec : Nat) (req : Nat → Bool) : Mem :=
  let st := channelOf sec / 32
  let m := match ((Tab.get [] m.wcb st).take wcbDepth).find? (fun e => e.sector = sec) with
    | some e => if (List.range 64).all (fun i => !req i || (e.bytes.lookup i).isSome) then m.count st 1 1 else m
    | none => m
  if m.remapped sec then m.count st 4 1 else m

/-- The HBM sectors that ranges touch, each once. -/
def Mem.sectorsOf (m : Mem) (rs : List (Nat × Nat)) : List Nat :=
  (((rs.filter fun r => decide (0 < r.2) && !isReservoir r.1).flatMap fun r =>
    (List.range ((r.1 + r.2 + 63) / 64 - r.1 / 64)).map fun i => (r.1 / 64 + i) * 64).eraseDups).filter fun a => !isReservoir (m.home a)

/-- Count the reads of ranges, one per sector. -/
def Mem.noteAll (m : Mem) (rs : List (Nat × Nat)) : Mem :=
  (m.sectorsOf rs).foldl (fun m sec =>
    m.noteSector sec fun i => rs.any fun r => decide (r.1 ≤ sec + i) && decide (sec + i < r.1 + r.2)) m

/-- Count the reads of one range. -/
def Mem.note (m : Mem) (a n : Nat) : Mem := m.noteAll [(a, n)]

/-! ### Writing memory (R294, R295, R300, R308, R311) -/

/-- Mark every sector of a POISON granule poisoned and clear POISON: the first write to it does so (R308). -/
def Mem.openPoison (m : Mem) (a : Nat) : Mem :=
  let k := remapKey (channelOf a) (localOf a)
  match Tab.find? m.remap k with
  | some r =>
    if r.poison then
      let g := a / 4096 * 4096
      { m with remap := Tab.put m.remap k { r with poison := false },
               poison := m.poison.filter (fun p => p / 4096 * 4096 ≠ g) ++ (List.range 64).map (fun i => g + 64 * i) }
    else m
  | none => m

/-- Put the bytes of a whole sector into the channel that serves it, or into its hold queue while accesses to it wait (R293, R303,
R304). -/
def Mem.wholeSector (m : Mem) (sec : Nat) (bs : List (Nat × Byte)) : Mem :=
  let c := m.serving sec
  let m := { m with poison := m.poison.filter (· ≠ sec) }
  let ch := m.chan c
  if ch.holds then m.setChan c { ch with hold := ch.hold ++ [(sec, bs)] }
  else { m with bytes := bs.foldl (fun x e => Memory.write x (sec + e.1) e.2) m.bytes }

/-- Remove a sector's write-combining entry. -/
def Mem.dropEntry (m : Mem) (sec : Nat) : Mem :=
  let st := channelOf sec / 32
  { m with wcb := Tab.put m.wcb st ((Tab.get [] m.wcb st).filter (fun e => e.sector ≠ sec)) }

/-- Evict an entry by a read-modify-write of its sector (R294): poison stays (R300). -/
def Mem.evict (m : Mem) (e : WcbEntry) : Mem :=
  let m := (m.dropEntry e.sector).count (channelOf e.sector / 32) 0 1
  { m with bytes := e.bytes.foldl (fun x p => Memory.write x (e.sector + p.1) p.2) m.bytes }

/-- Whether an entry may be evicted now: not while accesses to its channel wait (R303, R319). -/
def Mem.evictable (m : Mem) (e : WcbEntry) : Bool := !(m.chan (m.serving e.sector)).holds

/-- Evict the oldest entry of a stack that may be evicted. -/
def Mem.evictOldest (m : Mem) (st : Nat) : Mem :=
  match ((Tab.get [] m.wcb st).take wcbDepth).find? m.evictable with
  | some e => m.evict e
  | none => m

/-- Evict entries for the writes that wait for one, as far as entries may be evicted (R294). -/
def Mem.makeRoom (m : Mem) : Mem :=
  m.wcb.foldl (fun m e => (List.range (e.2.length - wcbDepth)).foldl (fun m _ => m.evictOldest e.1) m) m

/-- A tick of the management clock for the buffers: entries grow older (R294). -/
def Mem.ageEntries (m : Mem) : Mem := { m with wcb := Tab.mapAll m.wcb fun _ es => es.map fun e => { e with age := e.age + 1 } }

/-- Later bytes replace earlier bytes of an entry. -/
def mergeBytes (old new : List (Nat × Byte)) : List (Nat × Byte) := new.foldl (fun t e => Tab.put t e.1 e.2) old

/-- Write bytes to one HBM sector under R294. -/
def Mem.writeSector (m : Mem) (sec off : Nat) (bs : List Byte) : Mem :=
  let new := bs.zipIdx.map fun e => (off + e.2, e.1)
  let m := m.openPoison sec
  let m := if m.remapped sec then m.count (channelOf sec / 32) 4 1 else m
  if bs.length = 64 then (m.dropEntry sec).wholeSector sec new else
  let st := channelOf sec / 32
  let es := Tab.get [] m.wcb st
  match es.find? (fun e => e.sector = sec) with
  | some e =>
    let b := mergeBytes e.bytes new
    if b.length = 64 then (m.dropEntry sec).wholeSector sec b
    else { m with wcb := Tab.put m.wcb st (es.map fun x => if x.sector = sec then { x with bytes := b } else x) }
  | none =>
    -- a new allocation that finds the buffer full evicts the oldest entry that may be evicted; without one the write waits
    let m := if es.length < wcbDepth then m else m.evictOldest st
    { m with wcb := Tab.put m.wcb st (Tab.get [] m.wcb st ++ [{ sector := sec, bytes := mergeBytes [] new }]) }

/-- Write bytes to the Reservoir: a write that covers a whole word clears its poison (R311). -/
def Mem.writeReservoir (m : Mem) (a : Nat) (bs : List Byte) : Mem :=
  { m with bytes := Memory.writes m.bytes a bs,
           poison := m.poison.filter fun p => !(isReservoir p && decide (a ≤ p) && decide (p + 8 ≤ a + bs.length)) }

/-- Write a piece of one sector where its bytes lie: to HBM, to the Reservoir, or, where an accumulation buffer's place is broken there, byte
by byte (R212). -/
def Mem.writePiece (m : Mem) (a : Nat) (bs : List Byte) : Mem :=
  let h := m.home a
  if !((List.range bs.length).all fun i => m.home (a + i) = h + i) then
    bs.zipIdx.foldl (fun m b =>
      let x := m.home (a + b.2)
      if isReservoir x then m.writeReservoir x [b.1] else m.writeSector (x / 64 * 64) (x % 64) [b.1]) m
  else if isReservoir h then m.writeReservoir h bs else m.writeSector (h / 64 * 64) (h % 64) bs

/-- Write bytes sector by sector; `fuel` bounds the number of sectors. A sector of the Reservoir takes its bytes directly. -/
def Mem.writeFuel (fuel : Nat) (m : Mem) (a : Nat) (bs : List Byte) : Mem :=
  match fuel, bs with
  | 0, _ => m
  | _, [] => m
  | k + 1, bs =>
    let n := 64 - a % 64
    Mem.writeFuel k (m.writePiece a (bs.take n)) (a + n) (bs.drop n)

/-- Write bytes at consecutive addresses. -/
def Mem.write (m : Mem) (a : Nat) (bs : List Byte) : Mem :=
  if isReservoir a then m.writeReservoir a bs else Mem.writeFuel (bs.length / 64 + 2) m a bs

def State.write (s : State) (a : Nat) (bs : List Byte) : State := { s with mem := s.mem.write a bs }
def State.write32 (s : State) (a : Nat) (v : W32) : State := s.write a (le 4 v.toNat)
def State.write64 (s : State) (a : Nat) (v : W64) : State := s.write a (le 8 v.toNat)
def State.writeRec (s : State) (a : Nat) (r : Rec) : State := s.write a (r.flatMap fun w => le 8 w.toNat)

/-- Every buffer and hold queue flushed into the channels (R295, R313). -/
def Mem.flush (m : Mem) : Mem :=
  let m := m.chans.foldl (fun m e =>
    { m with bytes := e.2.hold.foldl (fun x h => h.2.foldl (fun x p => Memory.write x (h.1 + p.1) p.2) x) m.bytes,
             chans := Tab.put m.chans e.1 { e.2 with hold := [] } }) m
  m.wcb.foldl (fun m es => es.2.foldl (fun m e => m.evict e) m) m

/-! ### A context's memory (R288) -/

/-- The first byte of a range that lies in none of the regions: the test is made per byte, so a range may cross from one region
into the next. `fuel` bounds the regions crossed. -/
def gapFuel (fuel : Nat) (rs : List (Nat × Nat)) (a n : Nat) : Option Nat :=
  match fuel with
  | 0 => if n = 0 then none else some a
  | k + 1 =>
    if n = 0 then none else
    match rs.find? (fun r => decide (r.1 ≤ a) && decide (a < r.1 + r.2)) with
    | some r => gapFuel k rs (r.1 + r.2) (n - (r.1 + r.2 - a))
    | none => some a

/-- The first byte of a range outside the context's memory. -/
def Ctx.gap (c : Ctx) (a n : Nat) : Option Nat := gapFuel (c.regions.length + 1) (c.regions.map fun r => (r.2.1, r.2.2)) a n

/-- Every byte of a range lies in one of the context's regions. -/
def Ctx.covers (c : Ctx) (a n : Nat) : Bool := (c.gap a n).isNone

/-- Every byte of a range lies in one of the context's HBM regions: the Reservoir serves tasks and engines only (R287). -/
def Ctx.coversHbm (c : Ctx) (a n : Nat) : Bool := c.covers a n && decide (a + n ≤ reservoirBase)

/-- Two ranges share a byte. -/
def overlaps (a n b m : Nat) : Bool := decide (a < b + m) && decide (b < a + n)

/-- Accesses of a context's DMA engines (`dma`) or VXU ports: a token per HBM sector they touch (R296, R297). What the bucket lacks is
owed, and the ticks that follow pay it in order (log entry 16). -/
def State.takeTokens (s : State) (c : Nat) (dma : Bool) (rs : List (Nat × Nat)) : State :=
  let p := (s.ctx c).partition
  let r := Tab.get {} s.mem.regs p
  let k := (s.mem.sectorsOf rs).length
  if r.rate = 0 || k = 0 then s else
  let has := if r.owed.isEmpty then min k r.tokens.toNat else 0
  let r := { r with tokens := BitVec.ofNat 20 (r.tokens.toNat - has), owed := if has = k then r.owed else r.owed ++ [(c, dma, k - has)] }
  { s with mem := { s.mem with regs := Tab.put s.mem.regs p r } }

/-- No access of the context's partition waits for tokens: its next one may start (R297). -/
def State.paid (s : State) (c : Nat) : Bool :=
  (Tab.get ({} : Regulator) s.mem.regs (s.ctx c).partition).owed.isEmpty

/-- The reads of an engine that no regulator governs: the counters of R318. -/
def State.noteReads (s : State) (rs : List (Nat × Nat)) : State := { s with mem := s.mem.noteAll rs }

/-! ### Fences (R346, R347, R348) -/

/-- A wait for target `t` is satisfied when (value − t) mod 2^32 is below 2^31 (R347). -/
def fenceReached (v t : W32) : Bool := decide ((v - t).toNat < 2 ^ 31)

/-- FENCE_REACHED notices for the pending notifications of a fence that its value satisfies (R330). -/
def State.fenceNotices (s : State) (f : Nat) (owner : Nat) (v : W32) : State :=
  s.kcp.sessions.foldl (fun s e =>
    match s.session? e.1 with
    | none => s
    | some x =>
      let hit := x.notifies.filter fun n => n.1 = f && fenceReached v n.2
      if hit.isEmpty then s else
      let s := s.setSession e.1 { x with notifies := x.notifies.filter fun n => !(n.1 = f && fenceReached v n.2) }
      hit.foldl (fun s _ => s.notify e.1 0x05F0 (BitVec.ofNat 8 owner) (be 2 f ++ be 2 0 ++ be 4 v.toNat)) s) s

/-- Raise a fence: its value grows, wrapping; a frozen fence discards the signal (R362). -/
def State.signal (s : State) (f : Nat) (inc : W32) : State :=
  match Tab.find? s.fences f with
  | none => s
  | some x =>
    if x.frozen then s else
    let v := x.value + inc
    ({ s with fences := Tab.put s.fences f { x with value := v } }).fenceNotices f x.owner v

/-- The context holds the fence. -/
def State.holds (s : State) (c f : Nat) : Bool :=
  match Tab.find? s.fences f with
  | some x => decide (x.owner = c)
  | none => false

/-! ### Purging a context (R362) -/

def ArrayUnit.holdsWork (a : ArrayUnit) (c : Nat) : Bool :=
  a.tiles.any (fun t => t.2.st ≠ .free && t.2.ctx = c) || a.passes.any (fun p => p.ctx = c) || a.slots.any (fun x => x.ctx = c) ||
  a.transfer.any (fun x => x.ctx = c) || (a.handover.any fun x => x.ctx = c) || (a.runs.any fun r => r.ctx = c)

/-- I/O dies whose collective engines run a group: those with ports of its axis; of a routed ring, all (R273, R366). -/
def State.groupDies (s : State) (c g : Nat) : List Nat :=
  match (s.ctx c).program, Tab.find? s.fabric.groups g with
  | some p, some e =>
    (List.range 4).filter fun d => e.field 0 63 61 ≠ 0 || p.layout.field (e.field 0 60 58 + 1) 31 0 / 2 ^ (8 * d) % 2 ^ 8 ≠ 0
  | _, _ => List.range 4

/-- The context has a collective in progress on an I/O die. -/
def State.collOn (s : State) (c d : Nat) : Bool := s.fabric.colls.any fun k => k.ctx = c && (s.groupDies c k.group).contains d

/-- A Fused Update Unit has an update of the context under way, or late-buffer slots of it in use (R363). The unit of a layer is named by the
layer's place (log entry 24). -/
def State.fuuHolds (s : State) (c n : Nat) : Bool :=
  (s.fuu n).sweep.any (fun w => w.1 = c) ||
  (s.ctx c).shards.any fun t => ((t.blocks.any fun b => b.2.phase ≠ .idle) || !t.late.isEmpty) &&
    (s.ctx c).program.any fun p =>
      ((p.layers.findIdx? fun u => u.field 0 63 50 = t.layer && u.field 0 49 38 = t.expert).getD 0) % 8 = n

/-- The engines that hold state of a context: only those are asked for a snapshot section (R362, R363). -/
def State.unitsHolding (s : State) (c : Nat) : List Engine :=
  ((List.finRange 192).filter fun (n : Fin 192) => (s.array n.val).holdsWork c).map Engine.array ++
  ((List.finRange 8).filter fun (n : Fin 8) => 
    ((s.rte n.val).job.toList ++ (s.rte n.val).publish ++ (s.rte n.val).restart).any fun j => j.ctx = c).map Engine.rte ++
  ((List.finRange 8).filter fun (n : Fin 8) => s.fuuHolds c n.val).map Engine.fuu ++
  ((List.finRange 4).filter fun (n : Fin 4) => s.collOn c n.val).map Engine.coll

/-- Close the streams of a context (R356): later packets for them are answered by the context's state. -/
def State.closeStreams (s : State) (c : Nat) : State :=
  { s with kcp := { s.kcp with sessions := Tab.mapAll s.kcp.sessions fun _ x =>
    { x with streams := x.streams.map fun t => if t.context = c then { t with purged := true } else t } } }

/-- Start a purge: admission stops and the fences freeze (R362 step 1). It ends with CONTEXT_PURGED. -/
def State.purge (s : State) (c : Nat) (cause : W32) : State :=
  match (s.ctx c).state with
  | .free | .purging | .faulted => s
  | _ =>
    let asked := s.unitsHolding c
    let s := s.onCtx c fun x => { x with state := .purging, purge := some { asked := asked, cause := cause }, load := none }
    let s := { s with fences := Tab.mapAll s.fences fun _ f => if f.owner = c then { f with frozen := true } else f }
    s.closeStreams c

/-- An engine consumes poison: MEM_UE, naming the address, the channel and the context, and the context is purged
(R300, R311). -/
def State.memUe (s : State) (c a : Nat) : State :=
  let u : EventUnit := if isReservoir a then unitModule else ⟨7, channelOf a⟩
  (s.raise 0x20 (some c) u (BitVec.ofNat 64 a) 0).purge c s.faults.nextSeq

/-- A run-time address outside the context's memory: never accessed; BAD_ADDR names the unit and the address, and the
context is purged (R288). -/
def State.badAddr (s : State) (c : Nat) (u : EventUnit) (a : Nat) : State :=
  (s.raise 0x24 (some c) u (BitVec.ofNat 64 a) 0).purge c s.faults.nextSeq

/-- What a checked access of an engine finds. -/
inductive Access where
  | ok
  | outside (a : Nat)
  | poisoned (a : Nat)
  deriving DecidableEq, Repr

/-- Check a read of a range for a context (R288, R300). -/
def State.checkRead (s : State) (c a n : Nat) : Access :=
  match (s.ctx c).gap a n with
  | some b => .outside b
  | none =>
    match s.mem.poisonIn a n with
    | some p => .poisoned p
    | none => .ok

/-- Check a write of a range for a context (R288): what the range holds does not matter. -/
def State.checkWrite (s : State) (c a n : Nat) : Access :=
  match (s.ctx c).gap a n with
  | some b => .outside b
  | none => .ok

/-- The first of two accesses that fails, if one does. -/
def Access.orElse (x y : Access) : Access := if x = .ok then y else x

/-- Check the reads of several ranges; the first that fails decides. -/
def State.checkReads (s : State) (c : Nat) (rs : List (Nat × Nat)) : Access :=
  rs.foldl (fun r x => if r = .ok then s.checkRead c x.1 x.2 else r) .ok

/-- Check the writes of several ranges; the first that fails decides. -/
def State.checkWrites (s : State) (c : Nat) (rs : List (Nat × Nat)) : Access :=
  rs.foldl (fun r x => if r = .ok then s.checkWrite c x.1 x.2 else r) .ok

/-- Run an engine step after its accesses were checked: an address outside purges the context with BAD_ADDR, poison with
MEM_UE. -/
def State.guarded (s : State) (c : Nat) (u : EventUnit) (r : Access) (f : State → State) : State :=
  match r with
  | .ok => f s
  | .outside a => s.badAddr c u a
  | .poisoned a => s.memUe c a

end Sys2Proof.Machine
end

