-- ==== Sys2Proof/Machine/Flags.lean ====
section
/-!
DEFINITION. Where the numeric flags surface: exception counters (R55), the Exception Capture record (R56, R57) and the
status word (R54).
-/
namespace Sys2Proof.Machine

open Sys2Proof

/-- The five numeric flags of a status word (R54). -/
def flagBits (f : Nat) : Nat := f % 32

/-- CAPTURED and the flags that a status word may hold (R54): bits 7, 6 and 4 to 0. -/
def fCaptured : Nat := 128
def statusWord (f : Nat) : W32 := BitVec.ofNat 32 (f &&& 0xDF)

/-- Count flags in the exception counters: once per finished tile, block or conversion (R55). -/
def State.countFlags (s : State) (c f : Nat) : State :=
  s.onCtx c fun x => { x with
    exc := (List.range 5).foldl (fun t i => if (f >>> i) % 2 = 1 then Tab.count t i 1 else t) x.exc }

/-- Where flags arose, in the terms of the Exception Capture record (R57). -/
structure FlagSite where
  unitKind  : Nat
  unitIndex : Nat
  grid      : Nat := 0
  task      : Nat := 0
  row       : Nat := 0
  col       : Nat := 0
  colFirst  : Nat := 0
  colLast   : Nat := 0
  firstRun  : Nat := 0

/-- The eight words of the record (R57). -/
def FlagSite.record (x : FlagSite) (f : Nat) (step time : W64) : List W32 :=
  [1#1 ++ BitVec.ofNat 5 f ++ BitVec.ofNat 4 x.unitKind ++ BitVec.ofNat 10 x.unitIndex ++ BitVec.ofNat 12 x.grid,
   BitVec.ofNat 32 (x.task % 2 ^ 24),
   BitVec.ofNat 16 x.row ++ BitVec.ofNat 16 x.col,
   BitVec.ofNat 8 x.colLast ++ BitVec.ofNat 8 x.colFirst ++ BitVec.ofNat 16 x.firstRun,
   step.setWidth 32, (step >>> 32).setWidth 32, time.setWidth 32, (time >>> 32).setWidth 32]

/-- The record would be filled by an event with these flags now (R56). -/
def State.wouldCapture (s : State) (c f : Nat) : Bool := (s.ctx c).armed && decide (flagBits f ≠ 0)

/-- A flag event reaches the capture arbiter: while the record is armed, the first one fills and disarms it (R56). -/
def State.captureFlags (s : State) (c f : Nat) (x : FlagSite) : State :=
  if s.wouldCapture c f then
    s.onCtx c fun k => { k with armed := false, capture := x.record (flagBits f) k.step s.now }
  else s

/-- A finished tile, block or conversion with flags: counted and offered to the arbiter (R55, R56). -/
def State.flagEvent (s : State) (c f : Nat) (x : FlagSite) : State :=
  if flagBits f = 0 then s else (s.countFlags c f).captureFlags c f x

end Sys2Proof.Machine
end

