-- ==== Sys2Proof/Machine/Operands.lean ====
section
/-!
DEFINITION. Tensors: the tensor descriptor (R106), element addresses, reads as exact values, converting stores
(R36, R49, R50, R107), the load checks of a descriptor (R108, R290) and status words (R54).
-/
namespace Sys2Proof.Machine

open Sys2Proof

/-- Formats of a tensor element (R106). -/
inductive EFmt where
  | float (f : Fmt) (bits : Nat)
  | mx (f : Fmt) (bits : Nat)
  | int (bits : Nat)
  | record

/-- Format of an FMT code; 0xC to 0xF are reserved. -/
def eFmt (code : Nat) : Option EFmt :=
  match code with
  | 0x0 => some (.float fp32 32)
  | 0x1 => some (.float bf16 16)
  | 0x2 => some (.float fp16 16)
  | 0x3 => some (.float e4m3 8)
  | 0x4 => some (.float e5m2 8)
  | 0x5 => some (.mx e4m3 8)
  | 0x6 => some (.mx e5m2 8)
  | 0x7 => some (.mx e2m1 4)
  | 0x8 => some (.int 8)
  | 0x9 => some (.int 4)
  | 0xA => some (.int 32)
  | 0xB => some .record
  | _ => none

/-- Bits of an element. -/
def fmtBits (code : Nat) : Nat :=
  match eFmt code with
  | some (.float _ b) => b
  | some (.mx _ b) => b
  | some (.int b) => b
  | some .record => 128
  | none => 0

def fmtIsMx (code : Nat) : Bool := code = 5 || code = 6 || code = 7

/-- A tensor descriptor (R106). -/
structure Tensor where
  fmt     : Nat
  sat     : Bool
  nanovf  : Bool
  rank    : Nat
  bcast   : Bool
  base    : Nat
  ext     : List Nat
  stride  : List Nat
  scale   : Nat
  status  : Nat
  raw     : Rec
  deriving DecidableEq, Repr

/-- Read a descriptor's fields from its words. -/
def tensorOf (r : Rec) : Tensor :=
  { fmt := r.field 0 63 60, sat := r.field 0 59 59 = 1, nanovf := r.field 0 58 58 = 1, rank := r.field 0 57 56 + 1
    bcast := r.field 0 55 55 = 1, base := r.field 0 47 0
    ext := [r.field 1 23 0, r.field 1 47 24, r.field 2 23 0, r.field 2 47 24]
    stride := [0, r.field 3 39 0, r.field 4 39 0, r.field 5 39 0]
    scale := r.field 6 47 0, status := r.field 7 47 0, raw := r }

def Tensor.e (t : Tensor) (i : Nat) : Nat := t.ext.getD i 1
def Tensor.s (t : Tensor) (i : Nat) : Nat := t.stride.getD i 0
def Tensor.bits (t : Tensor) : Nat := fmtBits t.fmt

/-- Reserved bits of a descriptor that are set. -/
def Tensor.reserved (t : Tensor) : Bool :=
  t.raw.field 0 54 48 ≠ 0 || t.raw.field 1 63 48 ≠ 0 || t.raw.field 2 63 48 ≠ 0 || t.raw.field 3 63 40 ≠ 0 ||
  t.raw.field 4 63 40 ≠ 0 || t.raw.field 5 63 40 ≠ 0 || t.raw.field 6 63 48 ≠ 0 || t.raw.field 7 63 48 ≠ 0

/-- An index in the iteration space. -/
abbrev Idx := Nat × Nat × Nat × Nat

/-- The index that a tensor's own element takes: a dimension of extent 1 always has index 0 (R106, R107). -/
def Tensor.clamp (t : Tensor) (i : Idx) : Idx :=
  let c := fun k x => if t.e k = 1 then 0 else x
  (if t.bcast then 0 else c 0 i.1, c 1 i.2.1, c 2 i.2.2.1, c 3 i.2.2.2)

/-- Bit address of an element relative to BASE: nibbles count 4 bits (R36, R106). -/
def Tensor.bitAddr (t : Tensor) (i : Idx) : Nat :=
  let j := t.clamp i
  8 * t.base + j.1 * t.bits + 8 * (j.2.1 * t.s 1 + j.2.2.1 * t.s 2 + j.2.2.2 * t.s 3)
def Tensor.addr (t : Tensor) (i : Idx) : Nat := t.bitAddr i / 8

/-- Blocks of 32 along dimension 0. -/
def Tensor.blocks0 (t : Tensor) : Nat := (t.e 0 + 31) / 32
/-- Address of an element's block scale (R106). -/
def Tensor.scaleAddr (t : Tensor) (i : Idx) : Nat :=
  let j := t.clamp i
  t.scale + ((j.2.2.2 * t.e 2 + j.2.2.1) * t.e 1 + j.2.1) * t.blocks0 + j.1 / 32

/-- Raw code of an element. -/
def Mem.rawElem (m : Mem) (t : Tensor) (i : Idx) : Nat :=
  let b := t.bitAddr i
  let w := m.readNat (b / 8) (max 1 (t.bits / 8))
  if t.bits = 4 then (w >>> (b % 8)) % 16 else w

/-- The exact stored value of an element (R32, R35, R37); of a reduction record, VALUE (R115). -/
def Mem.elem (m : Mem) (t : Tensor) (i : Idx) : Num :=
  let raw := m.rawElem t i
  match eFmt t.fmt with
  | some (.float f _) => f.decode raw
  | some (.mx f _) => mxValue f ((m.byte (t.scaleAddr i)).toNat) raw
  | some (.int b) => .ofInt (sext b raw)
  | some .record => fp32.decode (raw % 2 ^ 32)
  | none => .nan

/-- A tensor's own advance for the tile at position b (R107). -/
def Tensor.atTile (t : Tensor) (b : Nat) : Tensor :=
  { t with base := t.base + 128 * b * t.s 1, scale := t.scale + 128 * b * t.blocks0 }

/-! ### Stores (R49, R50, R107) -/

/-- Code of a value in a stored format with no blocks (R49). An INT32 value above the largest finite one of FP16, E4M3 or E5M2, for which the
table has no entry, goes the way of a float (DESIGN CHOICE, log entry 116). -/
def Tensor.code (t : Tensor) (x : Num) : Flagged Nat :=
  match eFmt t.fmt with
  | some (.float f _) =>
    f.encode (if f.ieee then (if t.sat && t.fmt ≠ 0 then .saturate else .toInf) else (if t.nanovf then .toNan else .saturate)) x
  | some (.int b) => let r := toIntSat b x; (twos b r.1, r.2)
  | _ => (0, 0)

/-- Nibble codes packed two to a byte: element 2i in bits [3:0] (R36). -/
def packNibbles : List Nat → List Byte
  | [] => []
  | [a] => [BitVec.ofNat 8 a]
  | a :: b :: r => BitVec.ofNat 8 (a + 16 * b) :: packNibbles r

/-- Write nibble codes from a bit address: the other nibble of a byte at either end keeps its value. -/
def Mem.writeNibbles (m : Mem) (bit : Nat) (cs : List Nat) : Mem :=
  let first := bit / 8
  let pre := if bit % 8 = 4 then [(m.byte first).toNat % 16] else []
  let all := pre ++ cs
  let all := if all.length % 2 = 1 then all ++ [(m.byte (first + all.length / 2)).toNat / 16] else all
  m.write first (packNibbles all)

/-- Write codes of a width at a bit address. -/
def Mem.writeCodes (m : Mem) (bits bit : Nat) (cs : List Nat) : Mem :=
  if cs.isEmpty then m
  else if bits = 4 then m.writeNibbles bit cs
  else m.write (bit / 8) (cs.flatMap fun c => le (bits / 8) c)

/-- Convert and store a run of values along dimension 0 that starts at `i`; an MX run forms its blocks under R50, a partial
last block being completed with zeros, which change neither scale nor flags. -/
def Mem.storeRun (m : Mem) (t : Tensor) (i : Idx) (xs : List Num) : Mem × Nat :=
  match eFmt t.fmt with
  | some (.mx f b) =>
    (List.range ((xs.length + 31) / 32)).foldl (fun r k =>
      let blk := (xs.drop (32 * k)).take 32
      let e := mxEncode f blk
      let j : Idx := (i.1 + 32 * k, i.2)
      let m := r.1.writeCodes b (t.bitAddr j) e.2.1
      (m.write (t.scaleAddr j) [BitVec.ofNat 8 e.1], r.2 ||| e.2.2)) (m, 0)
  | _ =>
    let cs := xs.map t.code
    (m.writeCodes t.bits (t.bitAddr i) (cs.map (·.1)), cs.foldl (fun g c => g ||| c.2) 0)

/-! ### Addressed bytes (R108, R288) -/

/-- A run of `n` bytes at BASE + strides for every index of dimensions 1 to 3 lies in a region of the context; the span
between runs may cross gaps. Runs that follow one another are tested as one. -/
def Ctx.coversRows (c : Ctx) (base : Nat) (strides exts : List Nat) (n : Nat) : Bool :=
  let s := fun k => strides.getD k 0
  let e := fun k => exts.getD k 1
  let hi := (e 0 - 1) * s 0 + (e 1 - 1) * s 1 + (e 2 - 1) * s 2 + n
  c.covers base hi ||
  (List.range (e 2)).all fun z => (List.range (e 1)).all fun y =>
    c.covers (base + y * s 1 + z * s 2) ((e 0 - 1) * s 0 + n) ||
    (List.range (e 0)).all fun x => c.covers (base + x * s 0 + y * s 1 + z * s 2) n

/-- The first `n0` elements of every run of the tensor within the given extents, and their scales, lie in the context's
memory. -/
def Ctx.coversTensor (c : Ctx) (t : Tensor) (e : List Nat) : Bool :=
  let x := fun k => min (e.getD k 1) (t.e k)
  let n0 := if t.bcast then 1 else x 0
  c.coversRows t.base [t.s 1, t.s 2, t.s 3] [x 1, x 2, x 3] ((n0 * t.bits + 7) / 8) &&
  (!fmtIsMx t.fmt ||
    c.coversRows t.scale [t.blocks0, t.blocks0 * t.e 1, t.blocks0 * t.e 1 * t.e 2] [x 1, x 2, x 3] ((n0 + 31) / 32))

/-- The checks of a descriptor that need no iteration space (R11, R106, R108): reserved fields and formats, extents, strides,
alignment of elements (R290). -/
def Tensor.badForm (t : Tensor) (dest : Bool) : Bool :=
  t.reserved || (eFmt t.fmt).isNone || (dest && t.fmt = 0xB) || (t.bcast && (dest || fmtIsMx t.fmt)) ||
  (List.range 4).any (fun k => t.e k = 0 || (decide (t.rank ≤ k) && t.e k ≠ 1)) ||
  (let b := t.bits / 8
   decide (1 < b) && (t.base % b ≠ 0 || (List.range 3).any fun k => t.s (k + 1) % b ≠ 0))

/-! ### Status words (R54) -/

/-- Write a status word. -/
def Mem.putStatus (m : Mem) (a : Nat) (f : Nat) : Mem := if a = 0 then m else m.write a (le 4 (statusWord f).toNat)

/-- What reading an element touches: its bytes and, for MX, its scale. -/
def Tensor.touched (t : Tensor) (i : Idx) : List (Nat × Nat) :=
  (t.addr i, max 1 (t.bits / 8)) :: (if fmtIsMx t.fmt then [(t.scaleAddr i, 1)] else [])

end Sys2Proof.Machine
end

