-- ==== Sys2Proof/Machine/Tasks.lean ====
section
/-!
DEFINITION. Grid descriptors and task records (R340, R341), the array control word (R64), the VXU task (R105), the COPY
descriptor (R316), and the load checks of a task (R40, R65, R108, R130, R290, R316).
-/
namespace Sys2Proof.Machine

open Sys2Proof

/-! ### Grids and task records -/

/-- Task kinds (R340). -/
inductive GridKind where
  | mxa | vxu | copy | coll | xfer | fence
  deriving DecidableEq, Repr

def gridKind (code : Nat) : Option GridKind :=
  match code with
  | 0 => some .mxa | 1 => some .vxu | 2 => some .copy | 3 => some .coll | 4 => some .xfer | 5 => some .fence
  | _ => none

/-- Number of tasks of a grid. -/
def gridTasks (g : Rec) : Nat := g.field 0 23 0 + 1
def gridBase (g : Rec) : Nat := g.field 2 47 0
def gridArgA (g : Rec) : Nat := g.field 3 47 0
def gridArgB (g : Rec) : Nat := g.field 4 47 0
/-- A task record of a grid: 64 bytes each, consecutive (R340). -/
def Mem.task (m : Mem) (g : Rec) (t : Nat) : Rec := m.record (gridBase g + 64 * t) 8
def Mem.tensor (m : Mem) (a : Nat) : Tensor := tensorOf (m.record a 8)

/-! ### The array control word (R64) -/

structure ArrayCtl where
  lease  : Nat
  tiles  : Nat
  fmt    : Nat
  aStat  : Bool
  acc    : Bool
  zfill  : Bool
  split9 : Bool
  rmask  : Bool
  emask  : Bool
  mxA    : Bool
  mxB    : Bool
  mLast  : Nat
  cols   : Nat
  fin    : Bool
  kExt   : Nat
  deriving DecidableEq, Repr

def arrayCtl (w : W64) : ArrayCtl :=
  let b := fun i => decide (fieldOf w i i = 1)
  { lease := fieldOf w 63 52, tiles := fieldOf w 51 48 + 1, fmt := fieldOf w 47 44, aStat := b 43, acc := b 42, zfill := b 41
    split9 := b 40, rmask := b 39, emask := b 38, mxA := b 37, mxB := b 36, mLast := fieldOf w 35 28
    cols := fieldOf w 27 20 + 1, fin := b 19, kExt := fieldOf w 18 0 }

/-- K elements per pass (R62). -/
def kPass (fmt : Nat) : Nat := if fmt = 4 || fmt = 6 then 256 else if fmt ≤ 5 then 128 else 64
def intPair (fmt : Nat) : Bool := fmt = 5 || fmt = 6
/-- Passes of one K slice: 6 or 8 for split FP32 (R48). -/
def ArrayCtl.perSlice (c : ArrayCtl) : Nat := if c.fmt = 9 then (if c.split9 then 8 else 6) else 1
def ArrayCtl.slices (c : ArrayCtl) : Nat := (c.kExt + kPass c.fmt - 1) / kPass c.fmt
/-- Passes of a task: K slices outer, split passes next, tiles inner (R71). -/
def ArrayCtl.passes (c : ArrayCtl) : Nat := c.slices * c.perSlice * c.tiles
/-- Streaming rows of a tile. -/
def ArrayCtl.rowsOf (c : ArrayCtl) (b : Nat) : Nat := if b + 1 = c.tiles then c.mLast else 128
/-- Rows of the streaming operand over all tiles. -/
def ArrayCtl.stream (c : ArrayCtl) : Nat := 128 * (c.tiles - 1) + c.mLast

/-- Operand element formats of a pairing (R64), A then B. -/
def pairFmt (fmt : Nat) (b : Bool) : EFmt :=
  match fmt with
  | 0 => .float e4m3 8
  | 1 => if b then .float e5m2 8 else .float e4m3 8
  | 2 => if b then .float e4m3 8 else .float e5m2 8
  | 3 => .float e5m2 8
  | 4 => .mx e2m1 4
  | 5 => .int 8
  | 6 => .int 4
  | 7 => .float bf16 16
  | 8 => .float fp16 16
  | _ => .float fp32 32

/-- The operand format with its MX bit. -/
def ArrayCtl.operand (c : ArrayCtl) (b : Bool) : EFmt :=
  match pairFmt c.fmt b with
  | .float f n => if (if b then c.mxB else c.mxA) then .mx f n else .float f n
  | y => y

/-- R49 has a row for the conversion of a stored format to an operand format, or the formats are equal. -/
def convertible (src : EFmt) (dst : EFmt) : Bool :=
  match src, dst with
  | .record, _ => false
  | _, .record => false
  | .mx a m, .mx b n => decide (a.ebits = b.ebits) && decide (m = n)
  | .mx _ _, .float _ n => decide (16 ≤ n)
  | .mx _ _, .int _ => false
  | .float _ m, .mx _ _ => decide (16 ≤ m)
  | .int _, .mx _ _ => false
  | .int m, .int n => decide (m = n)
  | .int _, .float _ _ => true
  | .float _ _, _ => true

/-! ### VXU tasks (R105) -/

structure VxTask where
  kind    : Nat
  nops    : Nat
  nsrc    : Nat
  ndst    : Nat
  nred    : Nat
  tileSrc : Bool
  pk      : Bool
  zrel    : Bool
  score   : Nat
  k       : Nat
  sigmoid : Bool
  renorm  : Bool
  maskMode : Nat
  offset  : Int
  cap     : Nat
  ops     : List W32
  consts  : List W32
  srcs    : List Tensor
  dsts    : List Tensor
  reds    : List Rec
  mask    : Tensor
  deriving DecidableEq, Repr

/-- A 32-bit half of a record. -/
def recHalf (r : Rec) (i : Nat) : W32 := BitVec.ofNat 32 ((r.word (i / 2)).toNat >>> (32 * (i % 2)))

/-- Words `i` to `i + n - 1` of a record. -/
def recSub (r : Rec) (i n : Nat) : Rec := (List.range n).map fun k => r.word (i + k)

/-- Read the fields of a VXU task's 96 words. -/
def vxTask (r : Rec) : VxTask :=
  let b := fun i => decide (r.field 0 i i = 1)
  { kind := r.field 0 63 62, nops := r.field 0 61 57 + 1, nsrc := r.field 0 56 54, ndst := r.field 0 53 52
    nred := r.field 0 51 49, tileSrc := b 48, pk := b 47, zrel := b 46, score := r.field 0 45 40, k := r.field 0 39 37 + 1
    sigmoid := b 36, renorm := b 35, maskMode := r.field 0 34 33, offset := sext 32 (r.field 1 63 32), cap := r.field 1 15 0
    ops := (List.range 32).map fun i => recHalf r (4 + i)
    consts := (List.range 16).map fun i => recHalf r (36 + i)
    srcs := (List.range 4).map fun i => tensorOf (recSub r (32 + 8 * i) 8)
    dsts := (List.range 2).map fun i => tensorOf (recSub r (64 + 8 * i) 8)
    reds := (List.range 4).map fun i => recSub r (80 + 2 * i) 2
    mask := tensorOf (recSub r 88 8) }

def Mem.vx (m : Mem) (a : Nat) : VxTask := vxTask (m.record a 96)
def VxTask.src (v : VxTask) (i : Nat) : Tensor := v.srcs.getD i (tensorOf [])
def VxTask.dst (v : VxTask) (i : Nat) : Tensor := v.dsts.getD i (tensorOf [])
def VxTask.red (v : VxTask) (i : Nat) : Rec := v.reds.getD i []

/-- Fields of an operation word (R109). -/
structure VxOp where
  op : Nat
  d  : Nat
  a  : Nat
  b  : Nat
  c  : Nat
  deriving DecidableEq, Repr

def vxOp (w : W32) : VxOp := ⟨fieldOf w 31 26, fieldOf w 25 20, fieldOf w 19 14, fieldOf w 13 8, fieldOf w 7 2⟩
/-- The program of a task. -/
def VxTask.program (v : VxTask) : List VxOp := (v.ops.take v.nops).map vxOp

/-- Registers that an operation names. -/
def VxOp.regs (o : VxOp) : List Nat :=
  match o.op with
  | 0x00 => []
  | 0x01 => [o.d]
  | 0x02 => [o.a]
  | 0x03 => [o.d]
  | 0x07 => [o.d, o.a, o.b, o.c]
  | 0x0E => [o.d, o.a, o.b, o.c]
  | 0x1C => [o.a]
  | 0x1D => [o.d]
  | k => if k ≤ 0x09 || k = 0x0C || k = 0x0D || k = 0x10 then [o.d, o.a, o.b] else [o.d, o.a]

/-- Issue cost of an operation (R109). -/
def VxOp.cost (o : VxOp) : Nat :=
  if o.op = 0x10 || o.op = 0x11 || (0x14 ≤ o.op && o.op ≤ 0x17) then 4
  else if o.op = 0x12 || o.op = 0x13 then 2
  else if 0x18 ≤ o.op && o.op ≤ 0x1B then 8 else 1

/-- The checks of R108 on one operation. -/
def VxTask.badOp (v : VxTask) (w : W32) : Bool :=
  let o := vxOp w
  decide (0x1E ≤ o.op) || fieldOf w 1 0 ≠ 0 ||
  (o.op = 0x01 && decide (v.nsrc ≤ o.a)) || (o.op = 0x02 && decide (v.ndst ≤ o.b)) ||
  (o.op = 0x03 && decide (16 ≤ o.a)) || (o.op = 0x1C && decide (v.nred ≤ o.b)) || (o.op = 0x1D && decide (4 ≤ o.c)) ||
  (o.op = 0x0F && !([0, 1, 2, 3, 4, 8, 9].contains o.c)) ||
  ((v.kind = 1 || v.kind = 2) && (o.op = 0x02 || o.op = 0x1C || o.regs.any fun r => decide (32 ≤ r)))

/-- The iteration space of a memory-sourced task (R107). -/
def VxTask.space (v : VxTask) : List Nat := if v.ndst = 0 then (v.src 0).ext else (v.dst 0).ext

/-- An extent rule of R107: a source equals the space or is 1 with stride 0; a destination is at least the space. -/
def badExtent (t : Tensor) (dest : Bool) (sp : List Nat) : Bool :=
  (List.range 4).any fun k =>
    let n := sp.getD k 1
    if dest then decide (t.e k < n)
    else t.e k ≠ n && !(t.e k = 1 && (if k = 0 then t.bcast else t.s k = 0))

/-- Elements of one run of dimension 0 that reduction slot `k` absorbs for each element of the run: the RED operations on the slot whose
operand is no record just loaded, since merges are what COUNT may saturate under (R113, R115). -/
def VxTask.absorbs (v : VxTask) (k : Nat) : Nat :=
  (v.program.foldl (fun (x : List Nat × Nat) o =>
    if o.op = 0x1C then (x.1, if o.b = k && !x.1.contains o.a then x.2 + 1 else x.2)
    else if o.op = 0x01 && (v.src o.a).fmt = 0xB && !(v.tileSrc && o.a = 0) then (o.d :: x.1, x.2)
    else if o.op = 0x00 || o.op = 0x02 then x
    else (x.1.filter (· ≠ o.d), x.2)) ([], 0)).2

/-- The load checks of a VXU task (R105, R107, R108, R111, R113, R116). `tile` gives, for a task that an MXA task names, the
written columns, the tiles and the rows of the last one. -/
def VxTask.bad (v : VxTask) (r : Rec) (c : Ctx) (tile : Option (Nat × Nat × Nat)) : Bool :=
  let sp := match tile with
    | some (n, k, m) => [n, if 1 < k then 128 else m, 1, 1]
    | none => v.space
  let tiles := match tile with | some (_, k, _) => k | none => 1
  let spAt := fun b => match tile with
    | some (n, k, m) => [n, if b + 1 = k then m else 128, 1, 1]
    | none => sp
  let mems := (v.srcs.zipIdx.filter fun t => decide (t.2 < v.nsrc) && !(v.tileSrc && t.2 = 0)).map (fun t => (t.1, false)) ++
    (v.dsts.zipIdx.filter fun t => decide (t.2 < v.ndst)).map (fun t => (t.1, true))
  let rows := match tile with | some (_, k, m) => 128 * (k - 1) + m | none => sp.getD 1 1 * sp.getD 2 1 * sp.getD 3 1
  let total := sp.getD 0 1 * sp.getD 1 1 * sp.getD 2 1 * sp.getD 3 1
  -- EXT0 and EXT1 of source 0: those of the tile in a task that reads one
  let experts := if v.tileSrc then sp.getD 0 1 else (v.src 0).e 0
  let tokens := if v.tileSrc then sp.getD 1 1 else (v.src 0).e 1
  r.field 0 32 0 ≠ 0 || r.field 1 31 16 ≠ 0 || v.kind = 3 || v.maskMode = 3 ||
  decide (4 < v.nsrc) || decide (2 < v.ndst) || decide (4 < v.nred) || v.tileSrc ≠ tile.isSome || (v.tileSrc && v.nsrc = 0) ||
  (!v.tileSrc && v.nsrc = 0 && v.ndst = 0) ||
  (v.ops.drop v.nops).any (· ≠ 0) || (List.range 6).any (fun i => r.word (26 + i) ≠ 0) || (v.ops.take v.nops).any v.badOp ||
  mems.any (fun t => t.1.badForm t.2 || badExtent t.1 t.2 sp ||
    !(t.2 && v.kind = 2 || (List.range tiles).all fun b => c.coversTensor (t.1.atTile b) (spAt b))) ||
  (decide (0 < v.ndst) && (v.dst 0).status ≠ 0 && !c.covers (v.dst 0).status (4 * tiles)) ||
  (v.reds.take v.nred).zipIdx.any (fun x =>
    let d := x.1
    decide (4 < d.field 0 63 61) || d.field 0 59 48 ≠ 0 || d.word 1 ≠ 0 || d.field 0 47 0 % 16 ≠ 0 ||
    (if d.field 0 60 60 = 1 then !c.covers (d.field 0 47 0) (16 * rows) || decide (2 ^ 32 ≤ v.absorbs x.2 * sp.getD 0 1)
     else !(List.range tiles).all (fun b => c.covers (d.field 0 47 0 + 2048 * b) 16) || decide (2 ^ 32 ≤ v.absorbs x.2 * total))) ||
  ((v.kind = 1 || v.kind = 2) && (v.ndst = 0 || decide (32 ≤ v.score))) ||
  (v.kind = 1 && v.maskMode = 1 && (v.mask.reserved || v.mask.fmt ≠ 8 ||
    !(c.coversRows v.mask.base [v.mask.s 1, v.mask.s 2, v.mask.s 3] [if tile.isSome then rows else sp.getD 1 1, sp.getD 2 1, sp.getD 3 1]
      ((sp.getD 0 1 + 7) / 8)))) ||
  (v.kind = 1 && v.pk && decide (8192 < sp.getD 0 1)) ||
  (v.kind = 2 && (v.pk || decide (experts < 2) || decide (experts < v.k) || decide (4096 < experts) ||
    decide (65536 < tokens) || decide (65536 < sp.getD 1 1) || !(List.range tiles).all fun b => c.covers ((v.dst 0).atTile b).base (8 * v.k * (spAt b).getD 1 1)))

/-! ### MXA tasks (R65, R290, R341) -/

def taskCtl (t : Rec) : ArrayCtl := arrayCtl (t.word 1)
def taskM0 (t : Rec) : Nat := t.field 2 63 40
def taskN0 (t : Rec) : Nat := t.field 2 39 16
def taskK0 (t : Rec) : Nat := t.field 3 63 40
def taskTapSel (t : Rec) : Nat := t.field 0 27 26
def taskTapLayer (t : Rec) : Nat := t.field 0 25 12

/-- A tensor that an MXA task names: the element plane 128-byte aligned, the scale plane 64-byte aligned (R290), and all of it
in the context's memory. -/
def badOperand (c : Ctx) (t : Tensor) : Bool :=
  t.badForm false || t.fmt = 0xB || t.base % 128 ≠ 0 || (fmtIsMx t.fmt && t.scale % 64 ≠ 0) || !c.coversTensor t t.ext

/-- A lease request (R342): handle, tiles, integer mode. -/
def leaseOf (w : W64) : Nat × Nat × Bool := (fieldOf w 63 52, fieldOf w 51 48 + 1, decide (fieldOf w 47 47 = 1))

/-- The operands' first dimension is K, the second m or n (log entry 22). -/
def operandRange (t : Rec) (a b : Tensor) : Bool :=
  let c := taskCtl t
  let m := if c.aStat then c.cols else c.stream
  let n := if c.aStat then c.stream else c.cols
  decide (taskK0 t + c.kExt ≤ min (a.e 0) (b.e 0)) && decide (taskM0 t + m ≤ a.e 1) && decide (taskN0 t + n ≤ b.e 1)

/-- What the statistics checks of R130 need of a descriptor: LAYER and whether each side taps at the Weir. -/
structure TapInfo where
  layer  : Nat
  isAct  : Bool
  aWeir  : Bool
  gWeir  : Bool

/-- The load checks of an MXA task. -/
def badMxa (m : Mem) (c : Ctx) (g t : Rec) (leases : List W64) (taps : List TapInfo) : Bool :=
  let k := taskCtl t
  let a := m.tensor (gridArgA g)
  let b := m.tensor (gridArgB g)
  t.field 0 11 0 ≠ 0 || t.field 2 15 0 ≠ 0 || t.field 3 39 0 ≠ 0 || t.field 4 63 48 ≠ 0 || t.field 5 63 48 ≠ 0 ||
  t.field 6 63 48 ≠ 0 || t.field 7 63 32 ≠ 0 || taskTapSel t = 3 ||
  decide (0xA ≤ k.fmt) || ((k.mxA || k.mxB) && decide (4 < k.fmt)) || (k.fmt = 4 && !(k.mxA && k.mxB)) ||
  (k.split9 && k.fmt ≠ 9) || k.mLast = 0 || decide (128 < k.mLast) || k.kExt = 0 ||
  !(leases.any fun w =>
    let l := leaseOf w
    decide (l.1 ≤ k.lease) && decide (k.lease + k.tiles ≤ l.1 + l.2.1) && l.2.2 = intPair k.fmt) ||
  (match eFmt a.fmt, eFmt b.fmt with
   | some x, some y => !(convertible x (k.operand false) && convertible y (k.operand true))
   | _, _ => true) ||
  !operandRange t a b ||
  (k.rmask && !c.covers (t.field 4 47 0) (16 * k.tiles)) ||
  (k.emask && (!c.covers (t.field 5 47 0) (32 * k.stream * k.slices) ||
    decide (kPass k.fmt < 256) && (List.range (k.stream * k.slices)).any fun i =>
      (m.read (t.field 5 47 0 + 32 * i + kPass k.fmt / 8) (32 - kPass k.fmt / 8)).any (· ≠ 0))) ||
  (if k.fin then
     let v := t.field 6 47 0
     v % 64 ≠ 0 || !c.covers v 768 || (m.vx v).bad (m.record v 96) c (some (k.cols, k.tiles, k.mLast))
   else t.field 6 47 0 ≠ 0) ||
  (taskTapSel t ≠ 0 && !(taps.any fun d => d.layer = taskTapLayer t && d.isAct &&
    !(k.fmt = 9 && !(if taskTapSel t = 1 then d.aWeir else d.gWeir))))

/-! ### COPY tasks (R316) -/

/-- Source dimension of each destination dimension. -/
def copyPerm (d : Rec) : List Nat := (List.range 4).map fun i => (d.field 0 63 56 >>> (2 * i)) % 4

def badCopy (m : Mem) (c : Ctx) (addr : Nat) : Bool :=
  addr % 64 ≠ 0 || !c.covers addr 64 ||
  (let d := m.record addr 8
   let p := copyPerm d
   let src := m.tensor (d.field 1 47 0)
   let dst := m.tensor (d.field 2 47 0)
   d.field 0 55 0 ≠ 0 || d.field 1 63 48 ≠ 0 || d.field 2 63 48 ≠ 0 || (List.range 5).any (fun i => d.word (3 + i) ≠ 0) ||
   !((List.range 4).all fun i => p.contains i) || !c.covers (d.field 1 47 0) 64 || !c.covers (d.field 2 47 0) 64 ||
   src.badForm false || dst.badForm true ||
   (match eFmt src.fmt, eFmt dst.fmt with
    | some x, some y => !convertible x y
    | _, _ => true) || !c.coversTensor src src.ext || !c.coversTensor dst dst.ext ||
   (dst.status ≠ 0 && !c.covers dst.status 4) ||
   (List.range 4).any fun i => dst.e i ≠ src.e (p.getD i 0))

end Sys2Proof.Machine
end

