-- ==== Sys2Proof/Machine/Layout.lean ====
section
/-!
DEFINITION. A program's tables as read: the Layout Descriptor (R223 to R229), the Placement Record and stage table (R231,
R232), the update and statistics descriptors (R128, R196, R197), update blocks and their elements (R123, R194), the shard
map (R238, R239), and where each state buffer lies (R144, R176, R197, R211).
-/
namespace Sys2Proof.Machine

open Sys2Proof

/-! ### The Layout Descriptor -/

/-- An axis of the layout (R223). -/
structure Axis where
  cut     : Nat
  fold    : Nat
  len     : Nat
  foldLen : Nat
  k       : Nat
  mask    : Nat
  deriving DecidableEq, Repr

def layoutAxis (l : Rec) (i : Nat) : Axis :=
  { cut := l.field (i + 1) 63 61, fold := l.field (i + 1) 60 58, len := l.field (i + 1) 57 51, foldLen := l.field (i + 1) 50 44
    k := l.field (i + 1) 43 39, mask := l.field (i + 1) 31 0 }
def layoutAxes (l : Rec) : List Axis := (List.range (min 5 (l.field 0 62 60))).map (layoutAxis l)
def layoutUniform (l : Rec) : Bool := l.field 0 63 63 = 1
/-- Logical lengths of the cuts D, P, T, E, S. -/
def layoutLog (l : Rec) (cut : Nat) : Nat := l.field 6 (56 - 7 * cut) (50 - 7 * cut)
def layoutH (l : Rec) : Nat := l.field 6 63 57
/-- Modules on the torus: the product of the LENs. -/
def layoutProduct (l : Rec) : Nat := (layoutAxes l).foldl (fun p a => p * max 1 a.len) 1
def layoutSpares (l : Rec) : Nat := l.field 0 42 32

/-- Coordinates of a position identifier, in descriptor order (R226). -/
def coordsOf (as : List Axis) (id : Nat) : List Nat :=
  match as with
  | [] => []
  | a :: r => id % max 1 a.len :: coordsOf r (id / max 1 a.len)

/-- Position identifier of coordinates (R226). -/
def idOf (as : List Axis) (xs : List Nat) : Nat :=
  match as, xs with
  | a :: r, x :: y => x + max 1 a.len * idOf r y
  | _, _ => 0

/-- Set bits of a port mask, lowest first. -/
def maskPorts (m : Nat) : List Nat := (List.range 32).filter fun i => m.testBit i
/-- Ports of an axis by direction, in the order in which both ends pair them: the K lowest face + (R224, R269). -/
def axisPorts (a : Axis) (plus : Bool) : List Nat := if plus then (maskPorts a.mask).take a.k else (maskPorts a.mask).drop a.k

/-- Axis, direction and place of a port in a layout. -/
def portPlace (l : Rec) (p : Nat) : Option (Nat × Bool × Nat) :=
  (layoutAxes l).zipIdx.findSome? fun a => [true, false].findSome? fun plus =>
    ((axisPorts a.1 plus).idxOf? p).map fun j => (a.2, plus, j)

/-- The neighbour that the coordinates predict for a port of an axis. -/
def predicted (l : Rec) (pos a : Nat) (plus : Bool) : Nat :=
  let as := layoutAxes l
  let n := max 1 (layoutAxis l a).len
  let xs := coordsOf as pos
  let x := xs.getD a 0
  idOf as (xs.set a (if plus then (x + 1) % n else (x + n - 1) % n))

/-- The far end that the layout predicts for a port: position and port index (R269). -/
def State.expectedPeer (s : State) (l : Rec) (p : Nat) : Option (Nat × Nat) :=
  (portPlace l p).map fun x => (predicted l s.fabric.position.toNat x.1 x.2.1, (axisPorts (layoutAxis l x.1) (!x.2.1)).getD x.2.2 32)

/-- CRC-32C of a Layout Descriptor (R268). -/
def layoutCrc (l : Rec) : W32 := crc32c (l.flatMap fun w => le 8 w.toNat)

/-- The axis that carries a cut, with whether as its inner cut (R227). -/
def cutAxis (l : Rec) (cut : Nat) : Option (Nat × Bool) :=
  ((layoutAxes l).zipIdx.find? fun a => a.1.cut = cut || a.1.fold = cut).map fun a => (a.2, a.1.fold = cut)

/-- Logical rank from logical coordinates d, p, t, e, s (R229). -/
def rankOf (l : Rec) (d p t e x : Nat) : Nat :=
  x + layoutLog l 4 * (e + layoutLog l 3 * (t + layoutLog l 2 * (p + layoutLog l 1 * d)))

/-- Position identifiers by rank, in Uniform mode. -/
def rankTable (m : Mem) (l : Rec) : List Nat :=
  (List.range (layoutLog l 0 * layoutLog l 1 * layoutLog l 2 * layoutLog l 3 * layoutLog l 4)).map fun r =>
    m.readNat (l.field 7 47 0 + 2 * r) 2

/-- Logical coordinate of a position on a cut: D 0, P 1, T 2, E 3, S 4 (R227, R229). -/
def cutCoord (m : Mem) (l : Rec) (id cut : Nat) : Nat :=
  if layoutUniform l then
    let r := ((rankTable m l).idxOf? id).getD 0
    let below := (List.range (4 - cut)).foldl (fun p i => p * max 1 (layoutLog l (4 - i))) 1
    r / below % max 1 (layoutLog l cut)
  else
    match cutAxis l cut with
    | none => 0
    | some (a, inner) =>
      let ax := layoutAxis l a
      let x := (coordsOf (layoutAxes l) id).getD a 0
      if inner then x % max 1 ax.foldLen else x / max 1 ax.foldLen

/-- The position that agrees with `id` in every cut but one, where it has coordinate `x`. -/
def withCut (m : Mem) (l : Rec) (id cut x : Nat) : Nat :=
  if layoutUniform l then
    let c := fun k => if k = cut then x else cutCoord m l id k
    (rankTable m l).getD (rankOf l (c 0) (c 1) (c 2) (c 3) (c 4)) 0
  else
    match cutAxis l cut with
    | none => id
    | some (a, inner) =>
      let ax := layoutAxis l a
      let xs := coordsOf (layoutAxes l) id
      let old := xs.getD a 0
      let new := if inner then old / max 1 ax.foldLen * ax.foldLen + x else x * ax.foldLen + old % max 1 ax.foldLen
      idOf (layoutAxes l) (xs.set a new)

/-! ### Update and statistics descriptors -/

def uLayer (u : Rec) : Nat := u.field 0 63 50
def uExpert (u : Rec) : Nat := u.field 0 49 38
def uMode (u : Rec) : Nat := u.field 0 37 36
def uMaster (u : Rec) : Nat := u.field 4 47 0
def uMoment (u : Rec) : Nat := u.field 5 47 0
def uWc (u : Rec) : Nat := u.field 6 47 0
def uAcc (u : Rec) : Nat := u.field 7 47 0
/-- MODE is ROOT or DAMPED. -/
def uPre (u : Rec) : Bool := decide (uMode u < 2)

def sGrad (d : Rec) : Bool := d.field 0 37 37 = 1
def sDim (d : Rec) (side : Nat) : Nat := if side = 0 then d.field 1 63 40 else d.field 1 39 16
/-- Block size of a side (R128). -/
def sBlock (d : Rec) (side : Nat) : Nat := 128 * 2 ^ (if side = 0 then d.field 0 33 31 else d.field 0 30 28)
/-- Blocks of a side (R123). -/
def sBlocks (d : Rec) (side : Nat) : Nat := (sDim d side + sBlock d side - 1) / sBlock d side
/-- Rows or columns of a block: only the last may be shorter. -/
def sBlockLen (d : Rec) (side q : Nat) : Nat := min (sBlock d side) (sDim d side - q * sBlock d side)
def sPerm (d : Rec) (side : Nat) : Nat := if side = 0 then d.field 6 47 0 else d.field 7 47 0
def sFactor (d : Rec) : Nat := d.field 3 47 0
def sSum (d : Rec) : Nat := d.field 4 47 0
def sStage (d : Rec) : Nat := d.field 5 47 0
def sSub (d : Rec) : Nat := d.field 0 36 34
def sWarmup (d : Rec) : Nat := d.field 0 27 20
/-- Micro-batches per statistics group, and per step. -/
def sPerGroup (d : Rec) : Nat := d.field 0 19 16 + 1
def sMicro (d : Rec) : Nat := d.field 0 15 10 + 1
def sTokens (d : Rec) : Nat := d.field 6 63 48 + 1
/-- Rows of a micro-batch slot (R133). -/
def sSlotRows (d : Rec) : Nat := (sTokens d + 2 ^ sSub d - 1) / 2 ^ sSub d
/-- Rows of a statistics group. -/
def sGroupRows (d : Rec) : Nat := sPerGroup d * sSlotRows d
/-- Statistics groups of a step. -/
def sGroups (d : Rec) : Nat := (sMicro d + sPerGroup d - 1) / sPerGroup d
/-- Factor blocks of a side: GRAD layers number them in parameter-block order (R125, R144). -/
def sFactors (d : Rec) (side : Nat) : Nat := if sGrad d then sBlocks d 0 * sBlocks d 1 else sBlocks d side
/-- Position of a factor block on its own side. -/
def sPosition (d : Rec) (side q : Nat) : Nat :=
  if sGrad d then (if side = 0 then q / sBlocks d 1 else q % sBlocks d 1) else q
/-- True order of a factor block. -/
def sOrder (d : Rec) (side q : Nat) : Nat := sBlockLen d side (sPosition d side q)
/-- Bytes of one buffer of a side: a 4 KiB header and the matrix. -/
def sBuffer (d : Rec) (side : Nat) : Nat := 4096 + 4 * sBlock d side * sBlock d side
/-- Bytes of the layer's factor storage. -/
def sFactorBytes (d : Rec) : Nat := 2 * (sFactors d 0 * sBuffer d 0 + sFactors d 1 * sBuffer d 1)
/-- Address of factor buffer `p` of block `q` (R144). -/
def factorAddr (d : Rec) (side q p : Nat) : Nat :=
  sFactor d + (if side = 0 then 0 else 2 * sFactors d 0 * sBuffer d 0) + (2 * q + p) * sBuffer d side
/-- Address of root buffer `x` of block `q` (R176). -/
def rootAddr (d : Rec) (side q x : Nat) : Nat := factorAddr d side q x + sFactorBytes d
/-- Address of the step sum of a block: the blocks of a side follow one another, left side first (log entry 23). -/
def sumAddr (d : Rec) (side q : Nat) : Nat :=
  sSum d + (if side = 0 then 0 else sBlocks d 0 * 4 * sBlock d 0 * sBlock d 0) + q * 4 * sBlock d side * sBlock d side
def sumBytes (d : Rec) : Nat :=
  if sGrad d then 0 else 4 * (sBlocks d 0 * sBlock d 0 * sBlock d 0 + sBlocks d 1 * sBlock d 1 * sBlock d 1)
/-- Address of a staging row: halves of the activation side first, then of the output-gradient side (R133, log entry 23). -/
def stageAddr (d : Rec) (side half slot row : Nat) : Nat :=
  sStage d + (if side = 0 then 0 else 2 * sGroupRows d * sDim d 0) + (half * sGroupRows d + slot * sSlotRows d + row) * sDim d side
def stageBytes (d : Rec) : Nat := if sGrad d then 0 else 2 * sGroupRows d * (sDim d 0 + sDim d 1)
/-- Original index at a position of partition order (R128). -/
def permAt (m : Mem) (d : Rec) (side k : Nat) : Nat := if sPerm d side = 0 then k else (m.word32 (sPerm d side + 4 * k)).toNat

/-- The Statistics Layer Descriptor of a layer. -/
def statFor (ss : List Rec) (layer expert : Nat) : Option Rec := ss.find? fun d => uLayer d = layer && uExpert d = expert

/-! ### Update blocks (R194) -/

/-- Update blocks of a layer. A DIAG or STATELESS layer is cut into runs of 65,536 elements. -/
def blockCount (ss : List Rec) (u : Rec) : Nat :=
  if uPre u then
    match statFor ss (uLayer u) (uExpert u) with
    | some d => sBlocks d 0 * sBlocks d 1
    | none => 0
  else (Config.layerElements (uLayer u) (uExpert u) + 65535) / 65536

/-- Elements of update block `b`. -/
def blockElems (ss : List Rec) (u : Rec) (b : Nat) : Nat :=
  if uPre u then
    match statFor ss (uLayer u) (uExpert u) with
    | some d => sBlockLen d 0 (b / sBlocks d 1) * sBlockLen d 1 (b % sBlocks d 1)
    | none => 0
  else min 65536 (Config.layerElements (uLayer u) (uExpert u) - 65536 * b)

/-- Elements of the module's slice of a layer (R211). -/
def layerElems (ss : List Rec) (u : Rec) : Nat :=
  if uPre u then
    match statFor ss (uLayer u) (uExpert u) with
    | some d => sDim d 0 * sDim d 1
    | none => 0
  else Config.layerElements (uLayer u) (uExpert u)

/-- Elements of `n` blocks from block `b`. -/
def runElems (ss : List Rec) (u : Rec) (b n : Nat) : Nat := (List.range n).foldl (fun t i => t + blockElems ss u (b + i)) 0

/-! ### The shard map (R238, R239) -/

/-- Runs of a layer as (owner, first, count): the map's entries, or the default map. -/
def layerRuns (l : Rec) (ss map : List Rec) (u : Rec) : List (Nat × Nat × Nat) :=
  let mine := map.filter fun e => e.field 0 63 50 = uLayer u && e.field 0 49 38 = uExpert u
  if mine.isEmpty then
    let n := blockCount ss u
    let h := max 1 (layoutH l)
    ((List.range h).foldl (fun (r : List (Nat × Nat × Nat) × Nat) o =>
      let k := n / h + (if o < n % h then 1 else 0)
      (if k = 0 then r.1 else r.1 ++ [(o, r.2, k)], r.2 + k)) ([], 0)).1
  else mine.map fun e => (e.field 0 37 32, e.field 0 31 0, e.field 1 63 32)

/-- Owned runs of a layer on this module. -/
def ownedRuns (l : Rec) (ss map : List Rec) (me : Nat) (u : Rec) : List (Nat × Nat) :=
  ((layerRuns l ss map u).filter fun r => r.1 = me).map fun r => r.2

/-- Elements that the module owns of a layer. -/
def ownedElems (l : Rec) (ss map : List Rec) (me : Nat) (u : Rec) : Nat :=
  (ownedRuns l ss map me u).foldl (fun t r => t + runElems ss u r.1 r.2) 0

/-- Bytes of a moment word and of a working-copy element (R196). -/
def momentBytes (up : Rec) : Nat := if up.field 0 63 63 = 1 then 2 else 4
def wcBytes (up : Rec) : Nat := if up.field 0 62 62 = 1 then 2 else 1

end Sys2Proof.Machine
end

