-- ==== Sys2Proof/Machine/LoadCheck.lean ====
section
/-!
DEFINITION. The format checks of a program load (R338, R339): every refusal with BAD_PARAM of R65, R129, R175, R198, R225,
R232, R239, R240, R337, R340, R342, R346, R355 and R376, each with the KIND, ITEM and OFFSET that report it.
-/
namespace Sys2Proof.Machine

open Sys2Proof

/-- A failed check: KIND, ITEM, OFFSET (R339). -/
abbrev Fail := Nat × Nat × Nat

def Fail.before (a b : Fail) : Bool :=
  decide (a.1 < b.1) || (decide (a.1 = b.1) && (decide (a.2.1 < b.2.1) || (decide (a.2.1 = b.2.1) && decide (a.2.2 < b.2.2))))

/-- The first failure in ascending KIND, item and field offset (R338). -/
def firstFail (fs : List Fail) : Option Fail :=
  fs.foldl (fun r f => match r with | none => some f | some g => if f.before g then some f else some g) none

def failIf (b : Bool) (kind item off : Nat) : List Fail := if b then [(kind, item, off)] else []

/-- Byte offset of the lowest byte of the field that begins at bit `lo` of word `w`. -/
def fieldOff (w lo : Nat) : Nat := 8 * w + lo / 8

/-- Word `w` has a set bit among [hi:lo]: reserved bits, reported at their lowest byte (R11). -/
def rsvd (r : Rec) (kind item w hi lo : Nat) : List Fail := failIf (r.field w hi lo ≠ 0) kind item (fieldOff w lo)

/-! ### The directory (R337) -/

def kindSize (k : Nat) : Nat := if k = 3 || k = 6 || k = 11 then 32 else if k = 8 || k = 9 then 8 else if k = 10 then 16 else 64
def kindCount (k : Nat) : Nat × Nat :=
  match k with
  | 1 => (1, 1) | 2 => (1, 1) | 3 => (1, 1) | 4 => (1, 16384) | 5 => (0, 16384) | 6 => (0, 1) | 7 => (1, 4096) | 8 => (0, 16384)
  | 9 => (0, 3056) | 10 => (0, 65536) | 11 => (0, 1)
  | _ => (0, 0)

def dirKind (e : Rec) : Nat := e.field 0 63 48
def dirArg (e : Rec) : Nat := e.field 0 47 32
def dirCount (e : Rec) : Nat := e.field 0 31 0
def dirAddr (e : Rec) : Nat := e.field 1 47 0

def Mem.directory (m : Mem) (a n : Nat) : List Rec := (List.range n).map fun i => m.record (a + 16 * i) 2

/-- Checks of one directory entry; `before` are the kinds of the entries before it. -/
def dirFails (c : Ctx) (before : List Nat) (e : Rec) (i : Nat) : List Fail :=
  let k := dirKind e
  rsvd e 0 i 1 63 48 ++
  if k = 0 || decide (11 < k) || before.contains k then [(0, i, 6)] else
  failIf (decide (dirCount e < (kindCount k).1) || decide ((kindCount k).2 < dirCount e)) 0 i 0 ++
  failIf (if k = 7 then decide (4095 < dirArg e) else dirArg e ≠ 0) 0 i 4 ++
  failIf (dirCount e ≠ 0 && (!c.covers (dirAddr e) (kindSize k * dirCount e) ||
    ((k = 4 || k = 5 || k = 7) && dirAddr e % 64 ≠ 0))) 0 i 8

/-- Required kinds that no entry names. -/
def missingFails (ds : List Rec) : List Fail :=
  [1, 2, 3, 7, 8].flatMap fun k => failIf (!(ds.any fun e => dirKind e = k)) k 0xFFFFFFFF 0

/-- Items of a kind as records. -/
def Mem.items (m : Mem) (ds : List Rec) (k : Nat) : List Rec :=
  match ds.find? fun e => dirKind e = k with
  | some e => (List.range (dirCount e)).map fun i => m.record (dirAddr e + kindSize k * i) (kindSize k / 8)
  | none => []

/-- Read a program's structures (R337). -/
def Mem.readProgram (m : Mem) (c : Ctx) (dir entries : Nat) : Program :=
  let ds := m.directory dir entries
  let one := fun k => (m.items ds k).headD []
  let pl := one 2
  let nStage := pl.field 2 63 32
  let nShard := pl.field 2 31 0
  let root := one 6
  { dirAddr := dir, dir := ds, layout := one 1, placement := pl, update := one 3, layers := m.items ds 4, stats := m.items ds 5
    -- without a record the context holds its reset values (R175)
    root := if root.isEmpty then [0xAC180F0100000000, 0x3580000032800000, 0x3A8000003C800000, 0] else root
    hasRoot := !root.isEmpty
    grids := m.items ds 7
    oneShot := match ds.find? fun e => dirKind e = 7 with | some e => dirArg e | none => 0
    fences := (m.items ds 8).map fun r => r.word 0
    leases := (m.items ds 9).map fun r => r.word 0
    cistern := m.items ds 10
    recovery := (m.items ds 11).head?
    stages := if c.covers (pl.field 1 47 0) (8 * nStage) then m.record (pl.field 1 47 0) nStage else []
    experts := if pl.field 4 47 0 ≠ 0 && c.covers (pl.field 4 47 0) 16384 then m.words32 (pl.field 4 47 0) 4096 else []
    shardMap := if c.covers (pl.field 3 47 0) (16 * nShard) && decide (nShard ≤ 65536) then
        (List.range nShard).map fun i => m.record (pl.field 3 47 0 + 16 * i) 2 else []
    baseSlot := 0, accInRes := [], keep := [] }

/-! ### The Layout Descriptor (R224, R225, R442) -/

def popCount (m : Nat) : Nat := (maskPorts m).length

/-- Cuts that an axis carries. -/
def carries (l : Rec) (cut : Nat) : Nat :=
  (layoutAxes l).foldl (fun n a => n + (if a.cut = cut then 1 else 0) + (if a.fold = cut then 1 else 0)) 0

/-- The verified wiring of a named port reaches another module than the one predicted: discovery has failed there, or the record heard
names another position or port, or a serial number other than the one expected (R225, R270). -/
def State.miswired (s : State) (l : Rec) (ax : Axis) : Bool :=
  (maskPorts ax.mask).any fun p =>
    let x := s.port p
    x.state = .held ||
    match x.record, s.expectedPeer l p with
    | some r, some e =>
      let w := Tab.get 0 s.fabric.peers e.1
      decide (r.position ≠ e.1) || decide (r.port ≠ e.2) || (w.getLsbD 56 && decide (fieldOf w 55 32 ≠ r.tag))
    | _, _ => false

def axisFails (s : State) (l : Rec) (i : Nat) (used : Nat) : List Fail :=
  let a := layoutAxis l i
  let w := i + 1
  let f := fun b lo => failIf b 1 0 (fieldOff w lo)
  f (a.cut = 5 || a.cut = 6 || (layoutUniform l && a.cut ≠ 7)) 61 ++
  f (a.fold = 5 || a.fold = 6 || (layoutUniform l && a.fold ≠ 7)) 58 ++
  f (a.len = 0 || decide (64 < a.len) ||
    (if s.boot.slotValid then a.len ≠ s.boot.slot.lens.getD i 0 else a.len ≠ 1) ||
    (!layoutUniform l && decide (a.cut < 5) && a.foldLen ≠ 0 && layoutLog l a.cut ≠ a.len / a.foldLen)) 51 ++
  f (a.foldLen = 0 || decide (64 < a.foldLen) || (a.fold = 7 && a.foldLen ≠ 1) || (a.foldLen ≠ 0 && a.len % a.foldLen ≠ 0) ||
    (!layoutUniform l && decide (a.fold < 5) && layoutLog l a.fold ≠ a.foldLen)) 44 ++
  f (decide (16 < a.k) || (a.len = 1 && a.k ≠ 0)) 39 ++ rsvd l 1 0 w 38 32 ++
  f (popCount a.mask ≠ 2 * a.k || (a.mask &&& used) ≠ 0 || s.miswired l a) 0

/-- Checks of an axis word that no axis uses: its fields lie in their ranges and no code is reserved (R225). -/
def idleAxisFails (l : Rec) (i : Nat) : List Fail :=
  let a := layoutAxis l i
  let w := i + 1
  let f := fun b lo => failIf b 1 0 (fieldOff w lo)
  f (a.cut = 5 || a.cut = 6 || (layoutUniform l && a.cut ≠ 7)) 61 ++ f (a.fold = 5 || a.fold = 6 || (layoutUniform l && a.fold ≠ 7)) 58 ++
  f (a.len = 0 || decide (64 < a.len)) 51 ++ f (a.foldLen = 0 || decide (64 < a.foldLen)) 44 ++ f (decide (16 < a.k)) 39 ++ rsvd l 1 0 w 38 32

def layoutFails (s : State) (l : Rec) : List Fail :=
  let n := l.field 0 62 60
  rsvd l 1 0 0 59 43 ++ rsvd l 1 0 0 31 0 ++
  failIf (n = 0 || decide (5 < n) || (s.boot.slotValid && n ≠ s.boot.slot.naxes) ||
    decide (32 < (layoutAxes l).foldl (fun t a => t + 2 * a.k) 0)) 1 0 7 ++
  failIf (decide (1024 < layoutSpares l)) 1 0 4 ++
  (List.range (min 5 n)).flatMap (fun i =>
    axisFails s l i (((layoutAxes l).take i).foldl (fun m a => m ||| a.mask) 0)) ++
  ((List.range 5).drop n).flatMap (idleAxisFails l) ++
  failIf (layoutH l = 0 || decide (64 < layoutH l) || layoutLog l 0 % max 1 (layoutH l) ≠ 0) 1 0 (fieldOff 6 57) ++
  (List.range 5).flatMap (fun k =>
    failIf (layoutLog l k = 0 || decide (64 < layoutLog l k) ||
      (!layoutUniform l && decide (1 < layoutLog l k) && carries l k ≠ 1)) 1 0 (fieldOff 6 (50 - 7 * k))) ++
  rsvd l 1 0 6 21 0 ++ rsvd l 1 0 7 63 48 ++
  failIf ((layoutUniform l && l.field 7 47 0 = 0) || (!layoutUniform l && l.field 7 47 0 ≠ 0)) 1 0 (fieldOff 7 0)

/-- The rank table: each position at most once, [15] reserved (R229, reported at RANK_BASE). -/
def rankFails (m : Mem) (c : Ctx) (l : Rec) : List Fail :=
  if !layoutUniform l then [] else
  let n := layoutLog l 0 * layoutLog l 1 * layoutLog l 2 * layoutLog l 3 * layoutLog l 4
  let a := l.field 7 47 0
  failIf (!c.covers a (2 * n) || (let t := rankTable m l
    t.any (fun p => decide (layoutProduct l ≤ p)) || !(decide t.Nodup))) 1 0 (fieldOff 7 0)

/-! ### The Placement Record (R231, R232, R238 to R241) -/

/-- A stage table entry: first layer, last layer, stage, virtual stage. -/
def stageOf (w : W64) : Nat × Nat × Nat × Nat := (fieldOf w 63 50, fieldOf w 49 36, fieldOf w 35 30, fieldOf w 29 26)
/-- Stage entries that cover a layer. -/
def coversLayer (ss : List W64) (layer : Nat) : List W64 := ss.filter fun w => let e := stageOf w; decide (e.1 ≤ layer) && decide (layer ≤ e.2.1)

def placementFails (c : Ctx) (p : Program) : List Fail :=
  let r := p.placement
  let sched := r.field 0 63 62
  let v := r.field 0 61 58
  let nStage := r.field 2 63 32
  let es := p.stages.map stageOf
  let stageBad := p.stages.any (fun w => fieldOf w 25 0 ≠ 0) || es.any (fun e => decide (e.2.1 < e.1)) ||
    es.any (fun e => decide (layoutLog p.layout 1 ≤ e.2.2.1) || decide (v < e.2.2.2)) ||
    (es.zipIdx.any fun a => es.zipIdx.any fun b => decide (a.2 < b.2) && decide (a.1.1 ≤ b.1.2.1) && decide (b.1.1 ≤ a.1.2.1))
  failIf (sched = 3) 2 0 7 ++ failIf (v ≠ 0 && sched ≠ 2) 2 0 (fieldOff 0 58) ++
  failIf (r.field 0 51 48 = 0 || decide (8 < r.field 0 51 48)) 2 0 6 ++
  failIf (decide (r.field 0 47 32 < 16) || decide (8192 < r.field 0 47 32)) 2 0 4 ++ rsvd r 2 0 0 31 0 ++ rsvd r 2 0 1 63 48 ++
  failIf (!c.covers (r.field 1 47 0) (8 * nStage) || stageBad) 2 0 8 ++
  failIf (nStage = 0 || decide (16384 < nStage) ||
    (List.range (layoutLog p.layout 1)).any fun st => (List.range (v + 1)).any fun vs =>
      !(es.any fun e => e.2.2.1 = st && e.2.2.2 = vs)) 2 0 0x14 ++
  rsvd r 2 0 3 63 48 ++ rsvd r 2 0 4 63 48 ++ (List.range 3).flatMap (fun i => rsvd r 2 0 (5 + i) 63 0)

/-- The shard map (R238, R239), reported at SHARD_BASE. -/
def shardFails (c : Ctx) (p : Program) : List Fail :=
  let r := p.placement
  let n := r.field 2 31 0
  let bad := p.shardMap.any (fun e =>
    e.field 0 37 32 ≥ layoutH p.layout || e.field 1 63 32 = 0 || e.field 1 31 0 ≠ 0 ||
    match p.layers.find? fun u => uLayer u = e.field 0 63 50 && uExpert u = e.field 0 49 38 with
    | none => true
    | some u => decide (blockCount p.stats u < e.field 0 31 0 + e.field 1 63 32))
  let twice := p.shardMap.zipIdx.any fun a => p.shardMap.zipIdx.any fun b =>
    decide (a.2 < b.2) && a.1.field 0 63 38 = b.1.field 0 63 38 &&
    decide (a.1.field 0 31 0 < b.1.field 0 31 0 + b.1.field 1 63 32) && decide (b.1.field 0 31 0 < a.1.field 0 31 0 + a.1.field 1 63 32)
  failIf (decide (n ≤ 65536) && (!c.covers (r.field 3 47 0) (16 * n) || bad || twice)) 2 0 (fieldOff 3 0)

/-- A DEST that names no holder seen from E coordinate 0: in native layout a position with another coordinate than E not 0, in Uniform mode a
rank with another coordinate than E not 0 (R241). -/
def badDest (l : Rec) (dest : Nat) : Bool :=
  if layoutUniform l then decide (dest % max 1 (layoutLog l 4) ≠ 0) || decide (layoutLog l 3 ≤ dest / max 1 (layoutLog l 4))
  else decide (layoutProduct l ≤ dest) || ((coordsOf (layoutAxes l) dest).zip (layoutAxes l)).any fun x =>
    decide ((if x.2.fold = 3 then x.1 / max 1 x.2.foldLen else if x.2.cut = 3 then x.1 % max 1 x.2.foldLen else x.1) ≠ 0)

/-- The Expert Table (R240, R241), reported at EXPERT_BASE. -/
def expertFails (c : Ctx) (p : Program) : List Fail :=
  let a := p.placement.field 4 47 0
  failIf (a ≠ 0 && (!c.covers a 16384 ||
    (p.experts.zipIdx.any fun e => (fieldOf e.1 30 28 ≠ 0 || fieldOf e.1 15 15 ≠ 0 || (e.2 = 4095 && e.1 ≠ 0)) ||
      (fieldOf e.1 31 31 = 1 && (fieldOf e.1 27 16 = 4095 || badDest p.layout (fieldOf e.1 14 0)))))) 2 0 (fieldOff 4 0)

/-- Leading VALID entries of the Expert Table. -/
def expertLead (p : Program) : Nat := (p.experts.takeWhile fun e => fieldOf e 31 31 = 1).length

/-! ### Update structures (R196 to R198) -/

/-- An FP32 field lies between two FP32 codes. -/
def f32in (lo hi w : W32) : Bool := !f32isNan w && f32le lo w && f32le w hi

def updateFails (c : Ctx) (p : Program) : List Fail :=
  let r := p.update
  let eta := r.field 1 47 0
  failIf (r.field 0 61 60 = 3) 3 0 (fieldOff 0 60) ++ failIf (decide (8 < r.field 0 59 56)) 3 0 7 ++ rsvd r 3 0 0 54 48 ++
  failIf (decide (r.field 0 47 32 < 16) || decide (512 < r.field 0 47 32)) 3 0 4 ++ failIf (decide (4096 < r.field 0 31 16)) 3 0 2 ++
  rsvd r 3 0 0 15 0 ++ rsvd r 3 0 1 63 48 ++
  failIf (eta ≠ 0 && !c.covers eta (4 * r.field 2 63 32)) 3 0 8 ++
  failIf (r.field 2 63 32 = 0 || decide (2 ^ 20 < r.field 2 63 32)) 3 0 0x14 ++ rsvd r 3 0 2 31 0 ++ rsvd r 3 0 3 63 0

/-- The loaded program with the module's shard index. -/
structure Plan where
  p  : Program
  me : Nat

def Plan.owned (q : Plan) (u : Rec) : Nat := ownedElems q.p.layout q.p.stats q.p.shardMap q.me u

/-- Masters and moments of a shard, in bytes (R194). -/
def Plan.shardBytes (q : Plan) (u : Rec) (r : Nat × Nat) : Nat :=
  runElems q.p.stats u r.1 r.2 * (if uMode u = 3 then 4 else 4 + 2 * momentBytes q.p.update)

def layerFails (c : Ctx) (q : Plan) (u : Rec) (i : Nat) : List Fail :=
  let f := fun b w lo => failIf b 4 i (fieldOff w lo)
  let n := q.owned u
  let up := q.p.update
  let covered := (coversLayer q.p.stages (uLayer u)).length = 1
  let runs := layerRuns q.p.layout q.p.stats q.p.shardMap u
  f (!covered || (List.range (blockCount q.p.stats u)).any (fun b => !(runs.any fun r => decide (r.2.1 ≤ b) && decide (b < r.2.1 + r.2.2)))) 0 50 ++
  f ((q.p.layers.take i).any fun v => uLayer v = uLayer u && uExpert v = uExpert u) 0 38 ++
  f (uPre u && (statFor q.p.stats (uLayer u) (uExpert u)).isNone) 0 36 ++ rsvd u 4 i 0 26 0 ++
  f (!f32in 0 0x3F800000 (u.field 1 31 0)) 1 0 ++
  f (!f32in 0 0x3F7FFFEF (u.field 2 63 32)) 2 32 ++ f (!f32in 0x3F000000 0x3F7FFFEF (u.field 2 31 0)) 2 0 ++
  f (!f32in 0x2B800000 0x3D800000 (u.field 3 63 32)) 3 32 ++ f (!f32in 0x00000001 0x7F7FFFFF (u.field 3 31 0)) 3 0 ++
  (List.range 4).flatMap (fun k => rsvd u 4 i (4 + k) 63 48) ++
  f (uMaster u % 4096 ≠ 0 || !c.coversHbm (uMaster u) (4 * n)) 4 0 ++
  f (if uMode u = 3 then uMoment u ≠ 0 && uMoment u % 4096 ≠ 0
     else uMoment u = 0 || uMoment u % 4096 ≠ 0 || !c.coversHbm (uMoment u) (2 * momentBytes up * n)) 5 0 ++
  f (uWc u % wcBytes up ≠ 0 || !c.covers (uWc u) (2 * wcBytes up * n)) 6 0 ++
  f (uAcc u = 0 || uAcc u % 4096 ≠ 0 || !c.coversHbm (uAcc u) (4 * layerElems q.p.stats u)) 7 0

/-- A shard above UNDO_MIB (R194). -/
def undoFails (q : Plan) : List Fail :=
  failIf (q.p.layers.any fun u => (ownedRuns q.p.layout q.p.stats q.p.shardMap q.me u).any fun r =>
    decide (q.p.update.field 0 47 32 * 2 ^ 20 < q.shardBytes u r)) 3 0 4

/-! ### Statistics (R129) -/

def inReservoir (a n : Nat) : Bool := decide (reservoirBase ≤ a) && decide (a + n ≤ reservoirEnd)

/-- A permutation table: in the context's memory and a permutation of 0 to d − 1. -/
def badPerm (m : Mem) (c : Ctx) (a d : Nat) : Bool :=
  a ≠ 0 && (!c.covers a (4 * d) || a % 4 ≠ 0 ||
    let ws := (m.words32 a d).map (·.toNat)
    ws.any (fun w => decide (d ≤ w)) || !(decide ws.Nodup))

def statFails (m : Mem) (c : Ctx) (p : Program) (d : Rec) (i : Nat) : List Fail :=
  let f := fun b w lo => failIf b 5 i (fieldOff w lo)
  let expertLayer := p.layers.any fun u => uLayer u = uLayer d && uExpert u ≠ 0xFFF
  let grad := sGrad d
  let act := fun b w lo => f (grad && b) w lo
  let storage := 2 * sFactorBytes d
  let bad2 := decide (4 < d.field 0 33 31) || decide (4 < d.field 0 30 28)
  let exp := fun x => decide (64 ≤ x) && decide (x < 192)
  f (!(p.layers.any fun u => uLayer u = uLayer d && uExpert u = uExpert d && uPre u)) 0 50 ++
  f (((p.stats.take i).any fun e => uLayer e = uLayer d && uExpert e = uExpert d) || (expertLayer && uExpert d = 0xFFF)) 0 38 ++
  f (decide (6 < sSub d) || (grad && sSub d ≠ 0)) 0 34 ++ f (decide (4 < d.field 0 33 31)) 0 31 ++ f (decide (4 < d.field 0 30 28)) 0 28 ++
  f (sWarmup d = 0) 0 20 ++ act (d.field 0 19 16 ≠ 3) 0 16 ++ act (d.field 0 15 10 ≠ 0) 0 10 ++ act (d.field 0 9 9 ≠ 0) 0 9 ++
  act (d.field 0 8 8 ≠ 0) 0 8 ++ rsvd d 5 i 0 7 0 ++
  f (sDim d 0 = 0 || (grad && !bad2 && decide (65535 < sBlocks d 0))) 1 40 ++
  f (sDim d 1 = 0 || (grad && !bad2 && decide (65535 < sBlocks d 1))) 1 16 ++
  f (exp (d.field 1 15 8) || (grad && d.field 1 15 8 ≠ 0)) 1 8 ++ f (exp (d.field 1 7 0) || (grad && d.field 1 7 0 ≠ 0)) 1 0 ++
  f (!f32in 0 0x3F7FFFEF (d.field 2 63 32)) 2 32 ++ f (!f32in 0 0x3D800000 (d.field 2 31 0)) 2 0 ++
  (List.range 3).flatMap (fun k => rsvd d 5 i (3 + k) 63 48) ++ rsvd d 5 i 7 63 48 ++
  f (sFactor d % 4096 ≠ 0 || (!bad2 && !c.covers (sFactor d) storage)) 3 0 ++
  f (if grad then sSum d ≠ 0
     else sSum d % 4096 ≠ 0 || (!bad2 && !(inReservoir (sSum d) (sumBytes d) || c.covers (sSum d) (sumBytes d)))) 4 0 ++
  f (if grad then sStage d ≠ 0 else sStage d % 4096 ≠ 0 || !inReservoir (sStage d) (stageBytes d)) 5 0 ++
  act (d.field 6 63 48 ≠ 0) 6 48 ++ f (badPerm m c (sPerm d 0) (sDim d 0)) 6 0 ++ f (badPerm m c (sPerm d 1) (sDim d 1)) 7 0

/-- Owned update blocks of the module, in shard order: descriptor, block. -/
def Plan.ownedBlocks (q : Plan) : List (Rec × Nat) :=
  q.p.layers.flatMap fun u => (ownedRuns q.p.layout q.p.stats q.p.shardMap q.me u).flatMap fun r =>
    (List.range r.2).map fun i => (u, r.1 + i)

/-- Regions of the state image of a block (R390). -/
def Plan.blockRegions (q : Plan) (u : Rec) (b : Nat) : Nat :=
  (blockElems q.p.stats u b * (4 + (if uMode u = 3 then 0 else 2 * momentBytes q.p.update)) + 2 ^ 20 - 1) / 2 ^ 20
def Plan.regions (q : Plan) : Nat := q.ownedBlocks.foldl (fun t x => t + q.blockRegions x.1 x.2) 0
/-- Bytes of the digest area (R375). -/
def Plan.digestBytes (q : Plan) : Nat := (8192 + 32 * q.regions + 2 ^ 20 + 4095) / 4096 * 4096

/-! ### State buffers (R198) -/

/-- Every state buffer of the context, with the field that names it: (KIND, ITEM, OFFSET), base, bytes. -/
def Plan.buffers (q : Plan) : List (Fail × Nat × Nat) :=
  let p := q.p
  let eta := p.update.field 1 47 0
  (if eta = 0 then [] else [((3, 0, 8), eta, 4 * p.update.field 2 63 32)]) ++
  (p.layers.zipIdx.flatMap fun x =>
    let u := x.1
    let n := q.owned u
    [((4, x.2, 0x20), uMaster u, 4 * n), ((4, x.2, 0x28), uMoment u, if uMode u = 3 then 0 else 2 * momentBytes p.update * n),
     ((4, x.2, 0x30), uWc u, 2 * wcBytes p.update * n), ((4, x.2, 0x38), uAcc u, 4 * layerElems p.stats u)]) ++
  (p.stats.zipIdx.flatMap fun x =>
    [((5, x.2, 0x18), sFactor x.1, 2 * sFactorBytes x.1), ((5, x.2, 0x20), sSum x.1, sumBytes x.1),
     ((5, x.2, 0x28), sStage x.1, stageBytes x.1)]) ++
  (match p.recovery with
   | some r => [((11, 0, 0x08), r.field 1 47 0, if r.field 0 63 63 = 1 then r.field 2 47 0 else 0),
                ((11, 0, 0x18), r.field 3 47 0, if r.field 3 47 0 = 0 then 0 else q.digestBytes)]
   | none => [])

/-- An overlap is reported at the first of the two fields (R339). -/
def overlapFails (bs : List (Fail × Nat × Nat)) : List Fail :=
  bs.zipIdx.flatMap fun a => if bs.zipIdx.any fun b =>
      decide (a.2 ≠ b.2) && decide (0 < a.1.2.2) && decide (0 < b.1.2.2) && overlaps a.1.2.1 a.1.2.2 b.1.2.1 b.1.2.2
    then [a.1.1] else []

/-! ### The Root Parameter Record (R167, R175) -/

def rootFails (r : Rec) : List Fail :=
  let f := fun b w lo => failIf b 6 0 (fieldOff w lo)
  f (r.field 0 63 62 = 0) 0 62 ++ f (decide (r.field 0 60 55 < 12) || decide (48 < r.field 0 60 55)) 0 55 ++
  f (decide (r.field 0 54 50 < 2) || decide (24 < r.field 0 54 50)) 0 50 ++ f (r.field 0 39 24 = 0) 0 24 ++ rsvd r 6 0 0 23 0 ++
  f (!f32in 0x31800000 0x3D800000 (r.field 1 63 32)) 1 32 ++
  f (r.field 1 31 0 ≠ 0 && !f32in 0x30800000 0x3A800000 (r.field 1 31 0)) 1 0 ++
  f (!f32in 0x33800000 0x3F000000 (r.field 2 63 32)) 2 32 ++ f (!f32in 0x35800000 0x3F800000 (r.field 2 31 0)) 2 0 ++ rsvd r 6 0 3 63 0

/-! ### Grids, fences, leases, Cistern map -/

def fenceIndex (w : W64) : Nat := fieldOf w 63 50

/-- Group entries that a load creates, in order (R273): cut, and whether it is the replica ring. -/
def groupCuts (l : Rec) : List (Nat × Bool) :=
  [(0, false)] ++ (if layoutH l < layoutLog l 0 then [(0, true)] else []) ++ [(2, false), (3, false), (4, false)]

/-- What the task checks need of the program. -/
structure TaskEnv where
  held   : List Nat
  leases : List W64
  taps   : List TapInfo
  groups : List Nat
  lead   : Nat
  peers  : Nat

/-- One task record (R341), by its grid's kind. -/
def badTask (m : Mem) (c : Ctx) (v : TaskEnv) (g t : Rec) : Bool :=
  let wait := t.field 0 59 59 = 1
  let sig := t.field 0 58 58 = 1
  let none8 := fun (ks : List Nat) => ks.any fun k => t.word k ≠ 0
  t.field 0 63 60 ≠ g.field 0 63 60 || t.field 0 57 56 ≠ 0 || (wait && !v.held.contains (t.field 0 55 42)) ||
  (sig && !v.held.contains (t.field 0 41 28)) || (g.field 0 63 60 ≠ 0 && (t.field 0 27 0 ≠ 0 || t.field 7 63 32 ≠ 0)) ||
  match gridKind (g.field 0 63 60) with
  | none => true
  | some .mxa => badMxa m c g t v.leases v.taps ||
    -- a TOPK task that an MXA task names routes among as many experts as the tile has written columns (R240)
    ((taskCtl t).fin && (m.vx (t.field 6 47 0)).kind = 2 && decide (v.lead < (taskCtl t).cols))
  | some .vxu =>
    let a := t.field 1 47 0
    t.field 1 63 48 ≠ 0 || none8 [2, 3, 4, 5, 6] || a % 64 ≠ 0 || !c.covers a 768 ||
    (m.vx a).bad (m.record a 96) c none || ((m.vx a).kind = 2 && (decide (v.lead < ((m.vx a).src 0).e 0) || decide (4095 < ((m.vx a).src 0).e 0)))
  | some .copy => t.field 1 63 48 ≠ 0 || none8 [2, 3, 4, 5, 6] || badCopy m c (t.field 1 47 0)
  | some .coll =>
    let src := m.tensor (t.field 1 47 0)
    let dst := m.tensor (t.field 2 47 0)
    let op := t.field 1 51 48
    !v.groups.contains (t.field 1 63 52) || decide (3 < op) || t.field 2 63 48 ≠ 0 || none8 [3, 4, 5, 6] ||
    !c.covers (t.field 1 47 0) 64 || !c.covers (t.field 2 47 0) 64 || src.badForm false || dst.badForm true ||
    !c.coversTensor src src.ext || !c.coversTensor dst dst.ext || ((op = 0 || op = 2) && (src.fmt ≠ 0 || dst.fmt ≠ 0)) ||
    src.fmt = 0xB
  | some .xfer =>
    let src := m.tensor (t.field 1 47 0)
    t.field 1 63 63 ≠ 0 || t.field 2 63 48 ≠ 0 || t.field 3 48 0 ≠ 0 || none8 [4, 5, 6] || !c.covers (t.field 1 47 0) 64 ||
    src.badForm false || !c.coversTensor src src.ext || decide (v.peers ≤ t.field 1 62 48)
  | some .fence => none8 [1, 2, 3, 4, 5, 6]

def gridFails (m : Mem) (c : Ctx) (v : TaskEnv) (g : Rec) (i : Nat) : List Fail :=
  let f := fun b w lo => failIf b 7 i (fieldOff w lo)
  let k := g.field 0 63 60
  let a := m.tensor (gridArgA g)
  let b := m.tensor (gridArgB g)
  f (decide (5 < k)) 0 60 ++ f (g.field 0 59 59 = 1 && !v.held.contains (g.field 0 57 44)) 0 44 ++
  f (g.field 0 58 58 = 1 && !v.held.contains (g.field 0 43 30)) 0 30 ++ rsvd g 7 i 0 29 24 ++ rsvd g 7 i 1 31 0 ++
  rsvd g 7 i 2 63 48 ++ rsvd g 7 i 3 63 48 ++ rsvd g 7 i 4 63 48 ++ (List.range 3).flatMap (fun x => rsvd g 7 i (5 + x) 63 0) ++
  f (!c.covers (gridBase g) (64 * gridTasks g) || (List.range (gridTasks g)).any fun t => badTask m c v g (m.task g t)) 2 0 ++
  f (if k = 0 then !c.covers (gridArgA g) 64 || badOperand c a else gridArgA g ≠ 0) 3 0 ++
  f (if k = 0 then !c.covers (gridArgB g) 64 || badOperand c b else gridArgB g ≠ 0) 4 0

def fenceFails (fs : List W64) : List Fail :=
  fs.zipIdx.flatMap fun f => failIf (((fs.take f.2).any fun g => fenceIndex g = fenceIndex f.1) ) 8 f.2 6 ++
    failIf (fieldOf f.1 48 48 ≠ 0) 8 f.2 6

def leaseFails (ls : List W64) : List Fail :=
  ls.zipIdx.flatMap fun l =>
    let a := leaseOf l.1
    failIf (decide (3072 < a.1 + a.2.1) || (ls.take l.2).any fun k => overlaps a.1 a.2.1 (leaseOf k).1 (leaseOf k).2.1) 9 l.2 6 ++
    failIf (fieldOf l.1 46 0 ≠ 0) 9 l.2 0

/-- A Cistern map entry names an owned shard (R355). -/
def cisternFails (q : Plan) : List Fail :=
  q.p.cistern.zipIdx.flatMap fun e =>
    let u := q.p.layers.find? fun u => uLayer u = e.1.field 0 63 50 && uExpert u = e.1.field 0 49 38
    rsvd e.1 10 e.2 0 37 32 ++
    failIf (match u with
      | none => true
      | some u => !((ownedRuns q.p.layout q.p.stats q.p.shardMap q.me u).any fun r => r.1 = e.1.field 0 31 0)) 10 e.2 0

/-! ### The Recovery Record (R375 to R377) -/

/-- Protected bytes of an update block: master, moments, both working copies (R377). -/
def Plan.protectedBytes (q : Plan) (u : Rec) (b : Nat) : Nat :=
  blockElems q.p.stats u b * (4 + (if uMode u = 3 then 0 else 2 * momentBytes q.p.update) + 2 * wcBytes q.p.update)

/-- Environment of the task checks. -/
def State.taskEnv (s : State) (p : Program) : TaskEnv :=
  let free := (List.range 4096).filter fun i => (Tab.find? s.fabric.groups i).isNone
  { held := p.fences.map fenceIndex, leases := p.leases
    taps := p.stats.map fun d => { layer := uLayer d, isAct := !sGrad d, aWeir := d.field 0 9 9 = 1, gWeir := d.field 0 8 8 = 1 }
    groups := free.take (groupCuts p.layout).length, lead := expertLead p
    peers := layoutProduct p.layout }

/-- The Recovery Record's refusals (R376). -/
def recoveryFails (c : Ctx) (q : Plan) : List Fail :=
  let l := q.p.layout
  match q.p.recovery with
  | none => failIf (layoutH l < layoutLog l 0) 11 0xFFFFFFFF 0
  | some r =>
    let f := fun b w lo => failIf b 11 0 (fieldOff w lo)
    let pg := r.field 0 63 63 = 1
    let g := r.field 0 59 55
    let slot := r.field 0 35 20 * 4096
    let others := q.buffers.filter fun b => decide (b.1.1 < 11)
    let hits := fun a n => decide (0 < n) && (!c.covers a n || others.any fun b => decide (0 < b.2.2) && overlaps a n b.2.1 b.2.2)
    f (pg && decide (l.field 0 62 60 ≤ r.field 0 62 60)) 0 60 ++
    f (decide (g < 4) || decide (16 < g) || (pg && (layoutAxis l (r.field 0 62 60)).len % max 1 g ≠ 0)) 0 55 ++
    f (decide (1024 < r.field 0 54 44)) 0 44 ++ f (r.field 0 43 36 = 0) 0 36 ++
    f (pg && (slot = 0 || q.ownedBlocks.any fun x => decide (slot < q.protectedBytes x.1 x.2))) 0 20 ++ rsvd r 11 0 0 19 0 ++
    rsvd r 11 0 1 63 48 ++ f (pg && (r.field 1 47 0 % 4096 ≠ 0 || hits (r.field 1 47 0) (r.field 2 47 0))) 1 0 ++ rsvd r 11 0 2 63 48 ++
    f (pg && decide (r.field 2 47 0 < ((q.ownedBlocks.length + g - 2) / max 1 (g - 1) + 2 * (g - 1)) * slot)) 2 0 ++
    rsvd r 11 0 3 63 48 ++
    f (r.field 3 47 0 % 4096 ≠ 0 || (r.field 3 47 0 = 0 && (pg || layoutH l < layoutLog l 0)) ||
      (r.field 3 47 0 ≠ 0 && hits (r.field 3 47 0) q.digestBytes)) 3 0

/-- The module's shard index in a layout (R235). -/
def State.shardIndex (s : State) (l : Rec) : Nat := cutCoord s.mem l s.fabric.position.toNat 0 % max 1 (layoutH l)

/-- Position of member `k` of a cut's group, seen from this module. -/
def State.cutMember (s : State) (l : Rec) (cut : Nat × Bool) (k : Nat) : Nat :=
  let me := s.fabric.position.toNat
  if cut.1 = 0 then
    let h := max 1 (layoutH l)
    let d := cutCoord s.mem l me 0
    withCut s.mem l me 0 (if cut.2 then k * h + d % h else d / h * h + k)
  else withCut s.mem l me cut.1 k

/-- The table of owners' signals in which every owner has signalled step `r` of every layer. -/
def State.ownersAt (s : State) (q : Plan) (r : Nat) : Tab Nat :=
  (q.p.layers.flatMap fun u => (List.range (layoutH q.p.layout)).map fun o => uLayer u * 2 ^ 15 + s.cutMember q.p.layout (0, false) o).foldl
    (fun t k => Tab.put t k r) []

/-- Every format check of a load. A failure of the directory stands before those of its structures, which are then not read
(R338, R339). -/
def State.formatFails (s : State) (c : Ctx) (p : Program) : List Fail :=
  let df := p.dir.zipIdx.flatMap fun e => dirFails c ((p.dir.take e.2).map dirKind) e.1 e.2
  if !df.isEmpty then df else
  let q : Plan := ⟨p, s.shardIndex p.layout⟩
  let has := fun k => p.dir.any fun e => dirKind e = k
  let v := s.taskEnv p
  let c := if (p.stats.any fun d => !sGrad d) then
      { c with regions := c.regions ++ p.stats.map fun d => (0, sStage d, stageBytes d) } else c
  missingFails p.dir ++
  (if has 1 then layoutFails s p.layout ++ rankFails s.mem c p.layout else []) ++
  (if has 2 then placementFails c p ++ shardFails c p ++ expertFails c p else []) ++
  (if has 3 then updateFails c p ++ undoFails q else []) ++
  p.layers.zipIdx.flatMap (fun u => layerFails c q u.1 u.2) ++
  p.stats.zipIdx.flatMap (fun d => statFails s.mem c p d.1 d.2) ++
  (if p.hasRoot then rootFails p.root else []) ++
  p.grids.zipIdx.flatMap (fun g => gridFails s.mem c v g.1 g.2) ++
  fenceFails p.fences ++ leaseFails p.leases ++ cisternFails q ++ recoveryFails c q ++ overlapFails q.buffers

/-- The loaded program of a context with the module's shard index. -/
def State.plan (s : State) (c : Nat) : Option Plan := (s.ctx c).program.map fun p => ⟨p, s.shardIndex p.layout⟩

/-! ### What the host may reach of a loaded program (R27, R199, R243, R354) -/

/-- Master copies, moments, factor storage and root buffers of a context (R354). -/
def State.stateRanges (s : State) (c : Nat) : List (Nat × Nat) :=
  match s.plan c with
  | none => []
  | some q => (q.buffers.filter fun b => (b.1.1 = 4 && (b.1.2.2 = 0x20 || b.1.2.2 = 0x28)) || (b.1.1 = 5 && b.1.2.2 = 0x18)).map fun b => (b.2.1, b.2.2)

/-- The Expert Table of a program, which changes only while the context is held (R243). -/
def Program.expertRange (p : Program) : Nat × Nat := (p.placement.field 4 47 0, 4 * p.experts.length)

/-- The Update Context Record, the Update Layer Descriptors and the schedule table (R199). -/
def Program.updateRanges (p : Program) : List (Nat × Nat) :=
  ((List.filter (fun (e : Rec) => dirKind e = 3 || dirKind e = 4) p.dir).map fun e => (Machine.dirAddr e, kindSize (dirKind e) * dirCount e)) ++
  if p.update.field 1 47 0 = 0 then [] else [(p.update.field 1 47 0, 4 * p.update.field 2 63 32)]

/-- A host access is refused with BUSY: state of a context that is not HELD, or for reads FAULTED (R27, R354); a write to the Expert Table of
one that is not HELD (R243); and a write to the update records of one that is not HELD in normal service (R199). -/
def State.stateBusy (s : State) (c a n : Nat) (reads : Bool) : Bool :=
  let x := s.ctx c
  let hits := fun (rs : List (Nat × Nat)) => rs.any fun r => overlaps a n r.1 r.2
  (x.state ≠ .held && !(reads && x.state = .faulted) && hits (s.stateRanges c)) ||
  (!reads && x.state ≠ .held && x.program.any fun p => hits [p.expertRange]) ||
  (!reads && !(x.state = .held && x.service = .normal) && x.program.any fun p => hits p.updateRanges)

end Sys2Proof.Machine
end

