-- ==== Sys2Proof/Machine/Send.lean ====
section
/-!
DEFINITION. Sending over the fabric: routes and virtual channels (R264, R265), an output port (R256 to R259, R266), transmit
streams (R261, R262), messages, and the members of a context's groups (R227, R229, R235, R273).
-/
namespace Sys2Proof.Machine

open Sys2Proof

/-! ### Routes (R264, R265, R281) -/

/-- The layout that loaded programs share (R225): that of the lowest-numbered context with one. -/
def State.layout? (s : State) : Option Rec := s.ctxs.findSome? fun e => e.2.program.map fun p => p.layout

/-- A path of `k` hops from coordinate `x` crosses a link that is down. -/
def State.pathDown (s : State) (axis n x k : Nat) (plus : Bool) : Bool :=
  (List.range k).any fun i => s.fabric.detours.contains (axis, if plus then (x + i) % n else (x + n - 1 - i % n) % n)

/-- Next hop toward a position: axis, its length, whether +, and the hop's starting coordinate. The shorter way, + when both are
equal; the other way round where that path is down. -/
def State.nextHop (s : State) (l : Rec) (dst : Nat) : Option (Nat × Nat × Bool × Nat) :=
  let as := layoutAxes l
  let here := coordsOf as s.fabric.position.toNat
  ((here.zip (coordsOf as dst)).zipIdx.find? fun x => x.1.1 ≠ x.1.2).map fun x =>
    let n := max 1 (layoutAxis l x.2).len
    let up := (x.1.2 + n - x.1.1) % n
    let plus := decide (up ≤ n - up)
    let plus := if s.pathDown x.2 n x.1.1 (if plus then up else n - up) plus then !plus else plus
    (x.2, n, plus, x.1.1)

/-- Working ports of a direction of an axis, in ascending order. -/
def State.workingPorts (s : State) (l : Rec) (axis : Nat) (plus : Bool) : List Nat :=
  (axisPorts (layoutAxis l axis) plus).filter fun p => (s.port p).state = .up

/-- Axis of a port. -/
def portAxis (l : Rec) (p : Nat) : Option Nat := (layoutAxes l).findIdx? fun a => a.mask.testBit p

/-- A hop from coordinate `x` crosses the dateline of an axis of `n` positions. -/
def crossesDateline (n x : Nat) (plus : Bool) : Bool := decide (3 ≤ n) && (if plus then x + 1 = n else x = 0)

/-- VC of a frame on its next hop: 2c, or 2c + 1 once it has crossed the dateline on the axis. `cur` is the axis and VC it arrived
on, if it was forwarded. -/
def hopVc (cls axis n x : Nat) (plus : Bool) (cur : Option (Nat × Nat)) : Nat :=
  let old := match cur with | some (a, v) => if a = axis then v % 2 else 0 | none => 0
  2 * cls + (if crossesDateline n x plus then 1 else old)

/-- MAC address of port `p` of the module at a position (R251). -/
def macOf (pos p : Nat) : BitVec 48 := 0x024B46#24 ++ 0#4 ++ BitVec.ofNat 15 pos ++ BitVec.ofNat 5 p
def State.portMac (s : State) (p : Nat) : BitVec 48 := macOf s.fabric.position.toNat p

/-- MAC address of the port at the far end of a link: the layout predicts it (R269), or the far end's record names it. Before either it is
a free value (log entry 41). -/
def State.farMac (s : State) (p : Nat) : BitVec 48 :=
  match s.layout?.bind fun l => s.expectedPeer l p with
  | some e => macOf e.1 e.2
  | none =>
    match (s.port p).record with
    | some r => macOf r.position r.port
    | none => 0x024B46#24 ++ s.freeWord.setWidth 24

/-- The Ethernet header of a frame that a port sends (R251, R252). -/
def State.ethHdr (s : State) (p : Nat) : EthHdr := { dst := s.farMac p, src := s.portMac p, etype := s.fabric.etype }

/-! ### An output port -/

/-- Bytes of a frame on the wire: Ethernet and KFT headers, payload, FCS, padded to 64 (R250). -/
def TxFrame.bytes (f : TxFrame) : Nat := max 64 (50 + f.payload.length)
/-- 64-byte credit units (R258). -/
def TxFrame.units (f : TxFrame) : Nat := (f.bytes + 63) / 64

/-- The port's credits leave room for the whole frame in its VC (R259). -/
def Port.hasCredit (x : Port) (f : TxFrame) : Bool :=
  let v := f.vc.toNat
  decide ((x.credits.getD v 0 - BitVec.ofNat 32 (Tab.get 0 x.usedTx v + f.units)).toNat < 2 ^ 31)

/-- The replay buffer of 128 KiB has room (R257). -/
def Port.hasRoom (x : Port) (f : TxFrame) : Bool := decide (x.replay.foldl (fun n g => n + g.bytes) 0 + f.bytes ≤ 131072)

/-- AGE of a frame now: the whole microseconds it has waited at this module are added, saturating (R254, R266). -/
def TxFrame.ageAt (f : TxFrame) (now : Nat) : Nat := min 255 (f.age.toNat + (now - f.since) / 400)

/-- Place of a frame in R266's order: aged frames first, then TC 3, then the classes with quota left. -/
def Port.rank (x : Port) (now : Nat) (f : TxFrame) : Nat :=
  if fieldOf x.arbCfg 19 12 ≤ f.ageAt now then 1024 + f.ageAt now
  else if f.tc = 3 then 512
  else 1 + bit01 (decide (0 < x.quota.getD f.tc.toNat 0))

/-- Place of a frame in the round robin over input port and VC; frames of this module count as one more input port. -/
def TxFrame.turn (f : TxFrame) : Nat := min 32 f.inPort * 6 + f.vc.toNat % 6
def turns : Nat := 198

/-- The first frame waiting on a VC. -/
def Port.head (x : Port) (v : Nat) : Option TxFrame := x.waiting.find? fun f => f.vc.toNat = v

/-- The head of each VC that may be sent. -/
def Port.heads (x : Port) : List TxFrame :=
  (List.range 6).filterMap fun v => (x.head v).bind fun f => if x.hasCredit f && x.hasRoom f then some f else none

/-- The frame that the port sends next: ties go round the input ports and VCs. -/
def Port.choice (x : Port) (now : Nat) : Option TxFrame :=
  let wait := fun (f : TxFrame) => (f.turn + turns - x.turn % turns) % turns
  x.heads.foldl (fun best f =>
    match best with
    | none => some f
    | some g => if x.rank now g < x.rank now f || (x.rank now g = x.rank now f && wait f < wait g) then some f else some g) none

/-- Weights of ARB_CFG. -/
def Port.weights (x : Port) : List Nat := [fieldOf x.arbCfg 3 0, fieldOf x.arbCfg 7 4, fieldOf x.arbCfg 11 8]

/-- Charge a frame to the weighted round robin, and pass the turn on. -/
def Port.charge (x : Port) (f : TxFrame) : Port :=
  let x := { x with turn := (f.turn + 1) % turns }
  if f.tc = 3 then x else
  let q := if x.quota.getD f.tc.toNat 0 = 0 then x.weights else x.quota
  { x with quota := q.modify f.tc.toNat (· - 1) }

/-- Space in a VC buffer is free again: credit is owed (R258, R259). -/
def State.freeUnitsAt (s : State) (p vc units : Nat) : State :=
  s.onPort p fun x => { x with freed := Tab.modify 0 x.freed vc (· + units), ackOwed := true }

/-- A frame leaves the buffer of the port it arrived on. -/
def State.leaveBuffer (s : State) (f : TxFrame) : State :=
  match f.held with
  | some (v, n) => s.freeUnitsAt f.inPort v n
  | none => s

/-- Ports carry link frames only in SLEEP (R416). -/
def State.carriesFrames (s : State) : Bool := s.power.pwState ≠ .sleep && s.power.pwState ≠ .deepSleep

/-- Send what the port may send: HOP_SEQ is assigned, HOP_ACK returned, AGE takes the wait here, and the frame stays in the replay buffer
(R256, R257, R266). Its space in the buffer it arrived in is free then (R259). -/
def State.pumpPort (fuel : Nat) (s : State) (p : Nat) : State :=
  match fuel with
  | 0 => s
  | k + 1 =>
    let x := s.port p
    if x.state ≠ .up || !s.carriesFrames then s else
    match x.choice s.power.ticks with
    | none => s
    | some f =>
      let g := { f with hopSeq := x.hopTx, hopAck := x.hopRx, eth := s.ethHdr p, age := BitVec.ofNat 8 (f.ageAt s.power.ticks), held := none }
      let x := x.charge f
      let s := s.setPort p { x with hopTx := x.hopTx + 1, replay := x.replay ++ [g], waiting := x.waiting.erase f, ackOwed := false
                                    usedTx := Tab.modify 0 x.usedTx f.vc.toNat (· + f.units) }
      let s := ((s.countPort p 0 1).countPort p 2 g.payload.length).emit (.frame (BitVec.ofNat 5 p).toFin g)
      State.pumpPort k (s.leaveBuffer f) p

def State.pumpOut (s : State) (p : Nat) : State := State.pumpPort ((s.port p).waiting.length + 1) s p

/-- STATE of a Peer Table entry (R272). -/
def State.peerState (s : State) (pos : Nat) : Nat := fieldOf (Tab.get 0 s.fabric.peers pos) 63 61
/-- Frames for a position are sent: its entry is neither UNUSED nor FAILED. -/
def State.reachable (s : State) (pos : Nat) : Bool := s.peerState pos ≠ 0 && s.peerState pos ≠ 3

/-- Hand a frame to the output port that its route names. A frame that came in on an axis keeps its dateline channel there; a
ROUTE_UPDATE travels on VC 2 (R281). A direction without a working port holds the frame: nothing is sent. -/
def State.forward (s : State) (f : TxFrame) : Option State :=
  if !s.reachable f.dst.toNat then none else
  match s.layout? with
  | none => none
  | some l =>
    match s.nextHop l f.dst.toNat with
    | none => none
    | some (axis, n, plus, x) =>
      let ps := s.workingPorts l axis plus
      match ps[f.stripe.toNat % max 1 ps.length]? with
      | none => none
      | some p =>
        let cur := (if f.inPort < 32 then portAxis l f.inPort else none).map fun a => (a, f.vc.toNat)
        let vc := if f.op = 0x22 then 2 else hopVc (f.vc.toNat / 2) axis n x plus cur
        let g := { f with vc := BitVec.ofNat 3 vc, since := s.power.ticks }
        some ((s.onPort p fun y => { y with waiting := y.waiting ++ [g] }).pumpOut p)

/-- Forward a frame, or keep it until a way opens; a resend counts in E2E_RETX when it goes out (R262, R272). -/
def State.route (s : State) (x : Parked) : State :=
  match s.forward x.frame with
  | some t => if x.retx then t.countCtx x.frame.context.toNat cE2eRetx 1 else t
  | none => { s with fabric := { s.fabric with parked := s.fabric.parked ++ [x] } }

/-- Try every frame that waits for a way. -/
def State.unpark (s : State) : State := s.fabric.parked.foldl State.route { s with fabric := { s.fabric with parked := [] } }

/-! ### Transmit streams (R261, R262, R272) -/

/-- Classes of R255: DATA, REPLY, COLL. -/
def clsData : Nat := 0
def clsReply : Nat := 1
def clsColl : Nat := 2

def streamId (cls dst : Nat) : Nat := cls * 2 ^ 15 + dst
def State.txStream (s : State) (cls dst : Nat) : TxStream := Tab.get {} s.fabric.tx (streamId cls dst)
def State.setTx (s : State) (cls dst : Nat) (x : TxStream) : State :=
  { s with fabric := { s.fabric with tx := Tab.put s.fabric.tx (streamId cls dst) x } }

/-- Inject the stream's waiting frames while the window of 1,024 and the route allow it. -/
def State.injectFuel (fuel : Nat) (s : State) (cls dst : Nat) : State :=
  match fuel with
  | 0 => s
  | k + 1 =>
    let x := s.txStream cls dst
    match x.pending with
    | [] => s
    | f :: r =>
      if 1024 ≤ x.unacked.length then s else
      match (s.setTx cls dst { x with pending := r, unacked := x.unacked ++ [f] }).forward f with
      | none => s
      | some t => State.injectFuel k t cls dst

def State.inject (s : State) (cls dst : Nat) : State := State.injectFuel ((s.txStream cls dst).pending.length + 1) s cls dst

/-- Send what waits: frames without a way first, resends among them (R286), then the streams' waiting frames. -/
def State.injectAll (s : State) : State :=
  let s := s.unpark
  s.fabric.tx.foldl (fun s e => if e.2.pending.isEmpty then s else s.inject (e.1 / 2 ^ 15) (e.1 % 2 ^ 15)) s

/-- Send a message: its parts (ARG and payload) become frames of one stream, numbered in order (R254, R261). STRIPE is as given, or
the message's (R265). A position that cannot be reached holds the message and raises PEER_UNREACHABLE (R272). -/
def State.sendMessage (s : State) (c dst cls : Nat) (op : Byte) (tc : Nat) (stripe : Option Nat) (parts : List (W64 × List Byte)) : State :=
  let x := s.txStream cls dst
  let me := s.fabric.position
  let st := stripe.getD (me.toNat + dst + x.messages)
  let fs : List TxFrame := parts.zipIdx.map fun y =>
    { op := op, tc := BitVec.ofNat 3 tc, dst := BitVec.ofNat 15 dst, src := me, vc := BitVec.ofNat 3 (2 * cls), first := y.2 = 0
      last := y.2 + 1 = parts.length, seq := x.next + BitVec.ofNat 24 y.2, context := BitVec.ofNat 8 c
      stripe := BitVec.ofNat 4 st, arg := y.1.1, hopSeq := 0, payload := y.1.2 }
  let s := s.setTx cls dst { x with next := x.next + BitVec.ofNat 24 parts.length, pending := x.pending ++ fs, messages := x.messages + 1 }
  let s := s.inject cls dst
  if s.reachable dst then s else s.raise 0x15 (some c) unitModule (BitVec.ofNat 64 dst) 0

/-- A frame of the REPLY class that takes no place in a stream: acknowledgements and route updates (log entry 33). -/
def State.sendControl (s : State) (dst : Nat) (op : Byte) (tc : Nat) (arg : W64) (ack : Option (Nat × BitVec 24)) : State :=
  let me := s.fabric.position
  let f : TxFrame :=
    { op := op, tc := BitVec.ofNat 3 tc, dst := BitVec.ofNat 15 dst, src := me, vc := 2, first := true, last := true, seq := 0, context := 0
      stripe := BitVec.ofNat 4 (me.toNat + dst), arg := arg, hopSeq := 0, payload := [], ackv := ack.isSome
      ackClass := BitVec.ofNat 2 (match ack with | some a => a.1 | none => 0), ackSeq := match ack with | some a => a.2 | none => 0 }
  s.route { frame := f }

/-- Bytes cut into payloads of at most 8,192, with their offsets. -/
def cutFuel (fuel off : Nat) (bs : List Byte) : List (Nat × List Byte) :=
  match fuel with
  | 0 => []
  | k + 1 => if bs.isEmpty then [] else (off, bs.take 8192) :: cutFuel k (off + 8192) (bs.drop 8192)

def cutPayload (bs : List Byte) : List (Nat × List Byte) := if bs.isEmpty then [(0, [])] else cutFuel (bs.length / 8192 + 1) 0 bs

/-! ### Groups -/

/-- The cut that a group of the context rings, with whether it is the replica ring: the load creates them in this order (R273). -/
def State.groupCut (s : State) (c g : Nat) : Option (Nat × Bool) :=
  match (s.ctx c).program with
  | none => none
  | some p =>
    let mine := (s.fabric.groups.filter fun e => e.2.field 0 35 30 = c).map (·.1)
    (mine.zip (groupCuts p.layout)).lookup g

/-- Members of the context's replica group, in ascending D coordinate: their positions. One member where there is none (R127,
R235). -/
def State.replicas (s : State) (c : Nat) : List Nat :=
  match (s.ctx c).program with
  | none => []
  | some p => (List.range (layoutLog p.layout 0 / max 1 (layoutH p.layout))).map fun k => s.cutMember p.layout (0, true) k

end Sys2Proof.Machine
end

