-- ==== Sys2Proof/Machine/Kcp.lean ====
section
/-!
DEFINITION. The Kensyl Command Protocol: the checks of an arriving packet (R324), the order of a session's commands
(R325, R326), the precedence of refusals (R331), the states that accept a command (R336) and replies (R327).
-/
namespace Sys2Proof.Machine

open Sys2Proof

/-- Reply statuses in the order of R331: of several that apply, the first stands. -/
inductive Status where
  | badCrc | authFail | badOpcode | noContext | ctxFaulted | badParam | busy | notReady | clockNotReady | tableFull
  | fenced | timeout | accepted | ok
  deriving DecidableEq, Repr

def Status.code : Status → W16
  | .badCrc => 0x0012
  | .authFail => 0x0040
  | .badOpcode => 0x0010
  | .noContext => 0x0020
  | .ctxFaulted => 0x0021
  | .badParam => 0x0011
  | .busy => 0x0050
  | .notReady => 0x0031
  | .clockNotReady => 0x0032
  | .tableFull => 0x0030
  | .fenced => 0x0060
  | .timeout => 0x0051
  | .accepted => 0x0001
  | .ok => 0x0000

/-- Place of a status in the table of R331. -/
def Status.rank : Status → Nat
  | .badCrc => 0 | .authFail => 1 | .badOpcode => 2 | .noContext => 3 | .ctxFaulted => 4 | .badParam => 5 | .busy => 6
  | .notReady => 7 | .clockNotReady => 8 | .tableFull => 9 | .fenced => 10 | .timeout => 11 | .accepted => 12 | .ok => 13

/-- A check: whether it fails, and the status it then gives. -/
abbrev Check := Bool × Status

/-- The failing check whose status stands highest (R331). -/
def verdict (cs : List Check) : Option Status :=
  cs.foldl (fun r c => if c.1 then
    match r with
    | none => some c.2
    | some t => if c.2.rank < t.rank then some c.2 else some t
    else r) none

/-- Whether a command must name a context (R330). -/
inductive CtxNeed where
  | none | ctx | any
  deriving DecidableEq, Repr

/-- Kinds of command that the rows of R336 tell apart. -/
inductive CmdClass where
  | query          -- queries and telemetry
  | memRead        -- MEM_READ
  | streamRead     -- STREAM_CLOSE, and STREAM_OPEN of a device-to-host stream
  | memory         -- other memory and stream commands
  | fence          -- fence commands
  | stepControl    -- STEP_RUN, STEP_HOLD
  | purge | priority
  | solver         -- Resident Solve commands (R190)
  | held           -- GRID_SUBMIT, ROOT_CONFIG, SHARD_SET: not in CREATED, and not while running
  | create | destroy
  | load           -- PROG_LOAD, PROG_UNLOAD, RECOVER_LOAD
  | snapshot
  | recovery       -- RECOVER_POINT, RECOVER_LOAD
  | recoverBegin
  | device         -- commands with CONTEXT 0xFF
  deriving DecidableEq, Repr

/-- The status with which a context's state refuses a class of command, if it does (R336; RECOVER_BEGIN: R382). -/
def stateGate (st : CtxState) (k : CmdClass) : Option Status :=
  match st with
  | .free => if k = .create then none else some .noContext
  | .created => if k = .stepControl || k = .held then some .notReady else none
  | .loading => if k = .query || k = .memRead then none else some .busy
  | .loaded | .held => none
  | .running | .holding =>
    if [CmdClass.query, .memRead, .streamRead, .memory, .fence, .stepControl, .purge, .priority, .solver, .recoverBegin].contains k then none
    else some .busy
  | .purging => if k = .query then none else some .busy
  | .faulted => if [CmdClass.destroy, .query, .memRead, .streamRead, .snapshot, .recovery, .recoverBegin].contains k then none else some .ctxFaulted

/-- No step of the context runs: GRID_SUBMIT, ROOT_CONFIG and SHARD_SET find it LOADED or HELD (R344, R175, R201); in CREATED they are
refused with NOT_READY alone (R336). -/
def Ctx.settled (x : Ctx) : Bool := x.state = .created || x.state = .loaded || x.state = .held

/-- What a command's effect answers: the state, the status, the reply parameters. -/
structure KcpDone where
  st     : State
  status : Status := .ok
  params : List Byte := []

/-- The command is done: reply OK with parameters. -/
def done (st : State) (params : List Byte := []) : KcpDone := ⟨st, .ok, params⟩
/-- The command is accepted: its end comes later (R326). -/
def accepted (st : State) (params : List Byte := []) : KcpDone := ⟨st, .accepted, params⟩

/-- A KCP command: its opcode, whether it names a context, its class, the checks of its own row, its effect, and what
happens after its reply has been sent (R330, R333). -/
structure KcpCmd where
  opcode : W16
  need   : CtxNeed
  cls    : CmdClass
  checks : State → List Check := fun _ => []
  effect : State → KcpDone
  after  : State → State := id

/-- KCP is accepted on a port from step 9 of the boot sequence (R432), while the core runs (R370) and no orderly stop
has begun (R402) and RESET_N is high (R458); otherwise the packet is lost. -/
def State.kcpUp (s : State) (p : Fin 2) : Bool :=
  decide (9 ≤ s.boot.stage) && decide (s.boot.stage ≤ 10) && s.faults.coreUp && (s.hp p).up && s.power.stopCause.isNone &&
  !s.faults.resetAsked && !s.mgmt.resetLow

/-- A packet reaches KCP: datagrams to another UDP port are discarded without reply (R321, R322). -/
def State.hears (s : State) (h : KcpHdr) : Bool := s.kcpUp h.port && decide (h.dstPort = s.kcpPort)

/-- The open session that a packet names, bound to its source address and port (R324 check 3). -/
def State.kcpSlot (s : State) (h : KcpHdr) : Option Nat :=
  (List.find? (fun (e : Nat × Session) => decide (e.2.id = h.session) && decide (e.2.addr = h.srcAddr) &&
    decide (e.2.udp = h.srcPort) && decide (h.session ≠ 0)) s.kcp.sessions).map (·.1)

/-- How a sequence number stands to the expected one (R325). -/
inductive SeqPlace where
  | next | ahead | duplicate | far
  deriving DecidableEq, Repr

def seqPlace (expected sequence : W32) : SeqPlace :=
  if sequence = expected then .next
  else if (sequence - expected).toNat ≤ 255 then .ahead
  else if (expected - sequence).toNat ≤ 256 then .duplicate
  else .far

/-- A reply echoes CONTEXT, OPCODE, SEQUENCE and SESSION (R327). -/
def kcpReply (h : KcpHdr) (op : W16) (st : Status) (ps : List Byte) : Reply :=
  { port := h.port, addr := h.srcAddr, udp := h.srcPort, src := h.dstAddr, srcUdp := h.dstPort, context := h.context, opcode := op, sequence := h.sequence,
    session := h.session, status := st.code, params := ps }

/-- A reply leaves on the host port on which the command arrived; if that port is down it is lost (R327). -/
def State.sendReply (s : State) (r : Reply) : State := if (s.hp r.port).up then s.emit (.reply r) else s

/-- Send and cache the reply of an executed command: a session keeps its last 256 replies (R325). -/
def State.answer (s : State) (slot : Nat) (h : KcpHdr) (op : W16) (st : Status) (ps : List Byte) : State :=
  let r := kcpReply h op st ps
  let s := match s.session? slot with
    | none => s
    | some x => s.setSession slot { x with cache := (r :: x.cache).take 256 }
  s.sendReply r

/-- The checks that every command shares: the context it names (R330, R331), the state of that context (R336), reserved
fields and PARAM_LEN (R11, R331). A CONTEXT from 64 to 254 is a field out of range (log entry 17). -/
def KcpCmd.common (k : KcpCmd) (h : KcpHdr) (s : State) : List Check :=
  let c := h.context.toNat
  [((k.need = .none && c ≠ 255) || (k.need = .ctx && c = 255), .badOpcode),
   (h.reserved || h.badLen || (decide (64 ≤ c) && c ≠ 255), .badParam)] ++
  (if c < 64 then
    match stateGate (s.ctx c).state k.cls with
    | some st => [(true, st)]
    | none => []
  else [])

/-- In SLEEP and DEEP_SLEEP the device refuses with BUSY: STEP_RUN, PROG_LOAD, GRID_SUBMIT and groups 0x03 and 0x06
(R416); RECOVER_LOAD is refused as PROG_LOAD (R382). -/
def State.sleeps (s : State) (op : W16) : Bool :=
  (s.power.pstate = .sleep || s.power.pstate = .deepSleep) &&
  ([0x0501, 0x0401, 0x0404, 0x0814].contains op.toNat || op.toNat / 256 = 3 || op.toNat / 256 = 6)

/-- The session's books for a command that is next: the expected number advances, a held copy goes, and the session
follows the port used (R325, R327, R356). -/
def State.take (s : State) (slot : Nat) (h : KcpHdr) : State :=
  match s.session? slot with
  | none => s
  | some x => s.setSession slot { x with expected := x.expected + 1, port := h.port,
                                         held := x.held.filter fun e => e.1 ≠ h.sequence }

/-- The outcome of the checks of a command that executes now. -/
def KcpCmd.verdict (k : KcpCmd) (h : KcpHdr) (s : State) : Option Status :=
  Machine.verdict (k.common h s ++ [(s.sleeps k.opcode, .busy)] ++ k.checks s)

/-- Execute a command that is next in its session: a refused command has no effect (R327). -/
def KcpCmd.run (k : KcpCmd) (h : KcpHdr) (slot : Nat) (s : State) : State :=
  let s := s.take slot h
  match k.verdict h s with
  | some st => s.answer slot h k.opcode st []
  | none => k.after ((k.effect s).st.answer slot h k.opcode (k.effect s).status (k.effect s).params)

/-- Count one of the counters of R332. -/
def State.kcpDrop (s : State) : State := { s with kcp := { s.kcp with drops := s.kcp.drops + 1 } }

/-- Handle a session's command by its sequence number (R325). `self` is the command, kept if it must wait. -/
def KcpCmd.sequence (k : KcpCmd) (self : Instr) (h : KcpHdr) (slot : Nat) (x : Session) (s : State) : State :=
  match seqPlace x.expected h.sequence with
  | .next => k.run h slot s
  | .ahead =>
    if x.held.length < 256 && !(x.held.any fun e => e.1 = h.sequence) then
      s.setSession slot { x with held := x.held ++ [(h.sequence, self)], port := h.port }
    else s.setSession slot { x with port := h.port }
  | .duplicate =>
    let s := { s with kcp := { s.kcp with duplicates := s.kcp.duplicates + 1 } }
    match x.cache.find? (fun r => r.sequence = h.sequence) with
    | some r => s.sendReply { r with port := h.port, src := h.dstAddr, srcUdp := h.dstPort }
    | none => s
  | .far => s.kcpDrop

/-- A KCP packet arrives: the checks of R324, in order. -/
def KcpCmd.arrive (k : KcpCmd) (self : Instr) (h : KcpHdr) (s : State) : State :=
  if !s.hears h then s
  else if h.badCrc then
    ({ s with kcp := { s.kcp with badCrc := s.kcp.badCrc + 1 } }).sendReply (kcpReply h k.opcode .badCrc [])
  else
    match s.kcpSlot h with
    | none => s.sendReply (kcpReply h k.opcode .authFail [])
    | some slot =>
      match s.session? slot with
      | none => s
      | some x => k.sequence self h slot x s

/-- The command is the next of its session and reaches the status checks (R324, R325). -/
def State.kcpNext (s : State) (h : KcpHdr) (slot : Nat) : Bool :=
  s.hears h && !h.badCrc && s.kcpSlot h = some slot &&
  (match s.session? slot with
   | some x => decide (h.sequence = x.expected)
   | none => false)

/-- Context number of a command that names a context. -/
def hctx (h : KcpHdr) : Nat := h.context.toNat

/-- An address parameter is 64 bits wide with [63:48] equal to 0 (R330). -/
def badAddrParam (a : W64) : Bool := decide (2 ^ 48 ≤ a.toNat)

/-- Close a session (R329): its streams close with it, and the contexts it served as Cistern server have none (R355). -/
def State.closeSession (s : State) (slot : Nat) : State :=
  match s.session? slot with
  | none => s
  | some x =>
    let s := { s with kcp := { s.kcp with sessions := Tab.drop s.kcp.sessions slot } }
    { s with ctxs := Tab.mapAll s.ctxs fun _ c => if c.cistern = some x.id then { c with cistern := none } else c }

end Sys2Proof.Machine
end

