-- ==== Sys2Proof/Machine/Reset.lean ====
section
/-!
DEFINITION. What resets, purges and unloading take away (R15, R83, R102, R183, R209, R313, R336, R338, R361, R368).
-/
namespace Sys2Proof.Machine

open Sys2Proof

/-- Remove a context's work from an array group: passes, slots and chains go, and its tiles return to LEASED with their
contents kept (R83, R102). -/
def ArrayUnit.removeWork (a : ArrayUnit) (c : Nat) : ArrayUnit :=
  { a with
    tiles := Tab.mapAll a.tiles fun _ t => if t.ctx = c && t.st ≠ .free then { t with st := .leased } else t
    passes := a.passes.filter fun p => p.ctx ≠ c
    slots := a.slots.filter fun x => x.ctx ≠ c
    transfer := a.transfer.filter fun x => x.ctx ≠ c
    handover := a.handover.filter fun x => x.ctx ≠ c
    runs := a.runs.filter fun r => r.ctx ≠ c }

/-- Release a context's leases: the tiles are zero-filled and free (R80, R83). -/
def ArrayUnit.releaseLeases (a : ArrayUnit) (c : Nat) : ArrayUnit :=
  let a := a.removeWork c
  { a with tiles := a.tiles.filter fun t => !(t.2.ctx = c && t.2.st ≠ .free) }

/-- Return the credit of a segment that is no longer held (R259). -/
def freeUnits (ps : Tab Port) (k : EarlySeg) : Tab Port :=
  Tab.modify {} ps k.port fun x => { x with freed := Tab.modify 0 x.freed k.vc (· + k.units), ackOwed := true }

/-- A Resident Solve block operation. -/
def RteJob.isResident (j : RteJob) : Bool := match j.phase with | .resident _ => true | _ => false

/-- The work factors first: it is a factorisation, or a solve with REFACTOR of an older factor (R189). -/
def RsStruct.factors (r : RsStruct) (w : RsWork) : Bool := !w.solve || (w.refactor && r.factorGen ≠ some r.gen)

/-- A structure whose work a purge stops: the resident image stays, an interrupted factor is stale, no fence is signalled (R190). -/
def RsStruct.stop (r : RsStruct) : RsStruct :=
  { r with work := [], running := false, factorGen := if r.running && (r.work.head?.any fun w => r.factors w) then none else r.factorGen }

/-- Stop the Resident Solve work of a context (R190). -/
def State.stopSolves (s : State) (c : Nat) : State :=
  { s with
    rtes := Tab.mapAll s.rtes fun _ r => { r with job := r.job.filter fun j => !(j.ctx = c && j.isResident),
                                                  restart := r.restart.filter fun j => !(j.ctx = c && j.isResident) }
    structs := Tab.mapAll s.structs fun _ r => if r.owner = c then r.stop else r }

/-- Remove the work of a context's program from the engines, each under its own rule (R362 step 3). Resident Solve work belongs to the
context's structures, not to its program. -/
def State.removeWork (s : State) (c : Nat) : State :=
  { s with
    arrays := Tab.mapAll s.arrays fun _ a => a.removeWork c
    rtes := Tab.mapAll s.rtes fun _ r => { r with job := r.job.filter fun j => j.ctx ≠ c || j.isResident, publish := r.publish.filter fun j => j.ctx ≠ c,
                                                  restart := r.restart.filter fun j => j.ctx ≠ c || j.isResident }
    fuus := Tab.mapAll s.fuus fun _ f => { f with sweep := f.sweep.filter fun w => w.1 ≠ c }
    fabric := { s.fabric with
      colls := s.fabric.colls.filter fun k => k.ctx ≠ c
      early := s.fabric.early.filter fun k => k.ctx ≠ c
      ports := s.fabric.early.foldl (fun ps k => if k.ctx = c then freeUnits ps k else ps) s.fabric.ports } }

/-- Release everything a load took: leases, fences, grid slots, placements and group entries (R338). Regions stay with
the context, which the host granted them (R288); Reservoir regions, with ids from 256, go. -/
def State.dropProgram (s : State) (c : Nat) : State :=
  let s := s.removeWork c
  let s := { s with
    arrays := Tab.mapAll s.arrays fun _ a => a.releaseLeases c
    mem := { s.mem with placed := s.mem.placed.filter fun p => p.ctx ≠ c }
    fences := s.fences.filter fun f => f.2.owner ≠ c
    kcp := { s.kcp with sessions := Tab.mapAll s.kcp.sessions fun _ x =>
      { x with notifies := x.notifies.filter fun n => (Tab.find? s.fences n.1).any fun (f : Fence) => decide (f.owner ≠ c) } }
    lnt := s.lnt.filter fun e => e.2.field 1 49 44 ≠ c
    fabric := { s.fabric with
      groups := s.fabric.groups.filter fun g => g.2.field 0 35 30 ≠ c
      dispatch := s.fabric.dispatch.filter fun d => d.1 / 2 ^ 15 ≠ c
      listed := s.fabric.listed.filter fun d => d.1 / 2 ^ 15 ≠ c
      rows := s.fabric.rows.filter fun d => d.1 / 2 ^ 48 ≠ c
      combine := Tab.drop s.fabric.combine c
      psteps := s.fabric.psteps.filter fun p => p.1 / 2 ^ 47 ≠ c
      pmsgs := s.fabric.pmsgs.filter fun p => p.1 / 2 ^ 15 ≠ c } }
  s.onCtx c fun x => { x with
    program := none, grids := [], shards := [], layerAcc := [], signalled := [], ownerDone := [], rewritten := [], parityOut := [], gathered := [], fetches := [], stats := {}, folds := {}, recovery := {},
    runLeft := 0, holdStep := none, load := none, regions := x.regions.filter fun r => r.1 < 256 }

/-- Free a context (CTX_DESTROY): leases, fences, regions, structures and streams go (R330). -/
def State.freeContext (s : State) (c : Nat) : State :=
  let s := (s.dropProgram c).stopSolves c
  let s := { s with
    structs := s.structs.filter fun r => r.2.owner ≠ c
    kcp := { s.kcp with sessions := Tab.mapAll s.kcp.sessions fun _ x => { x with streams := x.streams.filter fun t => t.context ≠ c } } }
  { s with ctxs := Tab.drop s.ctxs c }

/-! ### Module resets -/

/-- Memory through a module reset (R313, R361): a warm reset flushes the buffers and keeps HBM in self-refresh; a full reset
keeps no HBM contents (R365), so its bytes read as unwritten ones (log entry 6). The Reservoir is cleared either way. The
channels that the repair log records stay fenced or lost, and the same map is rebuilt (R306). -/
def Mem.moduleReset (m : Mem) (full : Bool) : Mem :=
  let f := m.flush
  { bytes := if full then [] else f.bytes.filter fun e => decide (e.1 < hbmEnd)
    poison := if full then [] else f.poison.filter fun p => !(isReservoir p)
    chans := (f.chans.filter fun e => e.2.state = .fenced || e.2.state = .lost || e.2.state = .relocating).map fun e =>
      (e.1, { state := e.2.state, cursor := e.2.cursor })
    order := f.order, remap := f.remap, used := f.used, exhausted := f.exhausted }

/-- The boot memories through a reset: fuses, flash and EEPROM stay; what a boot builds goes (R427, R428, R439). -/
def Boot.moduleReset (b : Boot) : Boot :=
  { b with stage := 0, recovery := false, fwUpdate := none, measures := [], stacksRead := [], slotValid := false, eepromBad := false }

/-- A module reset: every context becomes FREE (R336), sessions close (R329), every field returns to its reset value (R15)
but those whose own rules keep them: flash, fuses, ALERT_CAUSE and ALERT_EN (R459); and at a warm reset HBM contents, the event
log (R361), the Dump Vault, the module counters (R397) and the fold tables (R388). MODULE_RESET is set at its start (R460)
and raised in the log (R360); its cause code is a free value (log entry 4). -/
def State.moduleReset (s : State) (full : Bool) : State :=
  let s := (s.raise 0x34 none unitModule (s.freeWord.setWidth 64) 0).drawn
  { pending := s.pending, free := s.free, out := s.out
    ctxs := if full then [] else Tab.mapAll s.ctxs fun _ c => { folds := { fold := c.folds.fold } }
    mem := s.mem.moduleReset full
    faults := if full then {} else
      { log := s.faults.log, nextSeq := s.faults.nextSeq, counters := s.faults.counters, dumps := s.faults.dumps,
        nextDump := s.faults.nextDump }
    boot := s.boot.moduleReset
    mgmt := { alertCause := s.mgmt.alertCause ||| 0x100, alertEn := s.mgmt.alertEn, resetLow := s.mgmt.resetLow } }

/-- Ask for a module warm reset; MODULE_WARM_RESET performs it (R365, R368). -/
def State.askReset (s : State) : State := { s with faults := { s.faults with resetAsked := true } }

end Sys2Proof.Machine
end

