-- ==== Sys2Proof/Machine/Device.lean ====
section
/-!
DEFINITION. KCP groups 0x01 (device) and 0x02 (contexts): R330, R333, R335, R336, R362, R410, R416, R419, R298.
-/
namespace Sys2Proof.Machine

open Sys2Proof

/-! ### Counts of units in service -/

def State.arraysInService (s : State) : Nat := ((List.range 192).filter fun n => !(s.array n).retired).length
def State.enginesInService (s : State) : Nat := ((List.range 8).filter fun n => (s.rte n).inService).length
/-- Channels FENCED, RELOCATING or LOST (R317). -/
def Mem.fencedCount (m : Mem) : Nat :=
  (m.chans.filter fun e => e.2.state = .fenced || e.2.state = .relocating || e.2.state = .lost).length

/-- "HT-K2040-LC" in ASCII, zero padded to 16 bytes (R330, R441). -/
def partName : List Byte := padTo 16 [0x48, 0x54, 0x2D, 0x4B, 0x32, 0x30, 0x34, 0x30, 0x2D, 0x4C, 0x43]

/-- DEV_INFO (R330). -/
def execDevInfo (h : KcpHdr) (s : State) : Host.Outcome State Fault Refusal :=
  .next <| KcpCmd.arrive
    { opcode := 0x0101, need := .none, cls := .device
      effect := fun s => done s (partName ++ be 1 s.boot.stepping.toNat ++ be 1 s.arraysInService ++
        be 1 s.enginesInService ++ be 1 s.mem.fencedCount ++ be 8 s.boot.serial.toNat) } (.devInfo h) h s

/-! ### Module settings (R333, R410) -/

/-- Defaults of the settings. -/
def settingDefault (id : Nat) : W64 :=
  match id with
  | 0x01 => 51470 | 0x02 => 20 | 0x03 => 18 | 0x04 => 0x88B5 | 0x05 => 24 | 0x06 => 60 | 0x07 => 4096 | 0x08 => 0x08421
  | 0x10 => 3600 | 0x11 => 7 | 0x12 => 300 | 0x13 => 100
  | _ => 0

/-- An ARB_CFG value: AGE_PRIO from 1 to 255 and the three weights from 1 to 15 (R284). -/
def arbCfgOk (v : W64) : Bool :=
  decide (v.toNat < 2 ^ 20) && decide (fieldOf v 19 12 ≠ 0) && decide (fieldOf v 11 8 ≠ 0) && decide (fieldOf v 7 4 ≠ 0) &&
  decide (fieldOf v 3 0 ≠ 0)

def inRange (lo hi : Nat) (v : W64) : Bool := decide (lo ≤ v.toNat) && decide (v.toNat ≤ hi)

/-- Identifiers of the tables and the ranges of their values. -/
def settingOk (id : Nat) (v : W64) : Bool :=
  match id with
  | 0x01 => inRange 1024 65535 v
  | 0x02 => inRange 16 24 v
  | 0x03 => inRange 12 24 v
  | 0x04 => inRange 0x0600 0xFFFF v
  | 0x05 => inRange 1 168 v
  | 0x06 => inRange 1 3600 v
  | 0x07 => inRange 1 65535 v
  | 0x08 => arbCfgOk v
  | 0x10 => inRange 1000 3600 v
  | 0x11 => inRange 0 7 v
  | 0x12 => inRange 10 3600 v
  | 0x13 => inRange 10 3600 v
  | 0x14 => inRange 0 2 v
  | 0x20 | 0x21 => v = 0 || (decide (v.toNat < 2 ^ 40) && inRange 1 32 (v >>> 32) && decide (fieldOf v 31 0 ≠ 0))
  | 0x22 | 0x23 => decide (v.toNat < 2 ^ 32)
  | _ => false

/-- Whether the tables list an identifier. -/
def settingKnown (id : Nat) : Bool :=
  [0x01, 0x02, 0x03, 0x04, 0x05, 0x06, 0x07, 0x08, 0x10, 0x11, 0x12, 0x13, 0x14, 0x20, 0x21, 0x22, 0x23].contains id

def pstateCode : PState → Nat
  | .run => 0 | .sleep => 1 | .deepSleep => 2 | .ride => 3 | .stopping => 4

/-- A setting's value: the static addresses are kept in flash through every reset (R321). -/
def State.setting (s : State) (id : Nat) : W64 :=
  if id = 0x14 then BitVec.ofNat 64 (pstateCode s.power.pwState)
  else if 0x20 ≤ id then Tab.get 0 s.boot.netSettings id
  else Tab.get (settingDefault id) s.kcp.settings id

/-- DVFS_CEIL (R405, R410). -/
def State.ceil (s : State) : Nat := (s.setting 0x11).toNat

/-- A new setting takes effect. A static address takes effect at once on a port that is up; a value of 0 returns the port to
DHCP at the next link-up (R321). -/
def State.applySetting (s : State) (id : Nat) (v : W64) : State :=
  if 0x20 ≤ id then
    let s := { s with boot := { s.boot with netSettings := Tab.put s.boot.netSettings id v } }
    let p : Fin 2 := if id % 2 = 0 then 0 else 1
    let x := s.hp p
    if id < 0x22 then
      if v ≠ 0 && x.up then s.setHp p { x with ipv4 := some (v.setWidth 32, fieldOf v 39 32) } else s
    else if x.up && (s.setting (id - 2)) ≠ 0 then s.setHp p { x with gateway := v.setWidth 32 } else s
  else
    let s := { s with kcp := { s.kcp with settings := Tab.put s.kcp.settings id v } }
    if id = 0x04 then { s with fabric := { s.fabric with etype := v.setWidth 16 } }
    else if id = 0x08 then (List.range 32).foldl (fun s p => s.onPort p fun x => { x with arbCfg := v.setWidth 32 }) s
    else s

def State.allPortsDown (s : State) : Bool := (List.range 32).all fun p => (s.port p).state = .down || (s.port p).state = .retired

/-! ### Power states (R415, R416) -/

/-- Every ready flag of a set of PLLs. -/
def allReady (n : Nat) (t : Tab ClockRef) : Bool := (List.range n).all fun i => (Tab.get {} t i).ready

/-- The power state with the cut, if one is in force, laid over it. -/
def Power.setPw (p : Power) (st : PState) : Power := if p.pstate = .ride then { p with before := st } else { p with pstate := st }

/-- Enter DEEP_SLEEP: every buffer is flushed (R295), the DVFS, HBM and fabric PLLs go off and the fabric ports down. Frames that no
neighbour has acknowledged wait until the ports come up again; the peers see links that are down (R416, log entry 107). -/
def State.deepSleep (s : State) : State :=
  let frames := s.fabric.ports.flatMap fun p => p.2.replay ++ p.2.waiting
  { s with
    mem := s.mem.flush
    power := { s.power.setPw .deepSleep with cdPll := [], hbmPll := [], ioPll := [] }
    fabric := { s.fabric with
      parked := s.fabric.parked ++ frames.map fun (g : TxFrame) => { frame := { g with held := none } }
      ports := Tab.mapAll s.fabric.ports fun _ p =>
        if p.state = .retired then p else { p with state := .down, lanes := 0, replay := [], waiting := [] } } }

/-- A context LOADING, RUNNING, HOLDING or PURGING keeps the module in RUN (R416). -/
def State.busyContext (s : State) : Bool :=
  s.ctxs.any fun e => [CtxState.loading, .running, .holding, .purging].contains e.2.state

def powerStateChecks (v : W64) (s : State) : List Check :=
  let cur := s.power.pwState
  [(!settingOk 0x14 v, .badParam),
   (v = 2 && cur ≠ .sleep, .badParam),
   (v = 1 && cur = .run && s.busyContext, .busy)]

/-- A request for RUN whose clocks are not ready is refused with CLOCK_NOT_READY and sets SW_REFUSED (R415, R416). -/
def State.runRefused (s : State) (v : W64) : Bool :=
  v = 0 && (s.power.pwState = .deepSleep ||
    (s.power.pwState = .sleep && !(allReady 8 s.power.cdPll && allReady 8 s.power.hbmPll)))

def powerStateEffect (v : W64) (s : State) : KcpDone :=
  if s.runRefused v then { st := { s with power := { s.power with swRefused := true } }, status := .clockNotReady } else
  let cur := s.power.pwState
  { st :=
      if v = 2 then s.deepSleep
      else if v = 1 then
        -- the start ramp applies after leaving deep sleep (R409)
        { s with power := { s.power.setPw .sleep with ramp := s.power.ramp || cur = .deepSleep, shaped := s.power.shaped && cur ≠ .deepSleep } }
      else { s with power := s.power.setPw .run } }

def powerStateCmd (v : W64) : KcpCmd :=
  { opcode := 0x0102, need := .none, cls := .device, checks := powerStateChecks v, effect := powerStateEffect v }

/-- POWER_STATE: a DEV_SET of identifier 0x0014 (R416). -/
def execPowerState (h : KcpHdr) (v : W64) (s : State) : Host.Outcome State Fault Refusal :=
  .next ((powerStateCmd v).arrive (.powerState h v) h s)

/-- DEV_SET (R333): the new value takes effect after the reply has been sent. -/
def execDevSet (h : KcpHdr) (id : W16) (v : W64) (s : State) : Host.Outcome State Fault Refusal :=
  .next <|
    if id = 0x14 then (powerStateCmd v).arrive (.devSet h id v) h s else
    KcpCmd.arrive
      { opcode := 0x0102, need := .none, cls := .device
        checks := fun s => [(!settingOk id.toNat v, .badParam), (id = 0x04 && !s.allPortsDown, .busy)]
        effect := fun s => done s
        after := fun s => s.applySetting id.toNat v } (.devSet h id v) h s

/-- DEV_GET (R333). -/
def execDevGet (h : KcpHdr) (id : W16) (s : State) : Host.Outcome State Fault Refusal :=
  .next <| KcpCmd.arrive
    { opcode := 0x0103, need := .none, cls := .device
      checks := fun _ => [(!settingKnown id.toNat, .badParam)]
      effect := fun s => done s (be 8 (s.setting id.toNat).toNat) } (.devGet h id) h s

/-- REGULATOR_SET (R298): the bucket keeps its tokens up to the new BUCKET. -/
def execRegulatorSet (h : KcpHdr) (partition : BitVec 8) (rate : W16) (bucket : W32) (s : State) : Host.Outcome State Fault Refusal :=
  .next <| KcpCmd.arrive
    { opcode := 0x0104, need := .none, cls := .device
      checks := fun _ => [(decide (16 ≤ partition.toNat) || bucket = 0 || decide (2 ^ 20 ≤ bucket.toNat), .badParam)]
      effect := fun s =>
        let r := Tab.get {} s.mem.regs partition.toNat
        let b : BitVec 20 := bucket.setWidth 20
        let r := { r with rate := rate, bucket := b, tokens := if b.toNat < r.tokens.toNat then b else r.tokens }
        done { s with mem := { s.mem with regs := Tab.put s.mem.regs partition.toNat r } } }
    (.regulatorSet h partition rate bucket) h s

/-- Set the seconds of the time counter now: SECONDS_SET, and TIME_STEPPED with AUX 1 and the step in ns (R419, R424). -/
def State.setSeconds (s : State) (sec : BitVec 34) (nanos : Nat) : State :=
  let old : Int := (s.power.seconds.toNat * 10 ^ 9 + s.power.nanos : Nat)
  let new : Int := (sec.toNat * 10 ^ 9 + nanos : Nat)
  let s := { s with power := { s.power with seconds := sec, nanos := nanos, secSet := true, pendSec := none } }
  s.raise 0x69 none unitModule (BitVec.ofInt 64 (new - old)) 1

/-- TIME_SET (R419): at the next accepted edge while LOCKED, else at once. -/
def execTimeSet (h : KcpHdr) (seconds : W64) (s : State) : Host.Outcome State Fault Refusal :=
  .next <| KcpCmd.arrive
    { opcode := 0x0105, need := .none, cls := .device
      checks := fun _ => [(decide (2 ^ 34 ≤ seconds.toNat), .badParam)]
      effect := fun s =>
        if s.power.pps = .locked then
          accepted { s with power := { s.power with pendSec := some (seconds.setWidth 34) } }
        else done (s.setSeconds (seconds.setWidth 34) s.power.nanos) } (.timeSet h seconds) h s

/-- DEV_RESET (R330, R365): the reply is sent before the reset begins. -/
def execDevReset (h : KcpHdr) (level : BitVec 8) (s : State) : Host.Outcome State Fault Refusal :=
  .next <| KcpCmd.arrive
    { opcode := 0x0106, need := .none, cls := .device
      checks := fun _ => [(level ≠ 1 && level ≠ 2, .badParam)]
      effect := fun s => done s
      after := fun s => if level = 1 then s.askReset else s.moduleReset true } (.devReset h level) h s

/-! ### Contexts -/

/-- Codes of the context states (R336). -/
def ctxStateCode : CtxState → Nat
  | .free => 0 | .created => 1 | .loading => 2 | .loaded => 3 | .running => 4 | .holding => 5 | .held => 6 | .purging => 7 | .faulted => 8

def serviceCode : Service → Nat
  | .normal => 0 | .startUp => 1 | .test => 2 | .recovery => 3

/-- CTX_CREATE (R335): counters reset, the capture record armed, step counter 0. The fold table that a warm reset kept for
the context stays for a rejoin (R388). -/
def execCtxCreate (h : KcpHdr) (priority partition : BitVec 8) (s : State) : Host.Outcome State Fault Refusal :=
  .next <| KcpCmd.arrive
    { opcode := 0x0201, need := .ctx, cls := .create
      checks := fun s => [(decide (8 ≤ priority.toNat) || decide (16 ≤ partition.toNat), .badParam),
                          ((s.ctx (hctx h)).state ≠ .free, .busy)]
      effect := fun s => done (s.setCtx (hctx h)
        { state := .created, priority := priority.toNat, partition := partition.toNat, armed := true,
          folds := { fold := (s.ctx (hctx h)).folds.fold } }) } (.ctxCreate h priority partition) h s

/-- CTX_DESTROY (R330, R336). -/
def execCtxDestroy (h : KcpHdr) (s : State) : Host.Outcome State Fault Refusal :=
  .next <| KcpCmd.arrive
    { opcode := 0x0202, need := .ctx, cls := .destroy, effect := fun s => done (s.freeContext (hctx h)) } (.ctxDestroy h) h s

/-- CTX_QUERY (R330). -/
def execCtxQuery (h : KcpHdr) (s : State) : Host.Outcome State Fault Refusal :=
  .next <| KcpCmd.arrive
    { opcode := 0x0203, need := .ctx, cls := .query
      effect := fun s =>
        let c := s.ctx (hctx h)
        done s (be 1 (ctxStateCode c.state) ++ be 1 (serviceCode c.service) ++ be 2 0 ++ be 8 c.step.toNat ++
          be 4 c.runLeft.toNat ++ be 4 0) } (.ctxQuery h) h s

/-- CTX_PURGE (R362): the context ends FAULTED with CONTEXT_PURGED. No event triggers it: the snapshot's trigger SEQ is that
of the newest record of the log. -/
def execCtxPurge (h : KcpHdr) (s : State) : Host.Outcome State Fault Refusal :=
  .next <| KcpCmd.arrive
    { opcode := 0x0204, need := .ctx, cls := .purge
      effect := fun s => accepted (s.purge (hctx h) (s.faults.nextSeq - 1)) } (.ctxPurge h) h s

/-- CTX_PRIORITY (R330): effective at the next pass boundary, which is where the schedulers read it. -/
def execCtxPriority (h : KcpHdr) (priority : BitVec 8) (s : State) : Host.Outcome State Fault Refusal :=
  .next <| KcpCmd.arrive
    { opcode := 0x0205, need := .ctx, cls := .priority
      checks := fun _ => [(decide (8 ≤ priority.toNat), .badParam)]
      effect := fun s => done (s.onCtx (hctx h) fun c => { c with priority := priority.toNat }) } (.ctxPriority h priority) h s

end Sys2Proof.Machine
end

