-- ==== Sys2Proof/Machine/Session.lean ====
section
/-!
DEFINITION. Sessions (R328, R329, R436), the host ports (R320, R321) and datagrams that are dropped (R324).
-/
namespace Sys2Proof.Machine

open Sys2Proof

/-! ### Device-to-host stream data (R352) -/

/-- Data bytes of a full STREAM_DATA notice. -/
def streamChunk : Nat := 8180

/-- Bytes of a stream's next notice. -/
def Stream.chunk (t : Stream) : Nat := min streamChunk (t.bytes - t.next)

/-- Send one STREAM_DATA notice of a device-to-host stream: data of the range, padded with zero bytes to a multiple of 4. -/
def State.sendChunk (s : State) (slot : Nat) (t : Stream) : State :=
  let n := t.chunk
  let data := pad4 (s.mem.read (t.addr + t.next) n)
  let s := s.noteReads [(t.addr + t.next, n)]
  let s := s.notify slot 0x0307 (BitVec.ofNat 8 t.context) (be 1 t.number ++ be 3 0 ++ be 8 t.next ++ data)
  match s.session? slot with
  | none => s
  | some x => s.setSession slot { x with streams := x.streams.map fun u =>
      if u.number = t.number then { u with next := t.next + n } else u }

/-- A device-to-host stream of the session with data left to send. One over state waits while its context is neither HELD nor FAULTED
(R27). -/
def State.readyStream (s : State) (x : Session) : Option Stream :=
  x.streams.find? fun t => t.toHost && !t.purged && !t.timedOut && decide (t.next < t.bytes) &&
    !s.stateBusy t.context (t.addr + t.next) t.chunk true

/-- Fill the session's window with stream data in ascending offset. Poison that the stream meets is consumed: MEM_UE, and
the stream ends there (R300). `fuel` bounds the packets, since the window holds 256. -/
def State.pump (fuel : Nat) (s : State) (slot : Nat) : State :=
  match fuel with
  | 0 => s
  | k + 1 =>
    match s.session? slot with
    | none => s
    | some x =>
      if x.unacked.length < 256 && x.waiting.isEmpty then
        match s.readyStream x with
        | none => s
        | some t =>
          match s.mem.poisonIn (t.addr + t.next) t.chunk with
          | some p =>
            (s.setSession slot { x with streams := x.streams.map fun u =>
              if u.number = t.number then { u with purged := true } else u }).memUe t.context p
          | none => State.pump k (s.sendChunk slot t) slot
      else s

/-! ### Opening and closing -/

def State.ownerActive (s : State) : Bool := s.boot.ownerState.contains 1

/-- Index of the active owner slot. -/
def Boot.activeOwner (b : Boot) : Option Nat := (List.range 4).find? fun i => b.ownerState.getD i 0 = 1

/-- A session identifier other than 0 and other than those in use: the first such value from a free value on (R329). -/
def State.newSessionId (s : State) : W32 :=
  let used := s.kcp.sessions.map (·.2.id)
  (((List.range 17).map fun i => s.freeWord + BitVec.ofNat 32 i).find? fun v => v ≠ 0 && !used.contains v).getD 1

/-- The lowest free session entry of 16. -/
def State.freeSlot (s : State) : Option Nat := (List.range 16).find? fun i => (s.session? i).isNone

def sameSource (h : KcpHdr) (c : Challenge) : Bool := decide (c.addr = h.srcAddr) && decide (c.udp = h.srcPort)

/-- Issue a challenge of 256 random bits, bound to the source: one per source, at most 64 in all; a 65th replaces the oldest
(R436, log entry 18). -/
def State.issueChallenge (s : State) (h : KcpHdr) : State × List Byte :=
  let v := (List.range 32).map (Config.freeByte s.free)
  let kept := s.kcp.challenges.filter fun c => !sameSource h c
  let kept := kept.drop (kept.length - 63)
  let k := { s.kcp with challenges := kept ++ [{ addr := h.srcAddr, udp := h.srcPort, value := v }] }
  (({ s with kcp := k }).drawn, v)

/-- The proof of a SESSION_OPEN holds: the challenge is the source's own and the signature verifies (R436). -/
def State.proofOk (s : State) (h : KcpHdr) (challenge : List Byte) (sigOk : Bool) : Bool :=
  sigOk && s.kcp.challenges.any fun c => sameSource h c && c.value = challenge

/-- The checks of a SESSION_OPEN with SESSION 0 (R329, R436). -/
def sessionOpenChecks (h : KcpHdr) (challenge sig : List Byte) (sigOk : Bool) (s : State) : List Check :=
  let params := !(challenge.isEmpty && sig.isEmpty)
  [(s.ownerActive && !(params && s.proofOk h challenge sigOk), .authFail),
   (h.context ≠ 0xFF, .badOpcode),
   (h.sequence ≠ 0 || h.reserved || h.badLen || (!s.ownerActive && params), .badParam),
   (s.freeSlot.isNone, .busy)]

/-- Open a session for the packet's source. -/
def State.openSession (s : State) (h : KcpHdr) (slot : Nat) : State :=
  let id := s.newSessionId
  let s := (s.setSession slot { id := id, addr := h.srcAddr, udp := h.srcPort, port := h.port, expected := 1 }).drawn
  s.sendReply (kcpReply h 0x0901 .ok (be 4 id.toNat))

/-- SESSION_OPEN that carries SESSION 0: no sequence rules, no cached reply (R329). A proof uses its challenge up. -/
def sessionOpenZero (h : KcpHdr) (challenge sig : List Byte) (sigOk : Bool) (s : State) : State :=
  match verdict (sessionOpenChecks h challenge sig sigOk s), s.freeSlot with
  | none, some slot =>
    let s := { s with kcp := { s.kcp with challenges := s.kcp.challenges.filter fun c => !sameSource h c } }
    s.openSession h slot
  | some .authFail, _ =>
    if challenge.isEmpty && sig.isEmpty then
      let (s, v) := s.issueChallenge h
      s.sendReply (kcpReply h 0x0901 .authFail v)
    else
      let s := { s with kcp := { s.kcp with challenges := s.kcp.challenges.filter fun c => !(sameSource h c && c.value = challenge) } }
      (s.raise 0x85 none unitModule (h.srcPort.setWidth 64) 0).sendReply (kcpReply h 0x0901 .authFail [])
  | some st, _ => s.sendReply (kcpReply h 0x0901 st [])
  | none, none => s

/-- SESSION_OPEN (R329). Inside an open session (SESSION not 0) its SESSION field is out of range. -/
def execSessionOpen (h : KcpHdr) (challenge sig : List Byte) (sigOk : Bool) (s : State) : Host.Outcome State Fault Refusal :=
  .next <|
    if h.session = 0 then
      if !s.hears h then s
      else if h.badCrc then
        ({ s with kcp := { s.kcp with badCrc := s.kcp.badCrc + 1 } }).sendReply (kcpReply h 0x0901 .badCrc [])
      else sessionOpenZero h challenge sig sigOk s
    else KcpCmd.arrive
      { opcode := 0x0901, need := .none, cls := .device, checks := fun _ => [(true, .badParam)], effect := fun s => done s }
      (.sessionOpen h challenge sig sigOk) h s

/-- SESSION_CLOSE (R329): the session closes after its reply. -/
def execSessionClose (h : KcpHdr) (s : State) : Host.Outcome State Fault Refusal :=
  .next <| KcpCmd.arrive
    { opcode := 0x0902, need := .none, cls := .device, effect := fun s => done s
      after := fun s => (s.kcpSlot h).elim s s.closeSession } (.sessionClose h) h s

/-- SESSION_TIMEOUT: 60 s without any packet from the session's address (R329). -/
def execSessionTimeout (slot : Fin 16) (s : State) : Host.Outcome State Fault Refusal := .next (s.closeSession slot)

/-- CHALLENGE_EXPIRY: a challenge is valid for 1 s (R436). -/
def execChallengeExpiry (addr : BitVec 128) (port : W16) (s : State) : Host.Outcome State Fault Refusal :=
  .next { s with kcp := { s.kcp with challenges := s.kcp.challenges.filter fun c => !(c.addr = addr && c.udp = port) } }

/-- Send waiting packets while the window has room (R328). -/
def State.sendWaiting (s : State) (slot : Nat) : State :=
  match s.session? slot with
  | none => s
  | some x =>
    let room := 256 - x.unacked.length
    let go := x.waiting.take room
    let s := s.setSession slot { x with unacked := x.unacked ++ go, waiting := x.waiting.drop room }
    if s.hostUp then go.foldl (fun s n => s.emit (.notice x.id n s.kcpPort)) s else s

/-- HOST_ACK: the acknowledged packet leaves the window; waiting packets and stream data follow (R328, R352). One with a reserved field
that is not 0 has no effect (R11), and is answered as a refused command (log entry 104). -/
def execHostAck (h : KcpHdr) (s : State) : Host.Outcome State Fault Refusal :=
  .next <|
    if !s.hears h then s
    else if h.badCrc then
      ({ s with kcp := { s.kcp with badCrc := s.kcp.badCrc + 1 } }).sendReply (kcpReply h 0 .badCrc [])
    else
      match s.kcpSlot h with
      | none => s.sendReply (kcpReply h 0 .authFail [])
      | some slot =>
        match s.session? slot with
        | none => s
        | some x =>
          if h.reserved then s.sendReply (kcpReply h 0 .badParam []) else
          let s := s.setSession slot { x with unacked := x.unacked.filter fun n => n.sequence ≠ h.sequence, port := h.port }
          (s.sendWaiting slot).pump 256 slot

/-- D2H_RESEND: an unacknowledged packet is sent again every 1 ms (R328). -/
def execD2hResend (slot : Fin 16) (sequence : W32) (s : State) : Host.Outcome State Fault Refusal :=
  .next <|
    match s.session? slot with
    | none => s
    | some x =>
      match x.unacked.find? (fun n => n.sequence = sequence) with
      | some n => if s.hostUp && s.faults.coreUp then s.emit (.notice x.id n s.kcpPort) else s
      | none => s

/-! ### Host ports (R320, R321) -/

/-- The interface identifier that RFC 4291 forms from a MAC address: FF-FE in the middle and the universal bit inverted. -/
def interfaceId (mac : BitVec 48) : BitVec 64 :=
  let m := mac.toNat
  BitVec.ofNat 64 (((m / 2 ^ 24) * 2 ^ 40 + 0xFFFE * 2 ^ 24 + m % 2 ^ 24) ^^^ 0x0200000000000000)

def linkLocal (mac : BitVec 48) : BitVec 128 := 0xFE80000000000000#64 ++ interfaceId mac

/-- The port's MAC address, from HOST_MAC of the module EEPROM (R441). -/
def State.hostMac (s : State) (p : Fin 2) : BitVec 48 := s.boot.hostMac.getD p 0

/-- A host port comes up: its link-local address is present; the static address is used when one is set, else DHCP. -/
def State.hostPortUp (s : State) (p : Fin 2) (rate100 lane1Lost : Bool) : State :=
  let st := s.setting (0x20 + p.val)
  let x : HostPort :=
    { up := true, rate100 := rate100, lane1Lost := lane1Lost, ipv6 := [linkLocal (s.hostMac p)]
      ipv4 := if st = 0 then none else some (st.setWidth 32, fieldOf st 39 32)
      gateway := if st = 0 then 0 else (s.setting (0x22 + p.val)).setWidth 32 }
  let s := s.setHp p x
  if st = 0 then s.emit (.dhcpRequest p 0) else s

/-- The host ports run from step 9 of the boot, outside an orderly stop, and not while the module EEPROM's CRC fails (R441). -/
def State.hostSide (s : State) : Bool :=
  decide (9 ≤ s.boot.stage) && decide (s.boot.stage ≤ 10) && s.power.stopCause.isNone && !s.boot.eepromBad

/-- HOST_PORT_LINK_UP: at 400G, or at 100G where no common 400G ability exists or lane 1 fails to train (R320). -/
def execHostPortLinkUp (port : Fin 2) (common400 lane1 : Bool) (s : State) : Host.Outcome State Fault Refusal :=
  .next (onlyIf (s.hostSide && !(s.hp port).up) (fun s => s.hostPortUp port (!(common400 && lane1)) (common400 && !lane1)) s)

/-- HOST_PORT_LANE_LOSS: lane 0 takes the port down, lane 1 brings it to 100G; at 100G the port does not use lane 1 (R320). -/
def execHostPortLaneLoss (port lane : Fin 2) (s : State) : Host.Outcome State Fault Refusal :=
  .next (onlyIf (s.hp port).up (fun s =>
    if lane = 0 then s.setHp port { s.hp port with up := false }
    else if (s.hp port).rate100 then s
    else s.setHp port { s.hp port with rate100 := true, lane1Lost := true }) s)

/-- HOST_PORT_RETRY_400G: a port at 100G after a loss of lane 1 retries 400G every 10 s (R320). -/
def execHostPortRetry400G (port : Fin 2) (trained : Bool) (s : State) : Host.Outcome State Fault Refusal :=
  .next (onlyIf ((s.hp port).up && (s.hp port).lane1Lost && trained)
    (fun s => s.setHp port { s.hp port with rate100 := false, lane1Lost := false }) s)

/-- DHCP_RENEW: a port without a static address takes or renews its lease (R321). -/
def execDhcpRenew (port : Fin 2) (addr gateway : W32) (prefixLen : BitVec 8) (leaseSec : W32) (s : State) :
    Host.Outcome State Fault Refusal :=
  .next (onlyIf ((s.hp port).up && s.setting (0x20 + port.val) = 0) (fun s =>
    (s.emit (.dhcpRequest port addr)).setHp port
      { s.hp port with ipv4 := some (addr, prefixLen.toNat), gateway := gateway, leaseSec := leaseSec.toNat }) s)

/-- ROUTER_ADVERTISEMENT: stateless autoconfiguration of an address under the advertised prefix (R321). -/
def execRouterAdvertisement (port : Fin 2) (pfx : BitVec 64) (s : State) : Host.Outcome State Fault Refusal :=
  let a : BitVec 128 := pfx ++ interfaceId (s.hostMac port)
  .next (onlyIf ((s.hp port).up && !(s.hp port).ipv6.contains a)
    (fun s => s.setHp port { s.hp port with ipv6 := (s.hp port).ipv6 ++ [a] }) s)

/-- NEIGHBOR_DISCOVERY: a solicitation of an own address is answered; a conflict found by duplicate address detection
removes the address; an advertisement changes no state that the manual names (R321). -/
def execNeighborDiscovery (port : Fin 2) (msg : NdMessage) (s : State) : Host.Outcome State Fault Refusal :=
  .next (onlyIf (s.hp port).up (fun s =>
    match msg with
    | .solicitation target _ => if (s.hp port).ipv6.contains target then s.emit (.neighborAdvert port target) else s
    | .advertisement _ => s
    | .dadConflict target => s.setHp port { s.hp port with ipv6 := (s.hp port).ipv6.filter (· ≠ target) }) s)

/-- ARP_REQUEST for the port's address is answered (R321). -/
def execArpRequest (port : Fin 2) (target sender : W32) (s : State) : Host.Outcome State Fault Refusal :=
  .next (onlyIf ((s.hp port).up && ((s.hp port).ipv4.any fun a => a.1 = target)) (fun s => s.emit (.arpReply port target sender)) s)

/-- ICMP_ECHO_REQUEST to an address of the port is answered (R321). -/
def execIcmpEchoRequest (port : Fin 2) (v6 : Bool) (dst src : BitVec 128) (payload : List Byte) (s : State) :
    Host.Outcome State Fault Refusal :=
  let own := if v6 then (s.hp port).ipv6.contains dst else (s.hp port).ipv4.any fun a => a.1.setWidth 128 = dst
  .next (onlyIf ((s.hp port).up && own) (fun s => s.emit (.icmpReply port v6 dst src payload)) s)

/-- KCP_PACKET_DROP: malformed datagrams, IP fragments and tagged frames are discarded and counted; other EtherTypes and
other UDP ports are discarded without a count; an unknown opcode is refused with BAD_OPCODE (R320, R321, R322, R324, R330). -/
def execKcpPacketDrop (port : Fin 2) (reason : DropReason) (s : State) : Host.Outcome State Fault Refusal :=
  .next <|
    match reason with
    | .malformed | .fragment | .tagged => onlyIf (s.kcpUp port) State.kcpDrop s
    | .foreignType | .foreignPort => s
    | .unknownOpcode h op =>
      KcpCmd.arrive { opcode := op, need := .any, cls := .query, checks := fun _ => [(true, .badOpcode)], effect := fun s => done s }
        (.kcpPacketDrop port reason) h s

end Sys2Proof.Machine
end

