-- ==== Sys2Proof/Machine/Faults.lean ====
section
/-!
DEFINITION. The event log, dumps, the control core and die resets: R359 to R361, R365 to R374, R382 and R397.
-/
namespace Sys2Proof.Machine

open Sys2Proof

/-! ### Serial-number arithmetic (R420) -/

/-- `a` is later than `b`. -/
def later32 (a b : W32) : Bool := decide (1 ≤ (a - b).toNat) && decide ((a - b).toNat < 2 ^ 31)

/-! ### Event log -/

/-- Records from FIRST on; a FIRST already overwritten starts at the oldest held (R361). A reply carries at most 256
records, which is what the largest packet holds (log entry 19). -/
def State.eventsFrom (s : State) (first : W32) (count : Nat) : List Event :=
  (s.faults.log.filter fun e => !later32 first e.seq).take (min count 256)

/-- EVENT_READ (R361): CONTEXT may be 0xFF. -/
def execEventRead (h : KcpHdr) (first : W32) (count : W16) (s : State) : Host.Outcome State Fault Refusal :=
  .next <| KcpCmd.arrive
    { opcode := 0x0801, need := .any, cls := .query
      effect := fun s => done s ((s.eventsFrom first count.toNat).flatMap fun e => params32 e.words) } (.eventRead h first count) h s

/-- A read of `bytes` bytes at `offset` of something `size` bytes long (log entry 19: 4 to 8,192 bytes, whole words). -/
def badSpan (offset : W64) (bytes : W32) (size : Nat) : Bool :=
  bytes = 0 || decide (8192 < bytes.toNat) || decide (bytes.toNat % 4 ≠ 0) || decide (size < offset.toNat + bytes.toNat)

/-- SNAPSHOT_READ (R364): of a FAULTED context. -/
def execSnapshotRead (h : KcpHdr) (offset : W64) (bytes : W32) (s : State) : Host.Outcome State Fault Refusal :=
  .next <| KcpCmd.arrive
    { opcode := 0x0802, need := .ctx, cls := .snapshot
      checks := fun s => [((s.ctx (hctx h)).state ≠ .faulted, .busy),
                          (badSpan offset bytes ((s.ctx (hctx h)).snapshot.length), .badParam)]
      effect := fun s => done s (slice (s.ctx (hctx h)).snapshot offset.toNat bytes.toNat) } (.snapshotRead h offset bytes) h s

/-! ### The Dump Vault (R372 to R374) -/

/-- Bytes of a Vault slot: 512 MiB. -/
def vaultSlotBytes : Nat := 0x20000000

/-- The slot that is empty, or that holds the lowest dump SEQ (R372), compared as R420 says. -/
def Faults.dumpSlot (f : Faults) : Nat :=
  match (List.range 4).find? fun i => !(f.dumps.any fun d => d.1 = i) with
  | some i => i
  | none => (f.dumps.foldl (fun b d => if later32 b.2 d.2 then d else b) (f.dumps.headD (0, 0))).1

/-- Start a dump: it takes the next dump SEQ. -/
def State.startDump (s : State) (cause : W16) : State :=
  let d : Dump := { slot := s.faults.dumpSlot, seq := s.faults.nextDump, cause := cause, time := s.now }
  { s with faults := { s.faults with dump := some d, nextDump := s.faults.nextDump + 1 } }

/-- The units that firmware queries for a dump, by the kinds of R359: the engines of R366, the ports and the core. -/
def dumpUnits : List (Nat × Nat) :=
  (List.range 192).map (fun i => (0, i)) ++ (List.range 8).map (fun i => (5, i)) ++ (List.range 8).map (fun i => (3, i)) ++
  (List.range 8).map (fun i => (2, i)) ++ (List.range 4).map (fun i => (8, i)) ++ (List.range 32).map (fun i => (6, i)) ++ [(9, 0)]

/-- A directory entry and its section's bytes (R373): HUNG has no data. -/
structure DumpSection where
  kind   : Nat
  index  : Nat
  status : Nat
  data   : List Byte

def dumpSections (d : Dump) (seqOnly : Bool) (draw : Nat) : List DumpSection :=
  (if seqOnly then [(9, 0)] else dumpUnits).map fun u =>
    if d.hung.contains u then ⟨u.1, u.2, 1, []⟩ else ⟨u.1, u.2, 0, Config.dumpSection u.1 u.2 draw⟩

/-- The directory and the sections behind it; a section that would pass the slot's end is marked TRUNCATED and left out. -/
def layDump (xs : List DumpSection) (pos : Nat) : List Byte × List Byte × Bool :=
  match xs with
  | [] => ([], [], false)
  | x :: r =>
    let fits := decide (pos + x.data.length ≤ vaultSlotBytes)
    let data := if fits then x.data else []
    let st := if fits then x.status else 3
    let (dir, body, cut) := layDump r (pos + data.length)
    (le 4 (x.kind * 2 ^ 28 + x.index * 2 ^ 18 + st * 2 ^ 16) ++ le 4 (if data.isEmpty then 0 else pos) ++ le 4 data.length ++
      le 4 (crc32c data).toNat ++ dir, data ++ body, cut || !fits)

/-- The bytes of a written dump: the header of R373 with COMPLETE set, the directory at 0x1000, the sections. CRC is taken
over BYTES with itself as 0. -/
def State.dumpImage (s : State) (d : Dump) (seqOnly : Bool) : List Byte :=
  let xs := dumpSections d seqOnly s.free
  let (dir, body, cut) := layDump xs (0x1000 + 16 * xs.length)
  let bytes := 0x1000 + dir.length + body.length
  let ev := (s.faults.log.reverse.find? fun e => e.code = d.cause).map (·.seq)
  let header (crc : Nat) : List Byte :=
    le 4 0x504D444B ++ le 2 1 ++ le 2 (1 + 2 * bit01 seqOnly + 4 * bit01 cut) ++ le 4 d.seq.toNat ++ le 2 d.cause.toNat ++
    le 2 xs.length ++ le 8 d.time.toNat ++ le 8 s.boot.serial.toNat ++ le 4 (ev.getD 0).toNat ++ le 4 bytes ++ le 4 crc ++ le 4 0xB1
  let rest := dir ++ body
  padTo 0x1000 (header (crc32c (padTo 0x1000 (header 0) ++ rest)).toNat) ++ rest

/-- Finish the dump in progress: write it to its slot and raise DUMP_WRITTEN (R360, R372). -/
def State.finishDump (s : State) (d : Dump) (seqOnly : Bool) : State :=
  let img := s.dumpImage d seqOnly
  let s := (s.write (vaultBase + d.slot * vaultSlotBytes) img).drawn
  let f := { s.faults with dump := none, dumps := (d.slot, d.seq) :: s.faults.dumps.filter fun x => x.1 ≠ d.slot }
  { s with faults := f }.raise 0x36 none unitModule (BitVec.ofNat 64 (d.slot * vaultSlotBytes)) d.seq

/-- Write a whole dump: the one in progress, or one that starts now. -/
def State.writeDump (s : State) (cause : W16) (seqOnly : Bool) : State :=
  let s := if s.faults.dump.isSome then s else s.startDump cause
  match s.faults.dump with
  | some d => s.finishDump d seqOnly
  | none => s

/-- DUMP_WRITE (R372). -/
def execDumpWrite (cause : W16) (sequencerOnly : Bool) (s : State) : Host.Outcome State Fault Refusal :=
  .next (s.writeDump cause sequencerOnly)

/-- DUMP_UNIT_TIMEOUT: the unit's entry is HUNG and it is not queried again for that dump (R374). -/
def execDumpUnitTimeout (unitKind : Fin 16) (unitIndex : Fin 1024) (s : State) : Host.Outcome State Fault Refusal :=
  .next (whenReady s.faults.dump (fun d =>
    let u := (unitKind.val, unitIndex.val)
    { s with faults := { s.faults with dump := some { d with hung := if d.hung.contains u then d.hung else d.hung ++ [u] } } }) s)

/-- DUMP_TAKE (R372, R382): the reply carries the dump's SEQ. BUSY while another dump is being written (log entry 19). -/
def execDumpTake (h : KcpHdr) (s : State) : Host.Outcome State Fault Refusal :=
  .next <| KcpCmd.arrive
    { opcode := 0x0822, need := .none, cls := .device
      checks := fun s => [(s.faults.dump.isSome, .busy)]
      effect := fun s => done (s.startDump 0) (be 4 s.faults.nextDump.toNat) } (.dumpTake h) h s

/-- DUMP_READ (R374): of the Vault's 2 GiB. -/
def execDumpRead (h : KcpHdr) (offset : W64) (bytes : W32) (s : State) : Host.Outcome State Fault Refusal :=
  .next <| KcpCmd.arrive
    { opcode := 0x0803, need := .none, cls := .device
      checks := fun s => [(badSpan offset bytes (4 * vaultSlotBytes), .badParam),
                          ((s.mem.poisonIn (vaultBase + offset.toNat) bytes.toNat).isSome, .fenced)]
      effect := fun s => done { s with mem := s.mem.note (vaultBase + offset.toNat) bytes.toNat }
        (s.mem.read (vaultBase + offset.toNat) bytes.toNat) } (.dumpRead h offset bytes) h s

/-! ### The control core (R369 to R371) -/

def coreCause : CoreFault → Nat
  | .ecc => 0 | .parity => 1 | .watchdog => 2 | .duringRestart => 3

/-- Begin a restart: the core halts. A third restart within 60 s makes the sequencer write a dump and ask for a module
warm reset (R371). -/
def State.startRestart (s : State) (cause : CoreFault) : State :=
  let now := s.power.ticks
  let recent := now :: s.faults.restarts.filter fun t => decide (now ≤ t + ticksOf 60)
  let s := { s with faults := { s.faults with coreUp := false, restart := some cause, restarts := recent } }
  let s := s.countFault 3 1
  if 3 ≤ recent.length then (s.writeDump 0x35 true).askReset else s

/-- The core resumes: CORE_RESTART is raised, the alert is set (R459), and a dump is written (R372). -/
def State.coreResumes (s : State) (cause : CoreFault) : State :=
  let s := { s with faults := { s.faults with coreUp := true, restart := none } }
  let s := s.raise 0x35 none unitCore (BitVec.ofNat 64 (coreCause cause)) (BitVec.ofNat 32 s.faults.restarts.length)
  (s.alert 7).writeDump 0x35 false

/-- WATCHDOG_EXPIRY: armed only while firmware runs (R369, R370). -/
def execWatchdogExpiry (s : State) : Host.Outcome State Fault Refusal :=
  .next (onlyIf s.faults.coreUp (fun s => s.startRestart .watchdog) s)

/-- CORE_RESTART: the restart in progress reaches step 2 (its image is checked) and step 4, or is abandoned for a new one;
with none in progress, an uncorrectable or parity error starts one first (R369, R370). -/
def execCoreRestart (cause : CoreFault) (imageOk : Bool) (s : State) : Host.Outcome State Fault Refusal :=
  .next (onlyIf (s.faults.coreUp || s.faults.restart.isSome) (fun s =>
    let s := if s.faults.restart.isSome then s else s.startRestart cause
    if imageOk then s.coreResumes (s.faults.restart.getD cause) else s.startRestart .duringRestart) s)

/-- CORE_RESTART_TIMEOUT: the restart is abandoned and a new one starts (R370). -/
def execCoreRestartTimeout (s : State) : Host.Outcome State Fault Refusal :=
  .next (onlyIf s.faults.restart.isSome (fun s => s.startRestart .duringRestart) s)

/-! ### Engine and die resets -/

/-- The engine that a unit kind and index name, if it is one of R366 (a VXU belongs to its array group). -/
def engineOf (kind index : Nat) : Option Engine :=
  match kind with
  | 0 | 1 => if h : index < 192 then some (.array ⟨index, h⟩) else none
  | 2 => if h : index < 8 then some (.dma ⟨index, h⟩) else none
  | 3 => if h : index < 8 then some (.fuu ⟨index, h⟩) else none
  | 5 => if h : index < 8 then some (.rte ⟨index, h⟩) else none
  | 8 => if h : index < 4 then some (.coll ⟨index, h⟩) else none
  | _ => none

/-- An engine reset is asked for; ENGINE_RESET performs it. -/
def State.askEngineReset (s : State) (e : Engine) : State :=
  if s.faults.engines.contains e then s else { s with faults := { s.faults with engines := s.faults.engines ++ [e] } }

/-- UNIT_RESET (R366, R382). -/
def execUnitReset (h : KcpHdr) (unitKind : BitVec 8) (unitIndex : W16) (s : State) : Host.Outcome State Fault Refusal :=
  .next <| KcpCmd.arrive
    { opcode := 0x0820, need := .none, cls := .device
      checks := fun _ => [((engineOf unitKind.toNat unitIndex.toNat).isNone, .badParam)]
      effect := fun s => done (((engineOf unitKind.toNat unitIndex.toNat).map s.askEngineReset).getD s) }
    (.unitReset h unitKind unitIndex) h s

def dieKind : Die → Nat
  | .cd _ => 0 | .bd _ => 1 | .io _ => 2
def dieIndex : Die → Nat
  | .cd n => n | .bd n => n | .io n => n

/-- The die that a kind and an index name (R382). -/
def dieOf (kind index : Nat) : Option Die :=
  match kind with
  | 0 => if h : index < 8 then some (.cd ⟨index, h⟩) else none
  | 1 => if h : index < 8 then some (.bd ⟨index, h⟩) else none
  | 2 => if h : index < 4 then some (.io ⟨index, h⟩) else none
  | _ => none

/-- Whether an address lies in the Reservoir of BD `n`. -/
def onBaseDie (n a : Nat) : Bool := decide (reservoirBase + n * 0x40000000 ≤ a) && decide (a < reservoirBase + (n + 1) * 0x40000000)

/-- The contexts that a die reset purges (R367): a lease or work on the compute die, a Reservoir region or shard work on
the base die, a collective in flight on the I/O die. -/
def State.dieContexts (s : State) (d : Die) : List Nat :=
  (s.ctxs.map (·.1)).filter fun c =>
    match d with
    | .cd n => (List.range 24).any (fun i => (s.array (24 * n + i)).holdsWork c) ||
        ((s.rte n).job.toList ++ (s.rte n).publish ++ (s.rte n).restart).any fun j => j.ctx = c
    | .bd n => (s.ctx c).regions.any (fun r => onBaseDie n r.2.1) || (s.fuu n).sweep.any fun w => w.1 = c
    | .io n => s.collOn c n.val

/-- Start a die reset (R367): a dump first, the purges, and for an I/O die its eight ports down. IO0 is a module warm reset. -/
def State.startDieReset (s : State) (d : Die) : State :=
  let s := s.writeDump 0x33 false
  if dieKind d = 2 && dieIndex d = 0 then s.askReset else
  let s := (s.dieContexts d).foldl (fun s c => s.purge c (s.faults.nextSeq - 1)) s
  let s := (s.countFault 2 1)
  let s := { s with faults := { s.faults with dies := if s.faults.dies.contains d then s.faults.dies else s.faults.dies ++ [d] } }
  match d with
  -- ports that carried frames are lost: their frames move as R280 says once the port hardware handles it
  | .io k => (List.range 8).foldl (fun s i => s.onPort (8 * k + i) Port.goDown) s
  | _ => s

/-- DIE_RESET (R367, R382). -/
def execDieReset (h : KcpHdr) (kind index : BitVec 8) (s : State) : Host.Outcome State Fault Refusal :=
  .next <| KcpCmd.arrive
    { opcode := 0x0821, need := .none, cls := .device
      checks := fun _ => [((dieOf kind.toNat index.toNat).isNone, .badParam)]
      effect := fun s => done s
      after := fun s => ((dieOf kind.toNat index.toNat).map s.startDieReset).getD s } (.dieReset h kind index) h s

/-! ### Known-answer tests that fail (R86) -/

/-- Address of an array's register block (R289). -/
def arrayRegs (a : Nat) : Nat := 0x200000000000 + 0x100 * a

/-- A failed test: KAT_FAILS, HALTED, SUSPECT_WINDOW with the contexts that fed the array since the last passing test and the
window's length (R86, R91). -/
def State.katFailed (s : State) (a : Nat) : State :=
  let x := s.array a
  let s := (s.onArray a fun x => { x with katRun := false, halted := true, katPassed := false, katFails := stick x.katFails
                                          katStuck := x.katStuck || decide (stick x.katFails = 0xFFFF) }).stuck x.katFails (arrayRegs a + 0x0C) 0
  let s := s.raise 0x01 none ⟨0, a⟩ x.fedBy (BitVec.ofNat 32 ((s.upNs - x.katNs) / 1000))
  -- the context's digests may disagree because of the window (R395)
  { s with ctxs := Tab.mapAll s.ctxs fun c k => if x.fedBy.getLsbD c then { k with folds := { k.folds with suspects := true } } else k }

/-- The repair state of an array from the repair log (R90): its spare map, trims that match it, retirement, and RESUME; the test that
comes before it is `restoreTest`. -/
def Boot.restoreArray (b : Boot) (n : Nat) : ArrayUnit :=
  match b.repairArr.find? (fun r => r.1 = n) with
  | some (_, ctl, ret) => { retired := ret, halted := ret, spareCtl := ctl, skewTrim := ctl &&& 0x9F9F9F9F }
  | none => { halted := false }

/-- The test that ends an array's restoration: one that fails leaves it halted and reports its window; one that passes opens the
next window (R86, R90). A retired array runs none. -/
def State.restoreTest (s : State) (n : Nat) (failed : Bool) : State :=
  if (s.array n).retired then s
  else if failed then s.katFailed n
  else s.onArray n fun x => { x with katPassed := true, fedBy := 0, katNs := s.upNs }

/-- The engine that takes over a virtual engine: the next one in service, in ascending order and round (log entry 34). -/
def nextEngine (ok : Nat → Bool) (v : Nat) : Nat := (((List.range 7).map fun i => (v + 1 + i) % 8).find? ok).getD v

/-- Root Engines after a boot: those of the repair log stay out of service, and their virtual engines run elsewhere (R180, R182). -/
def bootRtes (retired : List Nat) : Tab Rte :=
  (List.range 8).map fun n =>
    let out := retired.contains n
    (n, { inService := !out, ownMoved := out
          serves := if out then [] else retired.filter fun v => nextEngine (fun k => !retired.contains k) v = n })

/-- What a compute-die reset leaves of an array: registers and counters at their reset values, restored from the repair
log, and its tiles FREE (R90, R95, R101, R367); the contexts that held leases there have been purged. The window of the test that
follows reaches back over the reset (R86). -/
def State.resetArray (s : State) (n : Nat) : State :=
  s.setArray n { s.boot.restoreArray n with fedBy := (s.array n).fedBy, katNs := (s.array n).katNs }

/-- A fabric port after a reset of its die: its registers and counters return (R284, R285), its place in the map stays. -/
def State.resetPort (s : State) (p : Nat) : State :=
  s.onPort p fun x =>
    { state := if x.state = .retired then .retired else .down, record := x.record, lost := x.lost
      replay := if x.lost then x.replay else [], waiting := if x.lost then x.waiting else [] }

/-- The effect of a die reset's end (R313, R318, R367). The regulators of R298 keep RATE, BUCKET and TOKENS: they work in the
management domain (R412), which no die reset but IO0's resets (R15; the manual names no die for them: log entry 105). `katFailed`
are the compute die's arrays whose test of R90 failed. -/
def State.endDieReset (s : State) (d : Die) (katFailed : List (Fin 24)) : State :=
  match d with
  | .cd n =>
    let s := (List.range 24).foldl (fun s i => (s.resetArray (24 * n + i)).restoreTest (24 * n + i) (katFailed.any fun k => k.val = i)) s
    s.setRte n { inService := (s.rte n).inService, serves := (s.rte n).serves, ownMoved := (s.rte n).ownMoved }
  | .bd n =>
    let m := { s.mem with
      bytes := s.mem.bytes.filter fun e => !onBaseDie n e.1
      poison := s.mem.poison.filter fun p => !onBaseDie n p
      counters := s.mem.counters.filter fun k => k.1 / 8 / 4 ≠ n }
    { s with mem := m }.setFuu n {}
  | .io k => (List.range 8).foldl (fun s i => s.resetPort (8 * k + i)) s

/-- DIE_RESET_COMPLETE (R367): the die's units return to service and DIE_RESET is raised. -/
def execDieResetComplete (die : Die) (outcome : DieResetEnd) (s : State) : Host.Outcome State Fault Refusal :=
  .next (onlyIf (s.faults.dies.contains die) (fun s =>
    let s := s.endDieReset die outcome.katFailed
    let s := { s with faults := { s.faults with dies := s.faults.dies.filter (· ≠ die) } }
    s.raise 0x33 none unitModule (BitVec.ofNat 64 (dieKind die * 2 ^ 62 + dieIndex die * 2 ^ 59)) (BitVec.ofNat 32 outcome.us)) s)

/-! ### Peer Table and spares (R272, R382, R385) -/

/-- A Peer Table device entry (R272). -/
def peerEntry (state servedBy : Nat) (tagSet : Bool) (tag : Nat) : W64 :=
  BitVec.ofNat 64 (state * 2 ^ 61 + bit01 tagSet * 2 ^ 56 + tag * 2 ^ 32 + servedBy)

/-- PEER_SET (R382): writes STATE, SERIAL_TAG and SERVED_BY of an entry and sets its TAG_SET. -/
def execPeerSet (h : KcpHdr) (position : W16) (state : BitVec 8) (tag : BitVec 24) (servedBy : W16) (s : State) :
    Host.Outcome State Fault Refusal :=
  .next <| KcpCmd.arrive
    { opcode := 0x0812, need := .none, cls := .device
      checks := fun _ => [(decide (21504 ≤ position.toNat) || decide (5 ≤ state.toNat) || decide (2 ^ 15 ≤ servedBy.toNat), .badParam)]
      effect := fun s => done { s with fabric := { s.fabric with
        peers := Tab.put s.fabric.peers position.toNat (peerEntry state.toNat servedBy.toNat true tag.toNat) } }
      -- frames that waited for the position go out
      after := State.injectAll }
    (.peerSet h position state tag servedBy) h s

/-- SPARE_ASSIGN (R382, R385, R442): a spare with no context takes a position until the next module reset. -/
def execSpareAssign (h : KcpHdr) (position : W16) (s : State) : Host.Outcome State Fault Refusal :=
  .next <| KcpCmd.arrive
    { opcode := 0x0813, need := .none, cls := .device
      checks := fun s => [(decide (21504 ≤ position.toNat), .badParam),
                          (!(s.boot.slotValid && s.boot.slot.spare) || s.ctxs.any (fun c => c.2.state ≠ .free), .busy)]
      effect := fun s => done { s with fabric := { s.fabric with
        position := position.setWidth 15, isSpare := false, assigned := true } } } (.spareAssign h position) h s

end Sys2Proof.Machine
end

