-- ==== Sys2Proof/Machine/Power.lean ====
section
/-!
DEFINITION. Input power, hold-up, clock rate, load shaping and temperature: R399 to R411 and the events of R424.
-/
namespace Sys2Proof.Machine

open Sys2Proof

/-- The power controller acts while no orderly stop has begun. -/
def State.powered (s : State) : Bool := s.power.stopCause.isNone

def State.onPower (s : State) (f : Power → Power) : State := { s with power := f s.power }

/-- Set one of the six SEEN bits (R422). -/
def Power.see (p : Power) (bit : Nat) : Power := { p with seen := p.seen ||| BitVec.ofNat 6 (2 ^ bit) }

/-- Take an input reading, in 10 mV. -/
def Power.reading (p : Power) (v : W16) : Power :=
  { p with vin := v, vinMin := if v.toNat < p.vinMin.toNat then v else p.vinMin, vinMax := if p.vinMax.toNat < v.toNat then v else p.vinMax }

/-! ### Orderly stop (R402, R403) -/

def stopCode : StopCause → Nat
  | .holdup => 0 | .overVoltage => 1 | .thermal => 2 | .holdupFault => 3

/-- Step 1 of an orderly stop: every run enable is cleared and the fabric ports stop sending. The first cause met stands. -/
def State.startStop (s : State) (c : StopCause) : State :=
  if s.power.stopCause.isSome then s else
  let s := s.onPower fun p => { p with stopCause := some c, pstate := .stopping, enables := 0 }
  { s with boot := { s.boot with stage := 12 },
           fabric := { s.fabric with ports := Tab.mapAll s.fabric.ports fun _ p =>
             if p.state = .retired then p else { p with state := .down, lanes := 0 } } }

/-- Steps 2 and 3: one power fault record of the newest 256, POWER_STOP on the host ports, the management alert, the buffers
flushed, and the rails go down. -/
def State.finishStop (s : State) (c : StopCause) : State :=
  let p := s.power
  let r : PowerRecord :=
    { cause := stopCode c, time := s.now, vinMin := p.vinMin, vinMax := p.vinMax, pBefore := p.pIn, tMax := p.tMax,
      rideUs := p.rideUs, eventSeq := s.faults.nextSeq }
  let log := s.boot.powerLog ++ [r]
  let s := { s with boot := { s.boot with powerLog := log.drop (log.length - 256) } }
  let s := (s.raise 0x63 none unitModule (BitVec.ofNat 64 (stopCode c)) r.eventSeq).alert 4
  { s with mem := s.mem.flush, power := { s.power with railsDown := true } }

/-- The 64 bytes of a power fault record (R403). -/
def PowerRecord.bytes (r : PowerRecord) : List Byte :=
  let b := le 4 0x54465750 ++ le 1 r.cause ++ le 3 0 ++ le 8 r.time.toNat ++ le 2 r.vinMin.toNat ++ le 2 r.vinMax.toNat ++
    le 2 r.pBefore ++ le 1 r.tMax ++ le 1 0 ++ le 4 r.rideUs.toNat ++ le 4 r.eventSeq.toNat ++ List.replicate 28 0
  b ++ le 4 (crc32c b).toNat

/-- ORDERLY_STOP (R402): a stop already begun keeps its first cause (R426); once its rails are down it is over. -/
def execOrderlyStop (cause : StopCause) (s : State) : Host.Outcome State Fault Refusal :=
  .next (onlyIf (!s.power.railsDown) (fun s =>
    let s := s.startStop cause
    s.finishStop (s.power.stopCause.getD cause)) s)

/-! ### The input conditions of R399 -/

/-- INPUT_THROTTLE: entered below 62.0 V. -/
def execInputThrottle (vin : W16) (s : State) : Host.Outcome State Fault Refusal :=
  .next (onlyIf (s.powered && !s.power.throttle && decide (vin.toNat < 6200)) (fun s =>
    (s.onPower fun p => ({ p with throttle := true }.reading vin).see 3).raise 0x60 none unitModule (vin.setWidth 64) 1) s)

/-- INPUT_THROTTLE_END: left at 62.0 V or more for 1 ms. -/
def execInputThrottleEnd (vin : W16) (s : State) : Host.Outcome State Fault Refusal :=
  .next (onlyIf (s.powered && s.power.throttle && decide (6200 ≤ vin.toNat)) (fun s =>
    (s.onPower fun p => { p with throttle := false }.reading vin).raise 0x60 none unitModule (vin.setWidth 64) 0) s)

/-- INPUT_CUT: entered below 58.0 V; the run clock enables are cleared and work keeps its state (R400). -/
def execInputCut (vin : W16) (s : State) : Host.Outcome State Fault Refusal :=
  .next (onlyIf (s.powered && !s.power.cut && decide (vin.toNat < 5800)) (fun s =>
    (s.onPower fun p => ({ p with cut := true, before := p.pstate, pstate := .ride, enables := 0, vinMin := vin }.reading vin).see 4).raise
      0x61 none unitModule (vin.setWidth 64) 0) s)

/-- The run enables of the dies whose DVFS PLL is ready (R414, R416). -/
def Power.runEnables (p : Power) : BitVec 8 :=
  (List.range 8).foldl (fun (m : BitVec 8) n => if (Tab.get {} p.cdPll n).ready then m ||| BitVec.ofNat 8 (2 ^ n) else m) 0

/-- INPUT_RECOVERED: left at 60.0 V or more for 100 µs; the enables return, but for a die whose PLL has lost lock (R414), and the start
ramp applies from the draw measured during the cut (R400, R409). -/
def execInputRecovered (vin : W16) (rideUs : W32) (s : State) : Host.Outcome State Fault Refusal :=
  .next (onlyIf (s.powered && s.power.cut && decide (6000 ≤ vin.toNat)) (fun s =>
    (s.onPower fun p => { p with cut := false, pstate := p.before, enables := p.runEnables, rideUs := rideUs, ramp := true,
                                 pTarget := p.pIn, envFrac := 0 }.reading vin).raise 0x62 none unitModule (rideUs.setWidth 64) 0) s)

/-- SURGE: above 80.0 V for at most 10 ms; no action but the record of it. -/
def execSurge (vinMax : W16) (durationUs : W32) (s : State) : Host.Outcome State Fault Refusal :=
  .next (onlyIf (s.powered && decide (8000 < vinMax.toNat) && decide (durationUs.toNat ≤ 10000)) (fun s =>
    (s.onPower fun p => { p with vinMax := if p.vinMax.toNat < vinMax.toNat then vinMax else p.vinMax }.see 5).raise
      0x64 none unitModule (vinMax.setWidth 64) durationUs) s)

/-- SURGE_TIMEOUT: a surge of more than 10 ms is an over-voltage. -/
def execSurgeTimeout (vinMax : W16) (s : State) : Host.Outcome State Fault Refusal :=
  .next (onlyIf (s.powered && decide (8000 < vinMax.toNat)) (fun s =>
    (s.onPower fun p => (p.reading vinMax).see 5).startStop .overVoltage) s)

/-- OVER_VOLTAGE: above 90.0 V. -/
def execOverVoltage (vin : W16) (s : State) : Host.Outcome State Fault Refusal :=
  .next (onlyIf (s.powered && decide (9000 < vin.toNat)) (fun s => (s.onPower fun p => p.reading vin).startStop .overVoltage) s)

/-- HOLDUP_EXHAUSTED: 3 J or less while the cut is in force. HOLDUP is kept in 10 mJ. -/
def execHoldupExhausted (s : State) : Host.Outcome State Fault Refusal :=
  .next (onlyIf (s.powered && s.power.cut) (fun s => (s.onPower fun p => { p with holdup := min p.holdup 300 }).startStop .holdup) s)

/-- The measured capacity of the hold-up store: below 9 J it is degraded (R401). -/
def State.measureHoldup (s : State) (milliJoules : Nat) : State :=
  let s := s.onPower fun p => { p with capacity := milliJoules, holdup := milliJoules / 10 }
  if milliJoules < 9000 then (s.raise 0x6B none unitModule (BitVec.ofNat 64 milliJoules) 0).alert 6 else s

/-- HOLDUP_MEASURE (R401). -/
def execHoldupMeasure (milliJoules : Nat) (s : State) : Host.Outcome State Fault Refusal :=
  .next (onlyIf s.powered (fun s => s.measureHoldup milliJoules) s)

/-! ### DVFS level (R405, R406, R411) -/

/-- The thermal limit after one evaluation: one level down per 1 ms above 95 °C, one level up per 10 ms below 90 °C. -/
def thermalLimit (old : Nat) (r : PowerReading) : Nat :=
  if 95 < r.tMax then old - 1
  else if r.tMax < 90 && decide (10 ≤ r.coolMs) && decide (r.coolMs % 10 = 0) then min 7 (old + 1)
  else old

/-- The lowest of the limits (R405). -/
def State.levelTarget (s : State) (thermal : Nat) (r : PowerReading) : Nat :=
  min (min s.ceil r.capLevel) (min (min (if s.power.throttle then r.iThrottle else 7) thermal) r.envLevel)

/-- DVFS_EVALUATE (R405, R411): the lowest limit becomes the level that the sequencer moves to; THERMAL_LIMIT is raised, and its
alert set with it (R460), when the thermal limit first falls below L7 (R424), and above 110 °C an orderly stop starts. A limit
binds where it is the level and lies below DVFS_CEIL. -/
def execDvfsEvaluate (r : PowerReading) (s : State) : Host.Outcome State Fault Refusal :=
  .next (onlyIf s.powered (fun s =>
    let th := thermalLimit s.power.thermal r
    let t := s.levelTarget th r
    let binds := fun (level : Nat) => decide (level = t) && decide (level < s.ceil)
    let capped := binds r.capLevel
    let began := decide (s.power.thermal = 7) && decide (th < 7)
    let s := s.onPower fun p =>
      let p := { p with thermal := th, target := t, tMax := r.tMax, tSensor := r.tSensor, capped := capped
                        throttled := p.throttle && binds r.iThrottle, cooled := binds th, enveloped := binds r.envLevel
                        shaping := binds r.envLevel || decide (0 < p.pBurn),
                        halfIdle := decide (100 < r.tMax) && decide (p.level = 0) }
      let p := if capped then p.see 1 else p
      if th < 7 then p.see 2 else p
    let s := if began then (s.alert 5).raise 0x65 none unitModule (BitVec.ofNat 64 r.tMax) (BitVec.ofNat 32 r.tSensor) else s
    if 110 < r.tMax then s.startStop .thermal else s) s)

/-- DVFS_STEP: the sequencer completes one step toward the target (R406). -/
def execDvfsStep (s : State) : Host.Outcome State Fault Refusal :=
  .next (onlyIf s.powered (fun s => s.onPower fun p =>
    { p with level := if p.level < p.target then p.level + 1 else if p.target < p.level then p.level - 1 else p.level }) s)

/-- THERMAL_TRIP: above 110 °C (R411). -/
def execThermalTrip (tMax sensor : Nat) (s : State) : Host.Outcome State Fault Refusal :=
  .next (onlyIf (s.powered && decide (110 < tMax)) (fun s =>
    (s.onPower fun p => { p with tMax := tMax, tSensor := sensor }).startStop .thermal) s)

/-- INPUT_POWER_OVER_LIMIT: a 100 µs average above 3,800 W starts pacing (R405). -/
def execInputPowerOverLimit (watts : Nat) (s : State) : Host.Outcome State Fault Refusal :=
  .next (onlyIf (s.powered && decide (3800 < watts)) (fun s => s.onPower fun p => { p with pacing := true }) s)

/-! ### Load shaping (R407 to R410) -/

/-- Move a value toward a goal by at most `up` or `down`. -/
def approach (x goal up down : Nat) : Nat := if x < goal then min goal (x + up) else max goal (x - down)

/-- One millisecond of the envelope, in tenths of a watt: SHAPE_RATE and START_RATE are in W per 10 ms, so a tick moves by
that many tenths (R407, R409). T starts at the measured draw. The throttle's limit is 58 A at the input voltage (R399). -/
def State.envelope (s : State) (demand pIn maxBurn : Nat) : Power :=
  let p := s.power
  let shape := (s.setting 0x12).toNat
  let start := (s.setting 0x13).toNat
  let cap := approach (p.capForce * 10 + p.capFrac) ((s.setting 0x10).toNat * 10) shape shape
  let limit := if p.throttle then min cap (58 * p.vin.toNat / 10) else cap
  let from' := if p.shaped then p.pTarget * 10 + p.envFrac else pIn * 10
  let t := min limit (approach from' (demand * 10) (if p.ramp then start else shape) shape)
  let gap := (t - demand * 10) / 10
  let burn := min gap maxBurn
  let p := { p with
    capForce := cap / 10, capFrac := cap % 10, pTarget := t / 10, envFrac := t % 10, pIn := pIn, pBurn := burn, shaped := true
    ramp := p.ramp && decide (t < demand * 10) && decide (t < cap)
    shaping := decide (0 < burn) || decide (t < demand * 10)
    pacing := decide (t < demand * 10) || decide (3800 < pIn)
    counters := Tab.count (Tab.count (Tab.count p.counters 0 burn) 1 pIn) 2 (bit01 (decide (maxBurn < gap))) }
  if maxBurn < gap then p.see 0 else p

/-- ENVELOPE_UPDATE (R407): BURN_MJ and ENERGY_MJ grow by the watts of the millisecond, and a fall that burn cannot fill counts in
SHAPE_SHORT_MS (R408, R423). During an input cut only the draw is measured: no burn runs, and T starts from that draw when the cut is
left (R400, R409). -/
def execEnvelopeUpdate (demand pIn maxBurn : Nat) (s : State) : Host.Outcome State Fault Refusal :=
  .next (onlyIf s.powered (fun s =>
    if s.power.cut then s.onPower fun p => { p with pIn := pIn, pBurn := 0, counters := Tab.count p.counters 1 pIn }
    else { s with power := s.envelope demand pIn maxBurn }) s)

end Sys2Proof.Machine
end

