-- ==== Sys2Proof/Machine/Clock.lean ====
section
/-!
DEFINITION. Clock sources (R412 to R415) and the time counter (R417 to R419).
-/
namespace Sys2Proof.Machine

open Sys2Proof

/-! ### Qualifying and locking -/

/-- Eight window counts within ±2 % of their mean (R413). -/
def qualified (ws : List Nat) : Bool :=
  let sum := ws.sum
  decide (0 < sum) && ws.all fun e => decide (50 * (8 * e - sum) ≤ sum) && decide (50 * (sum - 8 * e) ≤ sum)

/-- A window joins the run; the eighth decides, and a run that fails starts again. -/
def ClockRef.window (r : ClockRef) (edges : Nat) : ClockRef :=
  if r.ready then r else
  let ws := r.windows ++ [edges]
  if ws.length < 8 then { r with windows := ws }
  else if qualified ws then { windows := [], ready := true } else { windows := [], ready := false }

/-- REF_QUALIFY_WINDOW (R413). -/
def execRefQualifyWindow (edges : Nat) (s : State) : Host.Outcome State Fault Refusal :=
  .next (s.onPower fun p => { p with reference := p.reference.window edges })

/-- REF_QUALIFY_TIMEOUT (R413): the module stays on its ring oscillators, holds every port down and alerts. -/
def execRefQualifyTimeout (s : State) : Host.Outcome State Fault Refusal :=
  .next (onlyIf (!s.power.reference.ready) (fun s =>
    let s := s.alert 0
    { s with kcp := { s.kcp with hp0 := { s.kcp.hp0 with up := false }, hp1 := { s.kcp.hp1 with up := false } },
             fabric := { s.fabric with ports := Tab.mapAll s.fabric.ports fun _ p =>
               if p.state = .retired then p else { p with state := .down, lanes := 0 } } }) s)

def Power.pll (p : Power) : Pll → ClockRef
  | .dvfs n => Tab.get {} p.cdPll n
  | .serdes n => Tab.get {} p.ioPll n
  | .hbm n => Tab.get {} p.hbmPll n
  | .management => p.mgmtPll
  | .reference => p.reference

def Power.setPll (p : Power) (l : Pll) (r : ClockRef) : Power :=
  match l with
  | .dvfs n => { p with cdPll := Tab.put p.cdPll n r }
  | .serdes n => { p with ioPll := Tab.put p.ioPll n r }
  | .hbm n => { p with hbmPll := Tab.put p.hbmPll n r }
  | .management => { p with mgmtPll := r }
  | .reference => { p with reference := r }

/-- A lock window: four successive ones within ±500 ppm set the flag, one outside clears it (R414). -/
def ClockRef.lockWindow (r : ClockRef) (ppm : Int) : ClockRef :=
  if ppm ≤ 500 && -500 ≤ ppm then
    if r.ready then r
    else if 3 ≤ r.windows.length then { windows := [], ready := true } else { r with windows := r.windows ++ [0] }
  else { windows := [], ready := false }

/-- PLL_LOCK_WINDOW (R414): of a PLL; the reference qualifies under R413 alone. -/
def execPllLockWindow (pll : Pll) (ppmError : Int) (s : State) : Host.Outcome State Fault Refusal :=
  .next (onlyIf (pll ≠ .reference) (fun s => s.onPower fun p => p.setPll pll ((p.pll pll).lockWindow ppmError)) s)

/-- Domain and index of a CLOCK_FAULT event (R424). -/
def pllDomain : Pll → Nat × Nat
  | .dvfs n => (0, n) | .serdes n => (1, n) | .hbm n => (2, n) | .management => (3, 0) | .reference => (4, 0)

/-- The run enables of CD`n` and BD`n`. -/
def Power.enable (p : Power) (n : Nat) (on : Bool) : Power :=
  let b : BitVec 8 := BitVec.ofNat 8 (2 ^ n)
  { p with enables := if on && !p.cut then p.enables ||| b else p.enables &&& ~~~b }

/-- CLOCK_FAULT (R414): the flag clears and the event is raised. A DVFS PLL clears its dies' run enables, and its second loss
within 60 s leads to a die reset; the management PLL or the reference leads to a module warm reset. -/
def execClockFault (pll : Pll) (s : State) : Host.Outcome State Fault Refusal :=
  .next (onlyIf s.powered (fun s =>
    let s := s.onPower fun p => p.setPll pll {}
    let d := pllDomain pll
    let s := s.raise 0x66 none unitModule (BitVec.ofNat 64 d.1) (BitVec.ofNat 32 d.2)
    match pll with
    | .dvfs n =>
      let now := s.power.ticks
      let again := match Tab.find? s.power.lastLoss n with
        | some t => decide (now ≤ t + ticksOf 60)
        | none => false
      let s := s.onPower fun p => { p.enable n false with lastLoss := Tab.put p.lastLoss n now }
      if again then s.startDieReset (.cd n) else s
    | .management | .reference => s.askReset
    | _ => s) s)

/-- PLL_RELOCK (R414): the enables return; a failed relock leads to a die reset of the compute die. -/
def execPllRelock (n : Fin 8) (locked : Bool) (s : State) : Host.Outcome State Fault Refusal :=
  .next (onlyIf (s.powered && !(Tab.get {} s.power.cdPll n).ready) (fun s =>
    if locked then s.onPower fun p => (p.setPll (.dvfs n) { ready := true }).enable n true
    else s.startDieReset (.cd n)) s)

/-! ### The time counter -/

/-- The offset of an edge: the nanosecond field taken into −500,000,000 to 499,999,999 (R418). -/
def Power.edgeError (p : Power) : Int := if p.nanos < 500000000 then p.nanos else (p.nanos : Int) - 1000000000

/-- PPS_ERR saturates at ±(2^27 − 1). -/
def clampErr (e : Int) : Int := max (-(2 ^ 27 - 1)) (min (2 ^ 27 - 1) e)

def within (x : Nat) (goal tol : Nat) : Bool := decide (goal ≤ x + tol) && decide (x ≤ goal + tol)

/-- The state LOCKED begins with an edge: PPS_LOCKED carries its offset (R424). -/
def State.ppsLock (s : State) (e : Int) : State :=
  if s.power.pps = .locked then s else
  (s.onPower fun p => { p with pps := .locked }).raise 0x68 none unitModule (BitVec.ofInt 64 e) 0

/-- A step to an edge: the nanosecond field becomes 0 and the seconds advance if the offset was negative; TIME_STEPPED and
STEPPED (R418). The edge counts as the last accepted one (log entry 20). -/
def State.ppsStep (s : State) (e : Int) : State :=
  let s := s.onPower fun p => { p with nanos := 0, frac := 0, seconds := if e < 0 then p.seconds + 1 else p.seconds,
                                       stepped := true, ppsRun := 0, ppsSince := 0, ppsSteps := p.ppsSteps + 1 }
  (s.raise 0x69 none unitModule (BitVec.ofInt 64 (-e)) 0).ppsLock e

/-- An accepted edge: the slew removes the offset over the next second, or a pending TIME_SET takes effect, which removes it
at once (R418, R419). -/
def State.ppsAccept (s : State) (e : Int) : State :=
  let s := s.onPower fun p => { p with ppsRun := 0, ppsSince := 0 }
  let s := match s.power.pendSec with
    | some sec => (s.setSeconds sec 0).onPower fun p => { p with frac := 0, slewPpb := 0 }
    | none => s.onPower fun p => { p with slewPpb := -e }
  s.ppsLock e

/-- PPS_EDGE (R418): `sinceLastNs` is the time since the edge before it. -/
def execPpsEdge (sinceLastNs : Nat) (s : State) : Host.Outcome State Fault Refusal :=
  .next (onlyIf s.powered (fun s =>
    let e := s.power.edgeError
    let since := s.power.ppsSince + sinceLastNs
    let run := if 0 < s.power.ppsRun && within sinceLastNs 1000000000 1000 then s.power.ppsRun + 1 else 1
    let s := s.onPower fun p => { p with ppsErr := clampErr e, ppsAt := some p.ticks }
    if s.power.pps = .free then s.ppsStep e
    else if decide (e.natAbs ≤ 200000) && within since 1000000000 200000 then s.ppsAccept e
    else
      let s := s.onPower fun p => { p with counters := Tab.count p.counters 3 1, ppsRun := run, ppsSince := since }
      if 3 ≤ run then s.ppsStep e else s) s)

/-- PPS_LOST: no accepted edge for 2.5 s (R418). -/
def execPpsLost (s : State) : Host.Outcome State Fault Refusal :=
  .next (onlyIf (s.power.pps = .locked) (fun s =>
    (s.onPower fun p => { p with pps := .holdover }).raise 0x67 none unitModule 0 0) s)

/-- The nanosecond field wraps: the seconds advance, or take a pending TIME_SET once the PPS state has left LOCKED (R417,
R419). `nanos` is what the field holds after the wrap. -/
def State.wrapNanos (s : State) (nanos : Nat) : State :=
  match s.power.pendSec with
  | some sec =>
    if s.power.pps = .locked then s.onPower fun p => { p with seconds := p.seconds + 1, nanos := nanos }
    else s.setSeconds sec nanos
  | none => s.onPower fun p => { p with seconds := p.seconds + 1, nanos := nanos }

/-- NANOSECOND_FIELD_WRAP (R417, R419). -/
def execNanosecondFieldWrap (s : State) : Host.Outcome State Fault Refusal := .next (s.wrapNanos 0)

/-- One management tick of the time counter: 2.5 ns × (1 + a), the part below 1 ns carried (R417). -/
def State.tickTime (s : State) : State :=
  let p := s.power
  let f := (p.frac : Int) + 25000000000 + 25 * p.slewPpb
  let n := p.nanos + (f / 10000000000).toNat
  let s := s.onPower fun p => { p with frac := (f % 10000000000).toNat, ticks := p.ticks + 1 }
  if n < 1000000000 then s.onPower fun p => { p with nanos := n } else s.wrapNanos (n - 1000000000)

end Sys2Proof.Machine
end

