-- ==== Sys2Proof/Machine/Identity.lean ====
section
/-!
DEFINITION. Firmware slots and their update, owner keys, identity and attestation: R427 to R440.
-/
namespace Sys2Proof.Machine

open Sys2Proof

/-! ### Slots (R428 to R430) -/

/-- Bytes of a slot; erased flash reads 0xFF. -/
def FwSlot.read (f : FwSlot) (o n : Nat) : List Byte := (List.range n).map fun i => Tab.get 0xFF f.bytes (o + i)
def FwSlot.nat (f : FwSlot) (o n : Nat) : Nat := leNat (f.read o n)
def FwSlot.write (f : FwSlot) (o : Nat) (bs : List Byte) : FwSlot :=
  { f with bytes := bs.zipIdx.foldl (fun t e => Tab.put t (o + e.2) e.1) f.bytes }

def FwSlot.svn (f : FwSlot) : Nat := f.nat 0x0006 2
/-- A digest in a little-endian structure, as the 256-bit number its bytes spell. -/
def FwSlot.imageDigest (f : FwSlot) : BitVec 256 := BitVec.ofNat 256 (f.nat 0x0010 32)

def Boot.slot? (b : Boot) (i : Nat) : FwSlot := if i = 0 then b.slotA else b.slotB
def Boot.setSlot (b : Boot) (i : Nat) (f : FwSlot) : Boot := if i = 0 then { b with slotA := f } else { b with slotB := f }

/-- A digest of a byte string equals a 256-bit field. -/
def digestOf (bs : List Byte) : BitVec 256 := shake256 bs

/-- Validity of a slot (R430; with an active owner key, R437). `sigOk`: the signatures that the rule asks for verify. -/
def Boot.slotValidNow (b : Boot) (f : FwSlot) (sigOk : Bool) : Bool :=
  let img := f.nat 0x0008 4
  let flags := f.nat 0x000C 4
  decide (f.nat 0 4 = 0x4C454F58) && decide (f.nat 4 2 = 1) && decide (flags < 2) &&
  (f.read 0x0030 16).all (· = 0) && (f.read 0x0741 0xBF).all (· = 0) && (f.read 0x1200 0xE00).all (· = 0) &&
  decide (digestOf (f.read 0x0040 1793) = b.vendorKey) && sigOk &&
  decide (1 ≤ img) && decide (img ≤ 50331648) && decide (f.imageDigest = digestOf (f.read 0x2000 img)) &&
  decide (f.svn ≤ 64) && decide (b.rollback ≤ f.svn) &&
  (match b.activeOwner with
   | some i => decide (flags = 1) && decide (digestOf b.ownerPub = b.ownerDigest.getD i 0)
   | none => true)

/-! ### Firmware update (R434) -/

/-- A write of the boot state goes to the other copy, with the next sequence number (R431). -/
def Boot.rewrite (b : Boot) : Boot := { b with bootSeq := b.bootSeq + 1 }

/-- FW_BEGIN: the slot is erased first; the slot that booted is BUSY (R434, R448). -/
def execFwBegin (h : KcpHdr) (slot : BitVec 8) (bytes : W32) (s : State) : Host.Outcome State Fault Refusal :=
  .next <| KcpCmd.arrive
    { opcode := 0x0920, need := .none, cls := .device
      checks := fun s => [(decide (2 ≤ slot.toNat) || decide (bytes.toNat < 8192) || decide (50339840 < bytes.toNat), .badParam),
                          (decide (slot.toNat = s.boot.booted.val), .busy)]
      effect := fun s => done { s with boot := { s.boot.setSlot slot.toNat {} with
        fwUpdate := some (if slot = 0 then 0 else 1, bytes.toNat) } } } (.fwBegin h slot bytes) h s

/-- FW_WRITE. -/
def execFwWrite (h : KcpHdr) (offset : W32) (data : List Byte) (s : State) : Host.Outcome State Fault Refusal :=
  .next <| KcpCmd.arrive
    { opcode := 0x0921, need := .none, cls := .device
      checks := fun s =>
        match s.boot.fwUpdate with
        | none => [(true, .notReady)]
        | some (_, n) => [(decide (n < offset.toNat + data.length), .badParam)]
      effect := fun s =>
        match s.boot.fwUpdate with
        | none => done s
        | some (i, _) => done { s with boot := s.boot.setSlot i ((s.boot.slot? i).write offset.toNat data) } }
    (.fwWrite h offset data) h s

/-- FW_END: the slot is checked under R430; FW_STAGED (R447). Without FW_BEGIN there is nothing to end: NOT_READY (log entry 17). -/
def execFwEnd (h : KcpHdr) (sigOk : Bool) (s : State) : Host.Outcome State Fault Refusal :=
  .next <| KcpCmd.arrive
    { opcode := 0x0922, need := .none, cls := .device
      checks := fun s =>
        match s.boot.fwUpdate with
        | none => [(true, .notReady)]
        | some (i, _) => [(!s.boot.slotValidNow (s.boot.slot? i) sigOk, .badParam)]
      effect := fun s =>
        match s.boot.fwUpdate with
        | none => done s
        | some (i, _) =>
          let f := s.boot.slot? i
          let s := { s with boot := { s.boot with fwUpdate := none } }
          done (s.raise 0x82 none unitModule (BitVec.ofNat 64 f.svn) (BitVec.ofNat 32 i.val))
            (be 2 f.svn ++ be 2 0 ++ be 32 f.imageDigest.toNat) } (.fwEnd h sigOk) h s

/-- FW_ACTIVATE: PREF and a trial, effective at the next module reset, also while contexts run (R448); a slot being written is not valid. -/
def execFwActivate (h : KcpHdr) (slot : BitVec 8) (sigOk : Bool) (s : State) : Host.Outcome State Fault Refusal :=
  .next <| KcpCmd.arrive
    { opcode := 0x0923, need := .none, cls := .device
      checks := fun s => [(decide (2 ≤ slot.toNat) || !s.boot.slotValidNow (s.boot.slot? slot.toNat) sigOk ||
        (s.boot.fwUpdate.any fun u => u.1.val = slot.toNat), .badParam)]
      effect := fun s => done { s with boot := { s.boot.rewrite with pref := if slot = 0 then 0 else 1, trial := true, tryCount := 0 } } }
    (.fwActivate h slot sigOk) h s

/-- SVN of the image that booted. -/
def Boot.runningSvn (b : Boot) : Nat := (b.slot? b.booted).svn

/-- FW_COMMIT: the trial is cleared; ADVANCE 1 burns ROLLBACK up to the running SVN. KCP is not accepted before BOOT_DONE. -/
def execFwCommit (h : KcpHdr) (advance : BitVec 8) (s : State) : Host.Outcome State Fault Refusal :=
  .next <| KcpCmd.arrive
    { opcode := 0x0924, need := .none, cls := .device
      checks := fun s => [(decide (2 ≤ advance.toNat), .badParam), (decide (s.boot.stage < 9), .notReady)]
      effect := fun s =>
        let rb := if advance = 1 then max s.boot.rollback (min 64 s.boot.runningSvn) else s.boot.rollback
        let s := { s with boot := { s.boot.rewrite with trial := false, rollback := rb } }
        done (s.raise 0x83 none unitModule (BitVec.ofNat 64 rb) (BitVec.ofNat 32 s.boot.booted.val)) (be 1 rb ++ be 3 0) }
    (.fwCommit h advance) h s

/-! ### Owner keys (R435) -/

/-- The lowest unused owner slot. -/
def Boot.unusedOwner (b : Boot) : Option Nat := (List.range 4).find? fun i => b.ownerState.getD i 0 = 0

/-- Burn a key's digest into an unused slot and make it active. -/
def Boot.enroll (b : Boot) (i : Nat) (pub : List Byte) : Boot :=
  { b with ownerPub := pub, ownerDigest := b.ownerDigest.set i (digestOf pub), ownerState := b.ownerState.set i 1 }

/-- Revoke the active slot. -/
def Boot.revoke (b : Boot) : Boot :=
  match b.activeOwner with
  | some i => { b with ownerState := b.ownerState.set i 3 }
  | none => b

/-- OWNER_CHANGED names the active slot, or 0xFF, and the opcode (R447). -/
def State.ownerChanged (s : State) (opcode : W32) : State :=
  s.raise 0x84 none unitModule (BitVec.ofNat 64 (s.boot.activeOwner.getD 0xFF)) opcode

def Boot.enrollNext (b : Boot) (pub : List Byte) : Boot := (b.unusedOwner.map fun i => b.enroll i pub).getD b

/-- OWNER_ENROLL. -/
def execOwnerEnroll (h : KcpHdr) (pub : List Byte) (s : State) : Host.Outcome State Fault Refusal :=
  .next <| KcpCmd.arrive
    { opcode := 0x0930, need := .none, cls := .device
      checks := fun s => [(!s.mgmt.enrollEn || s.ownerActive, .authFail), (s.boot.unusedOwner.isNone, .tableFull)]
      effect := fun s => done ({ s with boot := s.boot.enrollNext pub }.ownerChanged 0x0930) } (.ownerEnroll h pub) h s

/-- OWNER_REPLACE: `sigOk`, the signature by the active key over SERIAL, opcode and NEW_PUB. -/
def execOwnerReplace (h : KcpHdr) (pub sig : List Byte) (sigOk : Bool) (s : State) : Host.Outcome State Fault Refusal :=
  .next <| KcpCmd.arrive
    { opcode := 0x0931, need := .none, cls := .device
      checks := fun s => [(!s.ownerActive || !sigOk, .authFail), (s.boot.unusedOwner.isNone, .tableFull)]
      effect := fun s => done ({ s with boot := s.boot.revoke.enrollNext pub }.ownerChanged 0x0931) } (.ownerReplace h pub sig sigOk) h s

/-- OWNER_REMOVE. -/
def execOwnerRemove (h : KcpHdr) (sig : List Byte) (sigOk : Bool) (s : State) : Host.Outcome State Fault Refusal :=
  .next <| KcpCmd.arrive
    { opcode := 0x0932, need := .none, cls := .device
      checks := fun s => [(!s.ownerActive || !sigOk, .authFail)]
      effect := fun s => done ({ s with boot := s.boot.revoke }.ownerChanged 0x0932) } (.ownerRemove h sig sigOk) h s

/-! ### Identity and attestation (R438 to R440) -/

def Boot.rackId (b : Boot) : Nat := if b.slotValid then b.slot.rackId.toNat else 0

/-- IDENT_INFO. -/
def execIdentInfo (h : KcpHdr) (s : State) : Host.Outcome State Fault Refusal :=
  .next <| KcpCmd.arrive
    { opcode := 0x0910, need := .none, cls := .device
      effect := fun s => done s (be 8 s.boot.serial.toNat ++ be 2 s.boot.slotA.svn ++ be 2 s.boot.slotB.svn ++ be 1 s.boot.rollback ++
        be 1 s.boot.booted.val ++ be 1 (s.boot.activeOwner.getD 0xFF) ++ be 1 0 ++ be 4 s.boot.rackId) } (.identInfo h) h s

/-- IDENT_KEY_READ: the public key with its certificate. -/
def execIdentKeyRead (h : KcpHdr) (s : State) : Host.Outcome State Fault Refusal :=
  .next <| KcpCmd.arrive
    { opcode := 0x0911, need := .none, cls := .device
      effect := fun s => done s (padTo 1793 s.boot.identPub ++ be 3 0 ++ padTo 1280 s.boot.mfgSig) } (.identKeyRead h) h s

/-- The bytes of a record in device memory (R9). -/
def recBytes (r : Rec) : List Byte := r.flatMap fun w => le 8 w.toNat

/-- The bytes of one directory structure of a loaded program, by KIND (R337). -/
def Program.structure (p : Program) (kind : Nat) : List Byte :=
  match kind with
  | 1 => recBytes p.layout
  | 2 => recBytes p.placement
  | 3 => recBytes p.update
  | 4 => p.layers.flatMap recBytes
  | 5 => p.stats.flatMap recBytes
  | 6 => recBytes p.root
  | 7 => p.grids.flatMap recBytes
  | 8 => recBytes p.fences
  | 9 => recBytes p.leases
  | 10 => p.cistern.flatMap recBytes
  | 11 => recBytes (p.recovery.getD [])
  | _ => []

/-- M5: SHAKE256 of the context's loaded structures in directory order; zero without a context or program (R439). -/
def State.measureProgram (s : State) (c : Nat) : BitVec 256 :=
  match (s.ctx c).program with
  | none => 0
  | some p => digestOf (p.dir.flatMap fun e => p.structure (e.field 0 63 48))

/-- The repair log as numbers (R428): repairs of arrays and engines, and the order of fences. -/
def State.repairLog (s : State) : List Nat :=
  s.boot.repairArr.flatMap (fun r => [r.1, r.2.1.toNat, bit01 r.2.2]) ++ s.boot.repairRte ++ s.mem.order

/-- The attestation report before its signature (R440). -/
def State.report (s : State) (context : BitVec 8) (nonce : BitVec 256) : List Byte :=
  let b := s.boot
  let m4 := Config.measure 4 s.repairLog
  let m5 := if context.toNat < 64 then s.measureProgram context.toNat else 0
  let m6 := Config.measure 6 (b.slot.crcRead.toNat :: b.slot.rackId.toNat :: s.fabric.position.toNat :: b.slot.lens ++ b.slot.coords)
  let ms := (List.range 4).map (fun i => b.measures.getD i 0) ++ [m4, m5, m6, 0]
  le 4 0x54544B41 ++ le 2 1 ++ le 2 (b.booted.val * 2 ^ 15 + b.runningSvn % 128 * 2 ^ 8 + context.toNat) ++ le 8 b.serial.toNat ++
  le 4 b.bootCount.toNat ++ le 4 0 ++ le 8 s.now.toNat ++ le 32 nonce.toNat ++ ms.flatMap fun m => le 32 m.toNat

/-- ATTEST: CONTEXT names the context of M5, or is 0xFF. The signature's bytes are the signing unit's (log entry 13). -/
def execAttest (h : KcpHdr) (nonce : BitVec 256) (s : State) : Host.Outcome State Fault Refusal :=
  .next <| KcpCmd.arrive
    { opcode := 0x0912, need := .any, cls := .query
      effect := fun s =>
        let r := s.report h.context nonce
        done s (r ++ slice (Config.signature r) 0 1280) } (.attest h nonce) h s

end Sys2Proof.Machine
end

