-- ==== Sys2Proof/Machine/Boot.lean ====
section
/-!
DEFINITION. The boot sequence (R432, R433, R439, R441 to R446), cold boot and module warm reset (R368).
-/
namespace Sys2Proof.Machine

open Sys2Proof

/-! ### Choosing a slot (R433) -/

def otherSlot (i : Fin 2) : Fin 2 := if i = 0 then 1 else 0

/-- The trial's count: each boot of the trial image counts first; when the count would reach 3, the trial ends and the other
slot becomes preferred. Answers the boot state and whether the trial was exhausted. -/
def Boot.countTrial (b : Boot) : Boot × Bool :=
  if b.trial then
    if b.tryCount + 1 = 3 then ({ b.rewrite with trial := false, pref := otherSlot b.pref }, true)
    else ({ b.rewrite with tryCount := b.tryCount + 1 }, false)
  else (b, false)

def slotFallback (s : State) (failed : Fin 2) (cause : W32) : State :=
  s.raise 0x81 none unitModule (BitVec.ofNat 64 failed.val) cause

/-- The slot that boots, checking the preferred one and then the other (R432 step 4). -/
def Boot.chooseSlot (b : Boot) (okA okB : Bool) : Option (Fin 2) :=
  let ok (i : Fin 2) := b.slotValidNow (b.slot? i) (if i = 0 then okA else okB)
  if ok b.pref then some b.pref else if ok (otherSlot b.pref) then some (otherSlot b.pref) else none

/-! ### Self-location (R226, R442) -/

/-- Position from lengths and coordinates, axis 0 fastest (R226). -/
def mixedRadix (lens coords : List Nat) : Nat :=
  match lens, coords with
  | l :: ls, x :: xs => x + l * mixedRadix ls xs
  | _, _ => 0

/-- A slot record that a device gave, with a good CRC and fields in range. -/
def SlotRecordOk (r : SlotRecord) : Bool :=
  r.answers && r.crcOk && decide (1 ≤ r.naxes) && decide (r.naxes ≤ 5) && decide (r.lens.length = r.naxes) &&
  decide (r.coords.length = r.naxes) && r.lens.all (fun l => decide (1 ≤ l) && decide (l ≤ 64)) &&
  (r.lens.zip r.coords).all (fun e => decide (e.2 < e.1)) && decide (r.spareIndex < 1024)

def slotPosition (r : SlotRecord) : Nat := if r.spare then r.lens.prod + r.spareIndex else mixedRadix r.lens r.coords

/-! ### The sequence -/

/-- Step 5: measurements M0 to M2 locked, Xoel started (R439). -/
def State.startXoel (s : State) (slot : Fin 2) : State :=
  let b := s.boot
  let m1 := digestOf ((b.slot? slot).read 0 0x800)
  let m2 := Config.measure 2 (b.rollback :: b.ownerState ++ b.ownerDigest.map (·.toNat))
  let s := { s with boot := { b with booted := slot, measures := [b.romDigest, m1, m2], stage := 5 } }
  { s with faults := { s.faults with coreUp := true } }

/-- Step 6: the EEPROMs, the power fault records not yet reported (R403, R441, R442). -/
def State.readEeproms (s : State) (i : BootInputs) : State :=
  let s := if i.eepromOk then s else (s.raise 0x88 none unitModule 0 0).alert 2
  let ok := SlotRecordOk i.slot
  let s := { s with boot := { s.boot with slot := i.slot, slotValid := ok, stage := 6, eepromBad := !i.eepromOk } }
  let s := if ok then
      { s with fabric := { s.fabric with position := BitVec.ofNat 15 (slotPosition i.slot), isSpare := i.slot.spare } }
    else (s.raise 0x86 none unitModule (i.slot.crcRead.setWidth 64) 0).alert 3
  let new := s.boot.powerLog.filter fun r => later32 r.eventSeq s.boot.reported
  let s := new.foldl (fun s r => s.raise 0x63 none unitModule (BitVec.ofNat 64 r.cause) r.eventSeq) s
  match new.getLast? with
  | some r => { s with boot := { s.boot.rewrite with reported := r.eventSeq } }
  | none => s

def readyClocks (n : Nat) : Tab ClockRef := (List.range n).map fun i => (i, { ready := true })

/-- Step 7: clocks, HBM training, stack identities (R443), M3. -/
def State.bringUpMemory (s : State) (i : BootInputs) : State :=
  let s := s.onPower fun p => { p with cdPll := readyClocks 8, hbmPll := readyClocks 8, ioPll := readyClocks 4, enables := 0xFF }
  let s := i.stackIds.zipIdx.foldl (fun s e =>
    if e.1 = s.boot.stackId.getD e.2 0 then s else s.raise 0x87 none unitModule e.1 (BitVec.ofNat 32 e.2)) s
  let m3 := Config.measure 3 (s.boot.serial.toNat :: s.boot.mfgTime.toNat :: i.stackIds.map (·.toNat))
  { s with boot := { s.boot with stacksRead := i.stackIds, measures := s.boot.measures ++ [m3], stage := 7 } }

/-- Step 8: every array restored from the repair log and tested (R90), the hold-up store measured. -/
def State.testArrays (s : State) (i : BootInputs) : State :=
  let s := { s with
    arrays := (List.range 192).map fun n => (n, s.boot.restoreArray n)
    rtes := bootRtes s.boot.repairRte
    boot := { s.boot with stage := 8 } }
  let s := i.katFailed.foldl (fun s k => s.restoreTest k.val true) s
  s.measureHoldup i.holdupMj

/-- Steps 9 and 10: the host ports up, unless the module EEPROM failed (R441), BOOT_DONE, fabric ports released. -/
def State.openPorts (s : State) (i : BootInputs) : State :=
  let s := { s with boot := { s.boot with stage := 9 } }
  let s := if i.eepromOk then (s.hostPortUp 0 false false).hostPortUp 1 false false else s
  let s := s.raise 0x80 none unitModule (s.boot.bootCount.setWidth 64) (BitVec.ofNat 32 s.boot.booted.val)
  { s with boot := { s.boot with stage := 10 } }

/-- ROM recovery: no slot is valid (R433). -/
def State.romRecovery (s : State) : State := { s with boot := { s.boot with stage := 11, recovery := true } }.alert 1

/-- Steps 1 to 10 of R432 on a module that has just been reset. -/
def State.bootUp (s : State) (i : BootInputs) : State :=
  if !i.romOk then { s with boot := { s.boot with stage := 1 } }
  else if !i.refOk then { s with boot := { s.boot with stage := 2 } }.alert 0
  else
    let s := s.onPower fun p => { p with reference := { ready := true }, mgmtPll := { ready := true } }
    let s := { s with boot := { s.boot.rewrite with bootCount := s.boot.bootCount + 1, stage := 3 } }
    let old := s.boot.pref
    let (b, exhausted) := s.boot.countTrial
    let s := { s with boot := { b with stage := 4 } }
    let s := if exhausted then slotFallback s old 1 else s
    match s.boot.chooseSlot i.sigOkA i.sigOkB with
    | none => s.romRecovery
    | some slot =>
      let s := if slot = s.boot.pref then s else slotFallback s s.boot.pref 0
      ((((s.startXoel slot).readEeproms i).bringUpMemory i).testArrays i).openPorts i

/-- What power-up leaves: the flash, the fuses and the EEPROM, and every register at its reset value (R402, R459). -/
def State.powerUp (s : State) : State :=
  { pending := s.pending, free := s.free, out := s.out, boot := s.boot.moduleReset, mem := s.mem.moduleReset true }

/-- The boot can begin: from power good or out of a full reset (stage 0), from an orderly stop whose rails are down (R402), or where
it waits at step 2 for a reference that has qualified since (R413, R414). -/
def State.bootDue (s : State) : Bool :=
  s.boot.stage = 0 || (s.boot.stage = 12 && s.power.railsDown) || (s.boot.stage = 2 && s.power.reference.ready)

/-- COLD_BOOT (R432): a module that stopped has lost its power first (R402). -/
def execColdBoot (inputs : BootInputs) (s : State) : Host.Outcome State Fault Refusal :=
  .next (onlyIf (s.bootDue && !s.mgmt.resetLow) (fun s =>
    let s := if s.boot.stage = 12 then s.powerUp else s
    s.bootUp inputs) s)

/-- MODULE_WARM_RESET (R368): waits for a retrain that runs (R313); not during an orderly stop (R463). -/
def execModuleWarmReset (inputs : BootInputs) (s : State) : Host.Outcome State Fault Refusal :=
  .next (onlyIf (s.mem.busy.isNone && s.powered && !s.mgmt.resetLow) (fun s => (s.moduleReset false).bootUp inputs) s)

end Sys2Proof.Machine
end

