-- ==== Sys2Proof/Machine/Channels.lean ====
section
/-!
DEFINITION. HBM channels: parity repeats, scrub, retrains, fencing, loss, relocation and the degraded map (R294, R299 to R309,
R317 to R319).
-/
namespace Sys2Proof.Machine

open Sys2Proof

def State.chan (s : State) (c : Nat) : Channel := s.mem.chan c
def State.setChan (s : State) (c : Nat) (x : Channel) : State := { s with mem := s.mem.setChan c x }

/-- Address of a channel's registers (R289, R317). -/
def chanReg (c o : Nat) : Nat := 0x200000020000 + 0x10 * c + o

/-! ### Error counters (R317, R421) -/

def State.countCe (s : State) (c : Nat) : State :=
  let x := s.chan c
  (s.setChan c { x with ce := stick x.ce }).stuck x.ce (chanReg c 4) 16
def State.countUe (s : State) (c : Nat) : State :=
  let x := s.chan c
  (s.setChan c { x with ue := stick x.ue }).stuck x.ue (chanReg c 4) 0
def State.countParity (s : State) (c : Nat) : State :=
  let x := s.chan c
  (s.setChan c { x with parRetry := stick x.parRetry }).stuck x.parRetry (chanReg c 8) 16
def State.countRetrain (s : State) (c : Nat) : State :=
  let x := s.chan c
  (s.setChan c { x with retrains := stick x.retrains }).stuck x.retrains (chanReg c 8) 0

/-! ### The retrain queue (R302, R319) -/

/-- A trigger: an ACTIVE channel enters the queue; a RELOCATING one pauses its copying and enters; a second trigger is merged
with the first. -/
def State.trigger (s : State) (c : Nat) : State :=
  let x := s.chan c
  match x.state with
  | .active => { s with mem := { s.mem.setChan c { x with state := .retrainQueued } with queue := s.mem.queue ++ [c] } }
  | .relocating =>
    if x.paused then s else { s with mem := { s.mem.setChan c { x with paused := true } with queue := s.mem.queue ++ [c] } }
  | _ => s

/-- Parity errors of one access (R299): each repeat is counted; a failed fourth repeat puts the channel into the queue, and the access and
every later one wait in its hold queue. Repeated after the retrain, the access returns the same data, so here its data are what they will
be (R304), and it waits as an entry without bytes. -/
def State.parityErrors (s : State) (ps : List ChannelRepeats) : State :=
  ps.foldl (fun s p =>
    let s := (List.range p.repeats.val).foldl (fun s _ => s.countParity p.channel) s
    if p.failed && p.repeats.val = 4 then
      let s := s.trigger p.channel
      let x := s.chan p.channel
      if x.state = .retrainQueued || x.paused then s.setChan p.channel { x with blocked := true, hold := x.hold ++ [(0, [])] } else s
    else s) s

/-- RETRAIN_DUE: the firmware request of every RETRAIN_PERIOD (R302), which none makes while the control core is down (R370). -/
def execRetrainDue (channel : Fin 1024) (s : State) : Host.Outcome State Fault Refusal :=
  .next (onlyIf s.firmware (fun s => s.trigger channel) s)

/-- DRIFT_ALARM (R302). -/
def execDriftAlarm (channel : Fin 1024) (s : State) : Host.Outcome State Fault Refusal := .next (s.trigger channel)

/-- RETRAIN_REQUEST (R302, R330); a fenced or lost channel is RESOURCE_FENCED. -/
def execRetrainRequest (h : KcpHdr) (channel : W16) (s : State) : Host.Outcome State Fault Refusal :=
  .next <| KcpCmd.arrive
    { opcode := 0x0804, need := .none, cls := .device
      checks := fun s => [(decide (1024 ≤ channel.toNat), .badParam),
                          ((s.chan channel.toNat).state = .fenced || (s.chan channel.toNat).state = .lost, .fenced)]
      effect := fun s => done (s.trigger channel.toNat) } (.retrainRequest h channel) h s

/-- RETRAIN_START (R303): at most one channel of the module retrains at a time, in trigger order. -/
def execRetrainStart (s : State) : Host.Outcome State Fault Refusal :=
  .next <|
    match s.mem.busy, s.mem.queue with
    | none, c :: r => { s with mem := { s.mem.setChan c { s.chan c with state := .retraining } with busy := some c, queue := r } }
    | _, _ => s

/-- The hold queue drains in arrival order, and the write-combining buffers make room as they may (R303, R304). -/
def Mem.drain (m : Mem) (c : Nat) : Mem :=
  let x := m.chan c
  ((x.hold.filter fun h => !h.2.isEmpty).foldl (fun m h => (m.openPoison h.1).wholeSector h.1 h.2)
    (m.setChan c { x with hold := [], blocked := false })).makeRoom

/-! ### The degraded map (R306 to R309) -/

/-- Granules of a channel's interleaved part. -/
def granulesPerChannel : Nat := 387072

/-- The ACTIVE channel with the fewest used slots, lowest index on ties. -/
def Mem.spareChannel (m : Mem) : Nat :=
  let act := (List.range 1024).filter fun c => (m.chan c).state = .active
  act.foldl (fun b c => if Tab.get 0 m.used c < Tab.get 0 m.used b then c else b) (act.headD 0)

/-- Place a granule in the next slot of the chosen channel. -/
def Mem.place (m : Mem) (key : Nat) (poison : Bool) : Mem :=
  let t := m.spareChannel
  let n := Tab.get 0 m.used t
  { m with remap := Tab.put m.remap key { target := t, slot := n, poison := poison }, used := Tab.put m.used t (n + 1) }

/-- The granules that a channel holds in its spare slots for earlier fences, in ascending (c, l). -/
def Mem.hosted (m : Mem) (c : Nat) : List Nat :=
  (List.filter (fun (e : Nat × Remap) => decide (e.2.target = c)) m.remap).map (·.1)

/-- The POISON entries of a lost channel: every granule of it not yet moved, and every granule it hosted (R308). -/
def Mem.poisonChannel (m : Mem) (c : Nat) : Mem :=
  let own := (List.range granulesPerChannel).filter fun l => (Tab.find? m.remap (remapKey c l)).isNone
  let m' := own.foldl (fun m l => m.place (remapKey c l) true) m
  (m.hosted c).foldl (fun m k => m.place k true) m'

/-- The Basin is exceeded: MEMORY_EXHAUSTED, and the module is treated as a lost module: a dump and a module warm reset (R309,
R357, R372). -/
def State.exhausted (s : State) : State :=
  let s := { s with mem := { s.mem with exhausted := true } }
  ((s.raise 0x23 none unitModule (BitVec.ofNat 64 s.mem.fencedCount) 0).writeDump 0x23 false).askReset

/-- Contexts that hold an allocation in context space. -/
def State.purgeHbm (s : State) : State :=
  s.ctxs.foldl (fun s e => if (s.ctx e.1).regions.any (fun r => r.1 < 256) then s.purge e.1 (s.faults.nextSeq - 1) else s) s

/-- A channel becomes LOST: it leaves the retrain machinery, CHANNEL_LOST is raised and the contexts are purged (R308). -/
def State.markLost (s : State) (c : Nat) : State :=
  let x := s.chan c
  let m := { s.mem.setChan c { x with state := .lost, paused := false } with
    queue := s.mem.queue.filter (· ≠ c), busy := if s.mem.busy = some c then none else s.mem.busy
    order := if s.mem.order.contains c then s.mem.order else s.mem.order ++ [c] }
  ({ s with mem := m }.raise 0x22 none ⟨7, c⟩ 0 0).purgeHbm

/-- Lose one channel (R305, R308, R309): writes that wait in its hold queue reach its granules' new places. -/
def State.loseChannel (s : State) (c : Nat) : State :=
  match (s.chan c).state with
  | .fenced | .lost => s
  | _ =>
    let s := s.markLost c
    if 16 < s.mem.fencedCount then s.exhausted else { s with mem := (s.mem.poisonChannel c).drain c }

/-- RETRAIN_END (R303): the channel is ACTIVE, or RELOCATING again (R319), and its hold queue drains; a failed test loses it. -/
def execRetrainEnd (passed : Bool) (s : State) : Host.Outcome State Fault Refusal :=
  .next (whenReady s.mem.busy (fun c =>
    if passed then
      let x := s.chan c
      let m := s.mem.setChan c { x with state := if x.paused then .relocating else .active, paused := false }
      ({ s with mem := { m.drain c with busy := none } }).countRetrain c
    else s.loseChannel c) s)

/-- CHANNEL_SILENT (R305). -/
def execChannelSilent (channel : Fin 1024) (s : State) : Host.Outcome State Fault Refusal := .next (s.loseChannel channel)

/-- STACK_PHY_FAILURE: all 32 channels are lost at once, which exceeds the Basin (R305, R309). -/
def execStackPhyFailure (stack : Fin 32) (s : State) : Host.Outcome State Fault Refusal :=
  .next (((List.range 32).foldl (fun s i =>
    if (s.chan (32 * stack.val + i)).state = .lost then s else s.markLost (32 * stack.val + i)) s).exhausted)

/-- CHANNEL_FENCED: a live fence (R305), unless it would be the seventeenth (R309). -/
def execChannelFenced (channel : Fin 1024) (ceInHour ueInHour : Nat) (s : State) : Host.Outcome State Fault Refusal :=
  let x := s.chan channel
  .next (onlyIf ((x.state = .active || x.state = .retrainQueued) &&
      (decide ((s.setting 0x07).toNat < ceInHour) || decide (16 < ueInHour))) (fun s =>
    let s := s.raise 0x21 none ⟨7, channel⟩ 0 (BitVec.ofNat 32 x.ce)
    if 16 ≤ s.mem.fencedCount then s.exhausted else
    { s with mem := { s.mem.setChan channel { x with state := .relocating, cursor := 0, paused := s.mem.queue.contains channel.val } with
      order := s.mem.order ++ [channel.val] } }) s)

/-- Copy one granule: the channel's own in ascending l, then those it hosts; their contents do not change (R306, R307). -/
def Mem.relocate (m : Mem) (c : Nat) : Mem :=
  let x := m.chan c
  let m := if x.cursor < granulesPerChannel then
      (m.place (remapKey c x.cursor) false).setChan c { x with cursor := x.cursor + 1 }
    else match m.hosted c with
      | k :: _ => m.place k ((Tab.find? m.remap k).any fun r => r.poison)
      | [] => m
  let m := { m with relocated := m.relocated + 1 }
  let x := m.chan c
  if granulesPerChannel ≤ x.cursor && (m.hosted c).isEmpty then m.setChan c { x with state := .fenced } else m

/-- GRANULE_RELOCATE (R307). -/
def execGranuleRelocate (channel : Fin 1024) (s : State) : Host.Outcome State Fault Refusal :=
  .next (onlyIf ((s.chan channel).state = .relocating && !(s.chan channel).paused && s.firmware) (fun s => { s with mem := s.mem.relocate channel }) s)

/-! ### Scrub and write combining -/

/-- Sectors of a channel, its share of the Spare Basin included: 1,536 MiB. -/
def sectorsPerChannel : Nat := 25165824

/-- The device address of a channel-local sector: of the interleaved part, or of the granule that a spare slot holds. -/
def Mem.localSector (m : Mem) (c pos : Nat) : Option Nat :=
  let l := pos / 64
  if l < granulesPerChannel then some (granuleAddr c l + 64 * (pos % 64))
  else (List.find? (fun (e : Nat × Remap) => decide (e.2.target = c) && decide (e.2.slot + granulesPerChannel = l)) m.remap).map fun e =>
    granuleAddr (e.1 / 2 ^ 19) (e.1 % 2 ^ 19) + 64 * (pos % 64)

/-- SCRUB_STEP (R300, R301): a channel that is not ACTIVE is skipped and resumes at the same sector. -/
def execScrubStep (channel : Fin 1024) (result : ScrubResult) (s : State) : Host.Outcome State Fault Refusal :=
  let x := s.chan channel
  .next (onlyIf (x.state = .active) (fun s =>
    let s := s.setChan channel { x with scrubPos := (x.scrubPos + 1) % sectorsPerChannel }
    match result with
    | .clean => s
    | .corrected => ({ s with mem := s.mem.count (channel.val / 32) 3 1 }).countCe channel
    | .uncorrectable =>
      let s := match s.mem.localSector channel x.scrubPos with
        | some a => { s with mem := { s.mem with poison := if s.mem.poison.contains a then s.mem.poison else s.mem.poison ++ [a] } }
        | none => s
      s.countUe channel) s)

/-- An entry is due for eviction: 2 µs old, which are 800 ticks (R294). -/
def WcbEntry.due (e : WcbEntry) : Bool := decide (800 ≤ e.age)

/-- WCB_EVICT: the oldest partial entry that is due and whose channel takes accesses is evicted (R294, R319). -/
def execWcbEvict (stack : Fin 32) (s : State) : Host.Outcome State Fault Refusal :=
  .next (whenReady (((Tab.get [] s.mem.wcb stack).take wcbDepth).find? fun e => e.due && s.mem.evictable e)
    (fun e => { s with mem := s.mem.evict e }) s)

end Sys2Proof.Machine
end

