-- ==== Sys2Proof/Machine/Load.lean ====
section
/-!
DEFINITION. Program load and unload: capacities and conflicts (R80, R129, R198, R212, R225, R233, R239, R274, R312, R338,
R344), what a load does (R80, R145, R150, R219, R237, R272, R273, R338), and PROG_LOAD, LOAD_DONE, PROG_UNLOAD, PROG_QUERY.
-/
namespace Sys2Proof.Machine

open Sys2Proof

/-! ### Where the update blocks of a program lie (R194, R197) -/

/-- Position of an owned block in its layer's owned storage: elements before it. -/
def Plan.offsetOf (q : Plan) (u : Rec) (b : Nat) : Nat :=
  let f := fun (r : Nat × Bool) (run : Nat × Nat) =>
    if r.2 then r
    else if run.1 ≤ b && b < run.1 + run.2 then (r.1 + runElems q.p.stats u run.1 (b - run.1), true)
    else (r.1 + runElems q.p.stats u run.1 run.2, false)
  ((ownedRuns q.p.layout q.p.stats q.p.shardMap q.me u).foldl f (0, false)).1

def Plan.masterAt (q : Plan) (u : Rec) (b : Nat) : Nat := uMaster u + 4 * q.offsetOf u b
/-- Address of the first (0) or second (1) moments of a block. -/
def Plan.momentAt (q : Plan) (u : Rec) (b which : Nat) : Nat :=
  uMoment u + momentBytes q.p.update * (which * q.owned u + q.offsetOf u b)
/-- Address of a block's working copy of a generation (R219). -/
def Plan.wcAt (q : Plan) (u : Rec) (b gen : Nat) : Nat :=
  uWc u + wcBytes q.p.update * ((gen % 2) * q.owned u + q.offsetOf u b)
/-- Base die whose Fused Update Unit updates a layer's shards: the layer's place in its table, modulo 8 (log entry 24). -/
def Plan.dieOf (q : Plan) (u : Rec) : Nat :=
  ((q.p.layers.findIdx? fun v => uLayer v = uLayer u && uExpert v = uExpert u).getD 0) % 8

/-- The working copy of master values (R51): E4M3 saturating or BF16. -/
def workingCopy (up : Rec) (ws : List W32) : List Byte × Nat :=
  let cs := ws.map fun w => if wcBytes up = 2 then bf16.encode .toInf (val w) else e4m3.encode .saturate (val w)
  (cs.flatMap fun c => le (wcBytes up) c.1, cs.foldl (fun f c => f ||| c.2) 0)

/-- Position of an update block in a capture record (R57). -/
def blockSite (q : Plan) (u : Rec) (b : Nat) : FlagSite :=
  let cols := match statFor q.p.stats (uLayer u) (uExpert u) with | some d => sBlocks d 1 | none => 1
  { unitKind := 3, unitIndex := q.dieOf u
    row := if uPre u then b / max 1 cols else b / 2 ^ 16
    col := if uPre u then b % max 1 cols else b % 2 ^ 16 }

/-- Emit a block's working copy of a generation from its master words (R219). -/
def State.emitBlock (s : State) (c : Nat) (q : Plan) (u : Rec) (b gen : Nat) : State :=
  let n := blockElems q.p.stats u b
  match s.mem.poisonIn (q.masterAt u b) (4 * n) with
  | some a => s.memUe c a
  | none =>
    let w := workingCopy q.p.update (s.mem.words32 (q.masterAt u b) n)
    ((s.write (q.wcAt u b gen) w.1).flagEvent c w.2 (blockSite q u b)).countSweeps (q.dieOf u) 1 n

/-! ### Structure tags and factor headers (R144, R145, R150) -/

/-- The structure tag of a factor block. -/
def tagOf (m : Mem) (d : Rec) (side q : Nat) : BitVec 128 :=
  let pos := sPosition d side q
  let o := pos * sBlock d side
  let crc := crc32c ((List.range (sBlockLen d side pos)).flatMap fun k => le 4 (permAt m d side (o + k)))
  let partner := if sGrad d then sPosition d (1 - side) q else 0xFFFF
  BitVec.ofNat 128 (uLayer d * 2 ^ 114 + uExpert d * 2 ^ 102 + side * 2 ^ 101 + bit01 (sGrad d) * 2 ^ 100 +
    (if side = 0 then d.field 0 33 31 else d.field 0 30 28) * 2 ^ 97 + sDim d side * 2 ^ 73 + o * 2 ^ 49 + partner * 2 ^ 33 + crc.toNat * 2)

/-- Zero a range of whole sectors, whatever held it. -/
def Mem.zeroFill (m : Mem) (a n : Nat) : Mem :=
  let inside := fun x => decide (a ≤ x) && decide (x < a + n)
  { m with
    bytes := Memory.clear m.bytes a n
    poison := m.poison.filter fun p => !inside p
    remap := Tab.mapAll m.remap fun k r => if inside (granuleAddr (k / 2 ^ 19) (k % 2 ^ 19)) then { r with poison := false } else r
    wcb := Tab.mapAll m.wcb fun _ es => es.filter fun e => !inside e.sector
    chans := Tab.mapAll m.chans fun _ c => { c with hold := c.hold.filter fun h => !inside h.1 } }

/-- A context's factor and root storage at load: every buffer zero, each factor header with its tag and COMPLETE set for step 0
(R144, R145; log entry 25). -/
def Mem.initFactors (m : Mem) (d : Rec) : Mem :=
  let m := m.zeroFill (sFactor d) (2 * sFactorBytes d)
  [0, 1].foldl (fun m side => (List.range (sFactors d side)).foldl (fun m q =>
    let t := le 16 (tagOf m d side q).toNat
    [0, 1].foldl (fun m p => (m.write (factorAddr d side q p) t).write (factorAddr d side q p + 16) (le 8 (2 ^ 48))) m) m) m

/-! ### Capacities (R338) -/

def State.leasedTiles (s : State) : Nat := s.arrays.foldl (fun n a => n + (a.2.tiles.filter fun t => t.2.st ≠ .free).length) 0

/-- Place one lease group in the lowest-numbered bank in service with room (R80). -/
def State.grantLease (s : State) (c : Nat) (w : W64) : Option State :=
  let l := leaseOf w
  let free := fun n => (List.range 16).filter fun t => (Tab.get {} (s.array n).tiles t).st = .free
  match (List.range 192).find? fun n => !(s.array n).retired && decide (l.2.1 ≤ (free n).length) with
  | none => none
  | some n =>
    some (s.onArray n fun a => { a with tiles := ((free n).take l.2.1).zipIdx.foldl (fun t x =>
      Tab.put t x.1 { st := .leased, ctx := c, handle := l.1 + x.2, int := l.2.2 }) a.tiles })

/-- Place every lease group in order; the first that does not fit decides (R80, R338). -/
def State.grantLeases (s : State) (c : Nat) (ls : List W64) : Sum Nat State :=
  ls.zipIdx.foldl (fun r l =>
    match r with
    | .inl i => .inl i
    | .inr s =>
      if 16 * (s.arraysInService - 1) < s.leasedTiles + (leaseOf l.1).2.1 then .inl l.2 else
      match s.grantLease c l.1 with
      | some t => .inr t
      | none => .inl l.2) (.inr s)

/-- Micro-batch slots that a stage needs at its peak (R233). -/
def peakSlots (pl : Rec) (stages p : Nat) : Nat :=
  let m := pl.field 0 57 52 + 1
  let v := pl.field 0 61 58 + 1
  match pl.field 0 63 62 with
  | 0 => m
  | 1 => min m (stages - p)
  | _ => min (v * m) (v * stages + stages - 2 * p - 1)

/-- Other contexts that hold a program. -/
def State.otherPrograms (s : State) (c : Nat) : List (Nat × Program) :=
  s.ctxs.filterMap fun e => if e.1 = c then none else e.2.program.map fun p => (e.1, p)

/-- Some context with a ROOT or DAMPED layer, or some Resident Solve structure, is loaded: firmware holds the Root Engines' workspace reserved
in every base die (R157). -/
def State.rootsHeld (s : State) : Bool := !s.structs.isEmpty || s.ctxs.any fun e => e.2.program.any fun q => q.layers.any uPre

/-- The Root Engines' workspaces: 96 MiB of each die's Reservoir, above its fixed areas (R157, R312; log entry 109). -/
def workspaces : List (Nat × Nat) := (List.range 8).map fun d => (reservoirBase + d * 2 ^ 30 + 96 * 2 ^ 20, 96 * 2 ^ 20)

/-- Reservoir regions of all contexts. -/
def State.reservoirRegions (s : State) : List (Nat × Nat) :=
  s.ctxs.flatMap fun e => (e.2.regions.filter fun r => decide (256 ≤ r.1)).map fun r => (r.2.1, r.2.2)

/-- What is reserved of the dies' Reservoirs: the fixed areas, the workspaces while in use, the contexts' regions (R312). -/
def State.reservoirUse (s : State) : List (Nat × Nat) :=
  ((List.range 8).map fun d => (reservoirBase + d * 2 ^ 30, 96 * 2 ^ 20)) ++ (if s.rootsHeld then workspaces else []) ++ s.reservoirRegions

/-- The workspaces are reserved, or no region stands in their way (R157). -/
def State.workspaceFree (s : State) : Bool :=
  s.rootsHeld || !(s.reservoirRegions.any fun r => workspaces.any fun w => overlaps w.1 w.2 r.1 r.2)

/-- First free run of a die's Reservoir for `n` bytes, among the uses given. -/
def firstGap (lo hi n : Nat) (use : List (Nat × Nat)) : Option Nat :=
  let starts := lo :: (use.map fun u => u.1 + u.2)
  (starts.filter fun a => decide (lo ≤ a) && decide (a + n ≤ hi) && !(use.any fun u => overlaps a n u.1 u.2)).min?

/-- Bytes that a program needs on a die, with the item that asks for each, in the order in which they lie in its region: undo allowance, arrival
buffer, accumulation share, gather share (R210, R212, R231, R312). -/
def Plan.dieNeeds (q : Plan) (die : Nat) : List (Nat × Nat × Nat) :=
  let mine := q.p.layers.zipIdx.filter fun u => q.dieOf u.1 = die && 0 < q.owned u.1
  let largest := mine.foldl (fun r u =>
    let n := (ownedRuns q.p.layout q.p.stats q.p.shardMap q.me u.1).foldl (fun k x => max k (4 * runElems q.p.stats u.1 x.1 x.2)) 0
    if r.2 < n then (u.2, n) else r) (0, 0)
  (if mine.isEmpty then [] else [(3, 0, q.p.update.field 0 47 32 * 2 ^ 20)]) ++
  [(4, largest.1, largest.2), (3, 0, q.p.update.field 0 31 16 * 2 ^ 17), (2, 0, q.p.placement.field 0 47 32 * 2 ^ 17)]

/-- Place a program's Reservoir regions: the staging and step-sum buffers where the program names them, and one region on each
die for the rest. Region numbers from 256 are the Reservoir's. -/
def State.placeReservoir (s : State) (q : Plan) : Sum Fail (List (Nat × Nat × Nat)) :=
  let named := q.p.stats.zipIdx.flatMap fun d =>
    (if sGrad d.1 then [] else [((5, d.2, 0xFFFF), sStage d.1, stageBytes d.1)]) ++
    (if inReservoir (sSum d.1) (sumBytes d.1) && !sGrad d.1 then [((5, d.2, 0xFFFF), sSum d.1, sumBytes d.1)] else [])
  let roots := q.p.layers.any uPre
  if roots && !s.workspaceFree then .inl (6, 0, 0xFFFF) else
  let use := s.reservoirUse ++ (if roots then workspaces else [])
  match named.find? fun n => decide (0 < n.2.2) && use.any fun u => overlaps n.2.1 n.2.2 u.1 u.2 with
  | some n => .inl n.1
  | none =>
    let own := named.zipIdx.map fun n => (264 + n.2, n.1.2.1, n.1.2.2)
    (List.range 8).foldl (fun r die =>
      match r with
      | .inl f => .inl f
      | .inr rs =>
        let needs := q.dieNeeds die
        let n := needs.foldl (fun t x => t + x.2.2) 0
        let base := reservoirBase + die * 2 ^ 30
        let taken := use ++ rs.map (fun x => (x.2.1, x.2.2))
        match firstGap base (base + 2 ^ 30) n taken with
        | some a => .inr (if n = 0 then rs else rs ++ [(256 + die, a, n)])
        | none =>
          let total := fun (k : Nat) => (needs.take (k + 1)).foldl (fun (t : Nat) x => t + x.2.2) 0
          .inl (match (List.range needs.length).find? fun k => (firstGap base (base + 2 ^ 30) (total k) taken).isNone with
            | some k => let x := needs.getD k (2, 0, 0); (x.1, x.2.1, 0xFFFF)
            | none => (2, 0, 0xFFFF))) (.inr own)

/-- Bytes of the late-buffer slots that a program's Cistern shards need: K_LATE + 1 gradients of each (R214). -/
def Plan.lateBytes (q : Plan) : Nat :=
  (q.p.update.field 0 59 56 + 1) * (q.p.cistern.foldl (fun t e =>
    t + match q.p.layers.find? fun u => uLayer u = e.field 0 63 50 && uExpert u = e.field 0 49 38 with
        | some u => (ownedRuns q.p.layout q.p.stats q.p.shardMap q.me u).foldl (fun k r =>
            if r.1 = e.field 0 31 0 then k + 4 * runElems q.p.stats u r.1 r.2 else k) 0
        | none => 0) 0)

/-- HBM that firmware gives to late-buffer slots: its region's copies hold 2 GiB each, of which the first MiB holds the member lists (R214, R310;
log entry 108). -/
def lateRoom : Nat := 2 ^ 31 - 2 ^ 20

/-- Layers in stage-table order (R232). -/
def stageOrder (p : Program) : List Rec :=
  let key := fun (w : W64) => let e := stageOf w; (e.2.2.2, e.2.2.1)
  let es := p.stages.mergeSort fun a b => decide ((key a).1 < (key b).1) || (decide ((key a).1 = (key b).1) && decide ((key a).2 ≤ (key b).2))
  es.flatMap fun w =>
    (p.layers.filter fun u => let e := stageOf w; decide (e.1 ≤ uLayer u) && decide (uLayer u ≤ e.2.1)).mergeSort
      fun a b => decide (uLayer a * 4096 + uExpert a ≤ uLayer b * 4096 + uExpert b)

/-- Whole buffers placed in order into a region while they fit: the addresses or numbers placed (R212, R237). -/
def placeWhole (room : Nat) (xs : List (Nat × Nat)) : List Nat :=
  (xs.foldl (fun (r : List Nat × Nat) x => if x.2 ≤ r.2 then (r.1 ++ [x.1], r.2 - x.2) else r) ([], room)).1

/-- The accumulation buffers that the Reservoir holds, one after the other in the region's shares, which follow the undo allowance and the
arrival buffer in the program's region of each die (R212, R312; log entry 62). -/
def Plan.placedBuffers (q : Plan) (c : Nat) (rs : List (Nat × Nat × Nat)) (placed : List Nat) : List Placed :=
  let share := q.p.update.field 0 31 16 * 2 ^ 17
  let shares := (List.range 8).map fun die =>
    (((rs.find? fun r => r.1 = 256 + die).map (·.2.1)).getD 0) + ((q.dieNeeds die).filter fun n => n.1 ≠ 2).foldl (fun t n => t + n.2.2) 0 - share
  ((stageOrder q.p).filter fun u => placed.contains (uAcc u)).foldl (fun (r : List Placed) u =>
    r ++ [{ ctx := c, base := uAcc u, bytes := 4 * layerElems q.p.stats u, share := share, shares := shares
            start := r.foldl (fun t p => t + p.bytes) 0 }]) []

/-- Accumulation buffers placed in the Reservoir (R212): the region is at most 4 GiB over all contexts. -/
def State.accPlaced (s : State) (c : Nat) (p : Program) : List Nat :=
  let others := (s.otherPrograms c).foldl (fun t q => t + q.2.update.field 0 31 16) 0
  placeWhole (min (p.update.field 0 31 16) (4096 - others) * 2 ^ 20) ((stageOrder p).map fun u => (uAcc u, 4 * layerElems p.stats u))

/-- First-fit run of grid slots, and the largest free run (R344). -/
def State.slotRun (s : State) (c need : Nat) : Option Nat × Nat :=
  let runs := (s.otherPrograms c).map fun q => (q.2.baseSlot, q.2.grids.length + q.2.oneShot)
  let free := fun i => i < 4096 && !(runs.any fun r => decide (r.1 ≤ i) && decide (i < r.1 + r.2))
  let go := (List.range 4096).foldl (fun (r : Option Nat × Nat × Nat) i =>
    let len := if free i then r.2.1 + 1 else 0
    (if r.1.isNone && len = need then some (i + 1 - need) else r.1, len, max r.2.2 len)) (none, 0, 0)
  (go.1, go.2.2)

/-- Capacity refusals in the order in which R338 lists the capacities; on success the state with its leases, the base slot and the Reservoir regions. -/
def State.capacity (s : State) (c : Nat) (q : Plan) : Sum Fail (State × Nat × List (Nat × Nat × Nat)) :=
  let p := q.p
  let prod := layoutProduct p.layout
  let groups := s.fabric.groups.length + (groupCuts p.layout).length
  let spill := p.update.field 0 55 55 = 1 && (s.accPlaced c p).length < p.layers.length
  let descs := (s.otherPrograms c).foldl (fun t x => t + x.2.stats.length) 0
  let fences := s.fences.length
  let run := s.slotRun c (p.grids.length + p.oneShot)
  let leases := s.grantLeases c p.leases
  let place := s.placeReservoir q
  let fails : List Fail :=
    (match leases with | .inl i => [(9, i, 0xFFFF)] | .inr _ => []) ++ failIf spill 3 0 0xFFFF ++
    (match place with | .inl f => [f] | .inr _ => []) ++
    failIf (decide (16384 < fences + p.fences.length)) 8 (16384 - fences) 0xFFFF ++ failIf run.1.isNone 7 run.2 0xFFFF ++
    failIf (decide (20480 < prod) || decide (21504 < prod + layoutSpares p.layout) || decide (4096 < groups)) 1 0 0xFFFF ++
    failIf ((List.range (layoutLog p.layout 1)).any fun st => decide (64 < peakSlots p.placement (layoutLog p.layout 1) st)) 2 0 0xFFFF ++
    failIf (decide (65536 < p.placement.field 2 31 0)) 2 0 0xFFFF ++
    failIf (decide (lateRoom < q.lateBytes + (s.otherPrograms c).foldl (fun t x => t + (Plan.lateBytes ⟨x.2, s.shardIndex x.2.layout⟩)) 0)) 10 0 0xFFFF ++
    failIf (decide (16384 < descs + p.stats.length)) 5 (16384 - descs) 0xFFFF
  match fails.head?, leases, place, run.1 with
  | some f, _, _, _ => .inl f
  | none, .inr t, .inr rs, some b => .inr (t, b, rs)
  | none, _, _, _ => .inl (9, 0, 0xFFFF)

/-- Conflicts with other contexts (R198, R225, R338, R346). -/
def State.conflict (s : State) (c : Nat) (p : Program) : Option Fail :=
  let os := s.otherPrograms c
  firstFail (failIf (os.any fun o => o.2.layout ≠ p.layout) 1 0 0 ++
    p.layers.zipIdx.flatMap (fun u => failIf (os.any fun o => o.2.layers.any fun v => uLayer v = uLayer u.1) 4 u.2 6) ++
    p.fences.zipIdx.flatMap fun f => failIf ((Tab.find? s.fences (fenceIndex f.1)).any fun x => decide (x.owner ≠ c)) 8 f.2 6)

/-! ### What a load does -/

/-- Address of the member list of group entry `g`: 64 identifiers each, at the start of the firmware region, where the manual names no place
(R273, log entry 61). -/
def listBase (g : Nat) : Nat := fwRegion + 128 * g

/-- Logical position of this module in a cut's ring, and the ring's length (R273). -/
def State.ringPlace (s : State) (l : Rec) (g : Nat × Bool) : Nat × Nat :=
  let x := cutCoord s.mem l s.fabric.position.toNat g.1
  let h := max 1 (layoutH l)
  if g.1 = 0 then (if g.2 then (x / h, layoutLog l 0 / h) else (x % h, h)) else (x, layoutLog l g.1)

/-- The member lists of routed rings: 16-bit position identifiers in ring order, in both copies of the firmware region (R229, R273, R310). -/
def State.writeLists (s : State) (l : Rec) (gs : List (Nat × (Nat × Bool))) : State :=
  if !layoutUniform l then s else
  gs.foldl (fun (s : State) g =>
    let bs := (List.range (s.ringPlace l g.2).2).flatMap fun k => le 2 (s.cutMember l g.2 k)
    (s.write (listBase g.1) bs).write (listBase g.1 + 2 ^ 31) bs) s

/-- A group entry of a cut (R273). -/
def State.groupEntry (s : State) (c : Nat) (l : Rec) (at' : Nat) (g : Nat × Bool) : Rec :=
  let r := s.ringPlace l g
  let axis := match cutAxis l g.1 with | some a => a | none => (0, false)
  let ax := layoutAxis l axis.1
  let hop := if !axis.2 && 1 < ax.foldLen && ax.cut = g.1 then ax.foldLen else 1
  let line := !layoutUniform l && s.fabric.detours.any fun d => d.1 = axis.1
  [BitVec.ofNat 64 (bit01 (layoutUniform l) * 2 ^ 61 + axis.1 * 2 ^ 58 + r.2 * 2 ^ 51 + r.1 * 2 ^ 44 + hop * 2 ^ 37 + bit01 line * 2 ^ 36 + c * 2 ^ 30),
   if layoutUniform l then BitVec.ofNat 64 (listBase at') else 0]

/-- Peer Table entries of a layout: STATE and SERVED_BY of every entry are written, the tags stay (R272). -/
def State.peersFromLayout (s : State) (l : Rec) : Tab W64 :=
  let n := layoutProduct l
  let tag := fun (w : W64) => w.toNat % 2 ^ 57 / 2 ^ 32 * 2 ^ 32
  (List.range (n + layoutSpares l)).foldl (fun t i =>
    Tab.put t i (BitVec.ofNat 64 (tag (Tab.get 0 t i) + (if i < n then 2 ^ 61 + i else 2 ^ 62))))
    (Tab.mapAll s.fabric.peers fun _ w => BitVec.ofNat 64 (tag w))

/-- Shard records of a loaded program (R195, R213, R214). -/
def Plan.shards (q : Plan) : List Shard :=
  q.p.layers.flatMap fun u => (ownedRuns q.p.layout q.p.stats q.p.shardMap q.me u).map fun r =>
    let e := q.p.cistern.find? fun e => e.field 0 63 50 = uLayer u && e.field 0 49 38 = uExpert u && e.field 0 31 0 = r.1
    { layer := uLayer u, expert := uExpert u, first := r.1, count := r.2, inCistern := e.isSome
      handle := match e with | some e => e.word 1 | none => 0
      lateSlots := if e.isSome then q.p.update.field 0 59 56 + 1 else 0 }

/-- ACT factor blocks of a program: layer index, descriptor, side, block. -/
def Program.actBlocks (p : Program) : List (Nat × Rec × Nat × Nat) :=
  p.stats.zipIdx.flatMap fun d => if sGrad d.1 then [] else
    [0, 1].flatMap fun side => (List.range (sFactors d.1 side)).map fun b => (d.2, d.1, side, b)

/-- The array that firmware assigns to the `i`-th ACT factor block: the blocks in table order go round the arrays in service (R136; log
entry 29). -/
def State.assignStat (s : State) (i : Nat) : Nat :=
  let on := (List.range 192).filter fun n => !(s.array n).retired
  on.getD (i % max 1 on.length) 0

/-- Emit generation 1 of every owned block (R21, R219). -/
def State.emitAll (s : State) (c : Nat) (q : Plan) (gen : Nat) : State :=
  q.ownedBlocks.foldl (fun s x => if (s.ctx c).state = .purging then s else s.emitBlock c q x.1 x.2 gen) s

/-- What a load leaves before its working copies are emitted: leases, fences, regions, tags, tables (R338). `keepFactors` is
for a recovery load, which keeps factors and roots. A load with a shard in the Cistern enters start-up, one of the three states of which the
manual does not say which a load enters, and nothing enters test, of which it does not say what enters it (R16, R30; log entry 8). -/
def State.install (s : State) (c : Nat) (q : Plan) (base : Nat) (rs : List (Nat × Nat × Nat)) (keepFactors : Bool) : State :=
  let p := q.p
  let gather := placeWhole (p.placement.field 0 47 32 * 2 ^ 20) ((stageOrder p).map fun u => (uLayer u * 4096 + uExpert u, wcBytes p.update * layerElems p.stats u))
  let acc := s.accPlaced c p
  let prog := { p with baseSlot := base, accInRes := acc, keep := gather }
  let env := s.taskEnv p
  let s := { s with
    fences := p.fences.foldl (fun t f => Tab.put t (fenceIndex f)
      { owner := c, value := f.setWidth 32, init := f.setWidth 32, stride := BitVec.ofNat 16 (fieldOf f 47 32), host := fieldOf f 49 49 = 1 }) s.fences
    mem := if keepFactors then s.mem else
      let m := p.stats.foldl Mem.initFactors s.mem
      match (p.recovery.filter fun (r : Rec) => Rec.field r 0 63 63 = 1) with
      | some r => m.zeroFill (Rec.field r 1 47 0) (Rec.field r 2 47 0)
      | none => m
    fabric := { s.fabric with
      peers := s.peersFromLayout p.layout
      groups := (env.groups.zip (groupCuts p.layout)).foldl (fun (t : Tab Rec) (g : Nat × (Nat × Bool)) =>
        Tab.put t g.1 (s.groupEntry c p.layout g.1 g.2)) s.fabric.groups } }
  let s := s.writeLists p.layout (env.groups.zip (groupCuts p.layout))
  let s := { s with mem := { s.mem with placed := s.mem.placed ++ q.placedBuffers c rs acc } }
  let shards := q.shards
  s.onCtx c fun x => { x with
    program := some prog, regions := x.regions ++ rs, shards := shards, step := 0, state := .loaded, load := none, runLeft := 0,
    started := 0, grids := [], layerAcc := [], stats := { arrays := (List.range p.actBlocks.length).map s.assignStat }, folds := { fold := x.folds.fold }, holdStep := none,
    service := if shards.any (·.inCistern) then .startUp else .normal }

/-- How a load ends: LOAD_STATUS with the reported item, and the state with the program installed. -/
structure LoadResult where
  status : Status
  item   : Fail
  st     : Option (State × Plan)

/-- Run the checks and place the program (R338). A poisoned structure refuses the load with RESOURCE_FENCED (log entry 26). -/
def State.tryLoad (s : State) (c dir entries : Nat) (keepFactors : Bool) : LoadResult :=
  let x := s.ctx c
  let p := s.mem.readProgram x dir entries
  let q : Plan := ⟨p, s.shardIndex p.layout⟩
  if (s.mem.poisonIn dir (16 * entries)).isSome || p.dir.any (fun e => (s.mem.poisonIn (dirAddr e) (kindSize (dirKind e) * dirCount e)).isSome) then
    ⟨.fenced, (0, 0, 0xFFFF), none⟩ else
  match firstFail (s.formatFails x p) with
  | some f => ⟨.badParam, f, none⟩
  | none =>
    match s.capacity c q with
    | .inl f => ⟨.tableFull, f, none⟩
    | .inr (t, base, rs) =>
      match s.conflict c p with
      | some f => ⟨.busy, f, none⟩
      | none => ⟨.ok, (0, 0, 0), some (t.install c q base rs keepFactors, q)⟩

/-- Parameters of LOAD_DONE and PROG_QUERY (R330). -/
def loadParams (x : W16 × W16 × W32 × W16) : List Byte := be 2 x.1.toNat ++ be 2 x.2.1.toNat ++ be 4 x.2.2.1.toNat ++ be 2 x.2.2.2.toNat ++ be 2 0

/-- Slot of the session with an identifier. -/
def State.slotOf (s : State) (id : W32) : Option Nat := (List.find? (fun (e : Nat × Session) => decide (e.2.id = id)) s.kcp.sessions).map (·.1)

/-- Report a load's end with LOAD_DONE to the session that asked for it (R338, R339). -/
def State.reportLoad (s : State) (c : Nat) (session : W32) (st : Status) (f : Fail) : State :=
  let rep : W16 × W16 × W32 × W16 := (st.code, BitVec.ofNat 16 f.1, BitVec.ofNat 32 f.2.1, BitVec.ofNat 16 f.2.2)
  let s := s.onCtx c fun x => { x with loadStat := rep }
  match s.slotOf session with
  | some slot => s.notify slot 0x04F0 (BitVec.ofNat 8 c) (loadParams rep)
  | none => s

/-! ### The commands -/

/-- PROG_LOAD's own checks (R330, R338, R339). -/
def loadChecks (h : KcpHdr) (dir : W64) (entries : W16) (s : State) : List Check :=
  let x := s.ctx (hctx h)
  [(badAddrParam dir || entries = 0 || decide (64 < entries.toNat) || !x.covers dir.toNat (16 * entries.toNat), .badParam),
   (x.program.isSome, .busy)]

/-- PROG_LOAD (R337, R338). -/
def execProgLoad (h : KcpHdr) (dir : W64) (entries : W16) (s : State) : Host.Outcome State Fault Refusal :=
  .next <| KcpCmd.arrive
    { opcode := 0x0401, need := .ctx, cls := .load, checks := loadChecks h dir entries
      effect := fun s => accepted (s.onCtx (hctx h) fun x => { x with state := .loading, load := some (
        { session := h.session, dir := dir.toNat, entries := entries.toNat } : LoadReq) }) }
    (.progLoad h dir entries) h s

/-- Where a failed load returns to: CREATED, or FAULTED for a recovery load of a FAULTED context. -/
def State.endLoad (s : State) (c : Nat) (nxt : CtxState) : State := s.onCtx c fun x => { x with state := nxt, load := none }

/-- PROG_UNLOAD: LOADED or HELD only (R330); everything the load took is released (R338). -/
def execProgUnload (h : KcpHdr) (s : State) : Host.Outcome State Fault Refusal :=
  .next <| KcpCmd.arrive
    { opcode := 0x0402, need := .ctx, cls := .load
      checks := fun s => [((s.ctx (hctx h)).program.isNone, .notReady)]
      effect := fun s => done ((s.dropProgram (hctx h)).onCtx (hctx h) fun x => { x with state := .created }) } (.progUnload h) h s

/-- PROG_QUERY (R339). -/
def execProgQuery (h : KcpHdr) (s : State) : Host.Outcome State Fault Refusal :=
  .next <| KcpCmd.arrive
    { opcode := 0x0403, need := .ctx, cls := .query
      effect := fun s => done s (loadParams (s.ctx (hctx h)).loadStat) } (.progQuery h) h s

end Sys2Proof.Machine
end

