-- ==== Sys2Proof/Machine/Protect.lean ====
section
/-!
DEFINITION. The bytes of update blocks (R194, R377, R390), the folds of their regions (R391 to R393), and the parity stream as its
sender sees it (R377, R378).
-/
namespace Sys2Proof.Machine

open Sys2Proof

/-! ### The program of a context and the bytes of its update blocks -/

/-- The Update Layer Descriptor of a layer. -/
def Plan.layer? (q : Plan) (layer expert : Nat) : Option Rec := q.p.layers.find? fun u => uLayer u = layer && uExpert u = expert

/-- State bytes of a block in the order of R390: master copy, first moments, second moments. -/
def Plan.stateSpans (q : Plan) (u : Rec) (b : Nat) : List (Nat × Nat) :=
  let n := blockElems q.p.stats u b
  let mb := momentBytes q.p.update
  (q.masterAt u b, 4 * n) :: (if uMode u = 3 then [] else [(q.momentAt u b 0, mb * n), (q.momentAt u b 1, mb * n)])

/-- Protected bytes of a block (R377): its state and both working copies. -/
def Plan.protectedSpans (q : Plan) (u : Rec) (b : Nat) : List (Nat × Nat) :=
  let n := wcBytes q.p.update * blockElems q.p.stats u b
  q.stateSpans u b ++ [(q.wcAt u b 0, n), (q.wcAt u b 1, n)]

/-- State bytes of a shard: those of its blocks in order (log entry 27). -/
def Plan.shardSpans (q : Plan) (t : Shard) : List (Nat × Nat) :=
  match q.layer? t.layer t.expert with
  | none => []
  | some u => (List.range t.count).flatMap fun i => q.stateSpans u (t.first + i)

def spanBytes (ss : List (Nat × Nat)) : Nat := ss.foldl (fun n x => n + x.2) 0

/-- Read a list of spans. -/
def Mem.readSpans (m : Mem) (ss : List (Nat × Nat)) : List Byte := ss.flatMap fun x => m.read x.1 x.2

/-- Write bytes at an offset of a list of spans; bytes past its end are not written. -/
def Mem.writeSpans (m : Mem) (ss : List (Nat × Nat)) (off : Nat) (bs : List Byte) : Mem :=
  match ss with
  | [] => m
  | x :: r =>
    if x.2 ≤ off then Mem.writeSpans m r (off - x.2) bs
    else
      let here := bs.take (x.2 - off)
      Mem.writeSpans (if here.isEmpty then m else m.write (x.1 + off) here) r 0 (bs.drop (x.2 - off))

/-! ### Folds (R390 to R393) -/

/-- 2^61 − 1. -/
def foldPrime : Nat := 2 ^ 61 - 1

/-- The fold (A, B) of bytes (R391): 64-bit little-endian words, numbered from 0. -/
def foldOf (bs : List Byte) : W64 × Nat :=
  (List.range ((bs.length + 7) / 8)).foldl (fun r i =>
    let w := leNat (slice bs (8 * i) 8)
    (r.1 + BitVec.ofNat 64 w, (r.2 + (i + 1) * (w % foldPrime)) % foldPrime)) (0, 0)

/-- Region folds of a block's state bytes. -/
def regionFolds (n : Nat) (bs : List Byte) : List (W64 × Nat) := (List.range n).map fun k => foldOf ((bs.drop (k * 2 ^ 20)).take (2 ^ 20))

/-- Number of an owned block (R377), and its first region (R390). -/
def Plan.blockNo (q : Plan) (u : Rec) (b : Nat) : Nat :=
  (q.ownedBlocks.findIdx? fun x => uLayer x.1 = uLayer u && uExpert x.1 = uExpert u && x.2 = b).getD 0
def Plan.firstRegion (q : Plan) (u : Rec) (b : Nat) : Nat :=
  (q.ownedBlocks.take (q.blockNo u b)).foldl (fun t x => t + q.blockRegions x.1 x.2) 0

def State.onFolds (s : State) (c : Nat) (f : Folds → Folds) : State := s.onCtx c fun x => { x with folds := f x.folds }

/-- Recompute a block's folds from memory. -/
def State.refold (s : State) (c : Nat) (q : Plan) (u : Rec) (b : Nat) : State :=
  let fs := regionFolds (q.blockRegions u b) (s.mem.readSpans (q.stateSpans u b))
  s.onFolds c fun x => { x with fold := fs.zipIdx.foldl (fun t f => Tab.put t (q.firstRegion u b + f.2) f.1) x.fold }

def State.refoldShard (s : State) (c : Nat) (q : Plan) (t : Shard) : State :=
  match q.layer? t.layer t.expert with
  | none => s
  | some u => (List.range t.count).foldl (fun s i => s.refold c q u (t.first + i)) s

/-- Recompute every fold: what a load leaves. -/
def State.refoldAll (s : State) (c : Nat) (q : Plan) : State := q.ownedBlocks.foldl (fun s x => s.refold c q x.1 x.2) s

/-- Change a block's folds by its new bytes less its old ones (R392). -/
def State.foldChange (s : State) (c : Nat) (q : Plan) (u : Rec) (b : Nat) (old new : List Byte) : State :=
  let n := q.blockRegions u b
  let ds := (regionFolds n old).zip (regionFolds n new)
  s.onFolds c fun x => { x with fold := ds.zipIdx.foldl (fun t d =>
    let k := q.firstRegion u b + d.2
    let f := Tab.get (0, 0) t k
    Tab.put t k (f.1 + d.1.2.1 - d.1.1.1, (f.2 + d.1.2.2 + foldPrime - d.1.1.2) % foldPrime)) x.fold }

/-- The host has written a range of a held context: its folds and working copies are made again before the context resumes (R199, R392). -/
def State.noteHost (s : State) (c a n : Nat) : State :=
  if (s.ctx c).state = .held && (s.ctx c).program.isSome then s.onCtx c fun x => { x with rewritten := x.rewritten ++ [(a, n)] } else s

/-- DIGEST_INT of the program; 0 turns digests off. -/
def Program.digestInt (p : Program) : Nat := match p.recovery with | some r => r.field 0 54 44 | none => 0

/-- Listed regions that lie in a block. -/
def Plan.listedIn (q : Plan) (u : Rec) (b : Nat) (rs : List Nat) : List Nat :=
  let f := q.firstRegion u b
  rs.filter fun r => decide (f ≤ r) && decide (r < f + q.blockRegions u b)

/-- The block is at the snapshot point at which its listed regions are to be localised (R394). -/
def Folds.awaits (f : Folds) (q : Plan) (u : Rec) (b step : Nat) : Bool :=
  f.phase = .granules && step = f.target && !(q.listedIn u b f.regions).isEmpty && !f.localised.contains (q.blockNo u b)

/-- Bytes that other modules supply (log entry 38). -/
def State.peerBytes (s : State) (n : Nat) : List Byte := (List.range n).map (Config.peerByte s.free)

/-- Copy a block's folds for a label, once (R393); labels up to the recovery point are not formed again (R398). -/
def State.copyLabel (s : State) (c : Nat) (q : Plan) (u : Rec) (b step : Nat) : State :=
  let i := q.p.digestInt
  let no := q.blockNo u b
  if i = 0 || step = 0 || step % i ≠ 0 || step ≤ (s.ctx c).recovery.point || (s.ctx c).folds.copied.contains (step, no) then s else
  s.onFolds c fun x => { x with
    copied := x.copied ++ [(step, no)]
    table := (List.range (q.blockRegions u b)).foldl (fun t k =>
      let r := q.firstRegion u b + k
      Tab.put t (step * 2 ^ 32 + r) (Tab.get (0, 0) x.fold r)) x.table }

/-! ### Parity Groups as the sender sees them (R377, R378) -/

/-- The Recovery Record, if Parity Groups are on. -/
def Program.parityOn (p : Program) : Option Rec := p.recovery.filter fun r => r.field 0 63 63 = 1

def pgSize (r : Rec) : Nat := r.field 0 59 55
def pgAxis (r : Rec) : Nat := r.field 0 62 60
def pgSlot (r : Rec) : Nat := r.field 0 35 20 * 4096

/-- Member index of a position in its group. -/
def pgMember (l r : Rec) (pos : Nat) : Nat := (coordsOf (layoutAxes l) pos).getD (pgAxis r) 0 % max 1 (pgSize r)
/-- Position of member `j` of the group of a position. -/
def pgPosition (l r : Rec) (pos j : Nat) : Nat :=
  let xs := coordsOf (layoutAxes l) pos
  let x := xs.getD (pgAxis r) 0
  idOf (layoutAxes l) (xs.set (pgAxis r) (x / max 1 (pgSize r) * pgSize r + j))

/-- Holder of block `b` of member `j`. -/
def pgHolder (g j b : Nat) : Nat := (j + b % max 1 (g - 1) + 1) % max 1 g

/-- The 64-byte header of a parity message. -/
def parityHeader (block step bytes : Nat) (msg : W32) : List Byte := padTo 64 (le 4 block ++ le 8 step ++ le 4 bytes ++ le 4 msg.toNat)

/-- The PARITY frames of a message. The offset names the sender's staging window MSG mod 2 (log entry 37). -/
def State.parityFrames (s : State) (c dst h : Nat) (x : W32 × Nat × Nat × List Byte) : State :=
  let body := parityHeader x.2.1 x.2.2.1 x.2.2.2.length x.1 ++ x.2.2.2
  let base := Config.parityWindow h (x.1.toNat % 2)
  (s.sendMessage c dst clsData 0x07 0 none ((cutPayload body).map fun y => (BitVec.ofNat 64 (base + y.1), y.2))).countCtx9 c 5 body.length

/-- Send the waiting messages to a holder while at most two are unapplied; messages to a FAILED position are discarded (R378,
R383). -/
def State.pumpParity (fuel : Nat) (s : State) (c : Nat) (l r : Rec) (h : Nat) : State :=
  match fuel with
  | 0 => s
  | k + 1 =>
    let o := Tab.get {} (s.ctx c).parityOut h
    match o.wait with
    | [] => s
    | (no, step, delta) :: w =>
      if 2 ≤ o.sent.length then s else
      let dst := pgPosition l r s.fabric.position.toNat h
      let s := s.onCtx c fun x => { x with parityOut := Tab.put x.parityOut h { next := o.next + 1, sent := o.sent ++ [(o.next, no, step, delta)], wait := w } }
      State.pumpParity k (s.parityFrames c dst h (o.next, no, step, delta)) c l r h

/-- The messages of the numbered blocks are applied or discarded: their undo words go once their shard has the step (R378). -/
def State.ackBlocks (s : State) (c : Nat) (q : Plan) (nos : List Nat) : State :=
  let freed := fun (t : Shard) => match q.layer? t.layer t.expert with
    | none => t
    | some u =>
      { t with blocks := Tab.mapAll t.blocks fun b x =>
          if nos.contains (q.blockNo u b) then { x with acked := true, undo := if x.step ≤ t.step then [] else x.undo } else x }
  s.onCtx c fun x => { x with shards := x.shards.map freed }

/-- Queue a block's parity message. -/
def State.sendParity (s : State) (c : Nat) (q : Plan) (u : Rec) (b step : Nat) (delta : List Byte) : State :=
  match q.p.parityOn with
  | none => s
  | some r =>
    let no := q.blockNo u b
    let me := pgMember q.p.layout r s.fabric.position.toNat
    let h := pgHolder (pgSize r) me no
    if s.peerState (pgPosition q.p.layout r s.fabric.position.toNat h) = 3 then s.ackBlocks c q [no] else
    let s := s.onCtx c fun x => { x with parityOut := Tab.modify {} x.parityOut h fun o => { o with wait := o.wait ++ [(no, step, delta)] } }
    State.pumpParity 3 s c q.p.layout r h

/-- A member of a Parity Group is lost: PARITY_DEGRADED, and localisation is abandoned (R381, R386, R398). -/
def State.groupLost (s : State) (pos : Nat) : State :=
  s.ctxs.foldl (fun s e =>
    let c := e.1
    let s := s.onFolds c fun f => { f with phase := .none, regions := [], localised := [], granules := [] }
    let s := s.onCtx c fun x => { x with shards := x.shards.map fun t => { t with blocks := Tab.mapAll t.blocks fun _ b => { b with holdFix := false } } }
    match (s.ctx c).program with
    | none => s
    | some p =>
      match p.parityOn with
      | none => s
      | some r =>
        let me := s.fabric.position.toNat
        let j := pgMember p.layout r pos
        if pos = me || pgPosition p.layout r me j ≠ pos || (s.ctx c).recovery.lost.contains j then s
        else (s.onCtx c fun x => { x with recovery := { x.recovery with lost := x.recovery.lost ++ [j] } }).raise 0x56 (some c) unitModule
          (BitVec.ofNat 64 j) 0) s

/-- Factors and roots of a layer from another module. A factor buffer's tag names this module's own block. A root keeps the tag that it
carries: between replicas the two are equal (`same`), while experts that moved may have been renumbered (R173, R243, R387). -/
def State.peerStorage (s : State) (d : Rec) (same : Bool) : State :=
  let m := s.mem.write (sFactor d) (s.peerBytes (2 * sFactorBytes d))
  let m := [0, 1].foldl (fun m side => (List.range (sFactors d side)).foldl (fun m k =>
    let t := le 16 (tagOf m d side k).toNat
    [0, 1].foldl (fun m p =>
      let m := m.write (factorAddr d side k p) t
      if same then m.write (rootAddr d side k p) t else m) m) m) m
  ({ s with mem := m }).drawn

/-- Bytes XORed place by place. -/
def xorBytes (a b : List Byte) : List Byte := (a.zip b).map fun x => x.1 ^^^ x.2

end Sys2Proof.Machine
end

