-- ==== Sys2Proof/Machine/Memory.lean ====
section
/-!
DEFINITION. KCP group 0x03: regions (R288), host reads, writes and fills (R295, R354), streams (R352, R353, R356), the Cistern
(R213, R355) and SHARD_SET (R195, R330).
-/
namespace Sys2Proof.Machine

open Sys2Proof

/-! ### Regions (R288, R330) -/

def twoMib : Nat := 2 ^ 21

/-- Regions granted by the host. -/
def Ctx.granted (c : Ctx) : List (Nat × Nat × Nat) := c.regions.filter fun r => decide (r.1 < 256)

def overlapsRegion (a n : Nat) (c : Ctx) : Bool := c.regions.any fun r => overlaps a n r.2.1 r.2.2

def memGrantChecks (h : KcpHdr) (base bytes : W64) (s : State) : List Check :=
  let a := base.toNat
  let n := bytes.toNat
  [(badAddrParam base || a % twoMib ≠ 0 || n % twoMib ≠ 0 || n = 0 || decide (hbmCtxEnd < a + n) ||
      overlapsRegion a n (s.ctx (hctx h)), .badParam),
   (s.ctxs.any (fun e => decide (e.1 ≠ hctx h) && overlapsRegion a n e.2), .busy),
   (decide (256 ≤ (s.ctx (hctx h)).granted.length), .tableFull)]

/-- The lowest region number not in use. -/
def Ctx.freeRegion (c : Ctx) : Nat := ((List.range 256).find? fun i => !(c.regions.any fun r => r.1 = i)).getD 0

/-- MEM_GRANT (R288). -/
def execMemGrant (h : KcpHdr) (base bytes : W64) (s : State) : Host.Outcome State Fault Refusal :=
  .next <| KcpCmd.arrive
    { opcode := 0x0301, need := .ctx, cls := .memory, checks := memGrantChecks h base bytes
      effect := fun s =>
        let id := (s.ctx (hctx h)).freeRegion
        done (s.onCtx (hctx h) fun c => { c with regions := c.regions ++ [(id, base.toNat, bytes.toNat)] }) (be 2 id ++ be 2 0) }
    (.memGrant h base bytes) h s

/-- The range that a tensor's addressed elements span. -/
def Tensor.hull (t : Tensor) : List (Nat × Nat) :=
  (t.base, (t.e 0 * t.bits + 7) / 8 + (t.e 1 - 1) * t.s 1 + (t.e 2 - 1) * t.s 2 + (t.e 3 - 1) * t.s 3) ::
  (if fmtIsMx t.fmt then [(t.scale, t.blocks0 * t.e 1 * t.e 2 * t.e 3)] else []) ++ (if t.status = 0 then [] else [(t.status, 4)])

/-- What a VXU task names. -/
def Mem.vxRanges (m : Mem) (a : Nat) : List (Nat × Nat) :=
  let v := m.vx a
  (a, 768) :: ((v.srcs.take v.nsrc ++ v.dsts.take v.ndst).flatMap Tensor.hull ++ (v.reds.take v.nred).map fun d => (d.field 0 47 0, 16))

/-- What a grid's tasks name: records, operands, tensors. -/
def Mem.gridRanges (m : Mem) (g : Rec) : List (Nat × Nat) :=
  (gridBase g, 64 * gridTasks g) ::
  ((if g.field 0 63 60 = 0 then
      [gridArgA g, gridArgB g].flatMap fun a => (a, 64) :: (m.tensor a).hull
    else []) ++
   (List.range (gridTasks g)).flatMap fun k =>
    let t := m.task g k
    let one := fun a => (a, 64) :: (m.tensor a).hull
    match gridKind (g.field 0 63 60) with
    | some .mxa => if taskCtl t |>.fin then m.vxRanges (t.field 6 47 0) else []
    | some .vxu => m.vxRanges (t.field 1 47 0)
    | some .copy =>
      let d := m.record (t.field 1 47 0) 8
      (t.field 1 47 0, 64) :: (one (d.field 1 47 0) ++ one (d.field 2 47 0))
    | some .coll => one (t.field 1 47 0) ++ one (t.field 2 47 0)
    | some .xfer => one (t.field 1 47 0)
    | _ => [])

/-- Ranges in which a loaded program lies: its directory, its structures and tables, its buffers, its grids. -/
def Plan.ranges (q : Plan) (m : Mem) : List (Nat × Nat) :=
  let p := q.p
  (p.dirAddr, 16 * p.dir.length) :: (p.dir.map fun e => (dirAddr e, kindSize (dirKind e) * dirCount e)) ++
  [(p.placement.field 1 47 0, 8 * p.stages.length), (p.placement.field 3 47 0, 16 * p.shardMap.length),
   (p.placement.field 4 47 0, 4 * p.experts.length)] ++
  (if layoutUniform p.layout then [(p.layout.field 7 47 0, 2 * (rankTable m p.layout).length)] else []) ++
  (p.stats.flatMap fun d => [0, 1].map fun side => (sPerm d side, if sPerm d side = 0 then 0 else 4 * sDim d side)) ++
  (q.buffers.map fun b => (b.2.1, b.2.2)) ++ p.grids.flatMap m.gridRanges

/-- Open streams of a context, in every session. -/
def State.streamsOf (s : State) (c : Nat) : List Stream :=
  s.kcp.sessions.flatMap fun e => e.2.streams.filter fun t => t.context = c && !t.timedOut && !t.purged

/-- Something of the context lies in a range. -/
def State.rangeUsed (s : State) (c a n : Nat) : Bool :=
  (match s.plan c with
   | some q => (q.ranges s.mem).any fun r => overlaps a n r.1 r.2
   | none => false) ||
  (s.streamsOf c).any (fun t => overlaps a n t.addr t.bytes) ||
  s.structs.any fun r => r.2.owner = c && overlaps a n r.2.memBase r.2.memBytes

/-- MEM_RELEASE (R330). -/
def execMemRelease (h : KcpHdr) (region : W16) (s : State) : Host.Outcome State Fault Refusal :=
  .next <| KcpCmd.arrive
    { opcode := 0x0302, need := .ctx, cls := .memory
      checks := fun s =>
        match (s.ctx (hctx h)).granted.find? fun r => r.1 = region.toNat with
        | none => [(true, .badParam)]
        | some r => [(s.rangeUsed (hctx h) r.2.1 r.2.2, .busy)]
      effect := fun s => done (s.onCtx (hctx h) fun c => { c with regions := c.regions.filter fun r => r.1 ≠ region.toNat }) }
    (.memRelease h region) h s

/-! ### Host accesses (R295, R354) -/

/-- The address checks of a host access. -/
def State.hostRange (s : State) (c : Nat) (addr : W64) (n : Nat) (reads : Bool) : List Check :=
  [(badAddrParam addr || !(s.ctx c).coversHbm addr.toNat n, .badParam), (s.stateBusy c addr.toNat n reads, .busy)]

/-- MEM_WRITE (R295, R330). -/
def execMemWrite (h : KcpHdr) (addr : W64) (data : List Byte) (parityErrors : List ChannelRepeats) (s : State) :
    Host.Outcome State Fault Refusal :=
  .next <| KcpCmd.arrive
    { opcode := 0x0303, need := .ctx, cls := .memory
      checks := fun s => (decide (8184 < data.length) || data.length % 4 ≠ 0, .badParam) :: s.hostRange (hctx h) addr data.length false
      effect := fun s =>
        done (((s.write addr.toNat data).noteHost (hctx h) addr.toNat data.length).parityErrors parityErrors) }
    (.memWrite h addr data parityErrors) h s

/-- MEM_READ (R300, R330): poison is answered with RESOURCE_FENCED. -/
def execMemRead (h : KcpHdr) (addr : W64) (bytes : W32) (parityErrors : List ChannelRepeats) (s : State) :
    Host.Outcome State Fault Refusal :=
  .next <| KcpCmd.arrive
    { opcode := 0x0304, need := .ctx, cls := .memRead
      checks := fun s =>
        [(decide (bytes.toNat < 4) || decide (8188 < bytes.toNat) || bytes.toNat % 4 ≠ 0, .badParam),
         ((s.mem.poisonIn addr.toNat bytes.toNat).isSome, .fenced)] ++ s.hostRange (hctx h) addr bytes.toNat true
      effect := fun s =>
        done ((s.noteReads [(addr.toNat, bytes.toNat)]).parityErrors parityErrors) (s.mem.read addr.toNat bytes.toNat) }
    (.memRead h addr bytes parityErrors) h s

/-- The bytes of a fill: the pattern as little-endian words (R9). -/
def fillBytes (pattern : W32) (n : Nat) : List Byte := (List.range n).map fun i => (le 4 pattern.toNat).getD (i % 4) 0

/-- MEM_FILL (R330): FENCE grows by 1 once the fill has been accepted. -/
def execMemFill (h : KcpHdr) (addr bytes : W64) (pattern : W32) (fence : W16) (s : State) : Host.Outcome State Fault Refusal :=
  .next <| KcpCmd.arrive
    { opcode := 0x0305, need := .ctx, cls := .memory
      checks := fun s =>
        (fence ≠ 0xFFFF && !s.holds (hctx h) fence.toNat, .badParam) :: s.hostRange (hctx h) addr bytes.toNat false
      effect := fun s =>
        accepted ((s.write addr.toNat (fillBytes pattern bytes.toNat)).noteHost (hctx h) addr.toNat bytes.toNat)
      after := fun s => if fence = 0xFFFF then s else s.signal fence.toNat 1 }
    (.memFill h addr bytes pattern fence) h s

/-! ### Streams (R352, R353, R356) -/

def State.sessionStreams (s : State) (h : KcpHdr) : List Stream :=
  match (s.kcpSlot h).bind s.session? with
  | some x => x.streams
  | none => []

/-- The stream of a number in the packet's session and context, open or closed by a time-out or a purge. -/
def State.streamOf (s : State) (h : KcpHdr) (n : Nat) : Option Stream :=
  (s.sessionStreams h).find? fun t => t.number = n && t.context = hctx h

/-- Change the streams of the packet's session. -/
def State.onStreams (s : State) (h : KcpHdr) (f : List Stream → List Stream) : State :=
  match s.kcpSlot h with
  | none => s
  | some slot =>
    match s.session? slot with
    | none => s
    | some x => s.setSession slot { x with streams := f x.streams }

def Stream.isOpen (t : Stream) : Bool := !t.timedOut && !t.purged

/-- How a closed stream answers later packets (R353, R356); a stream that was never opened is a field out of range. -/
def closedChecks (o : Option Stream) : List Check :=
  match o with
  | none => [(true, .badParam)]
  | some t => [(t.purged, .ctxFaulted), (t.timedOut, .timeout)]

def streamOpenChecks (h : KcpHdr) (stream dir : BitVec 8) (addr bytes : W64) (s : State) : List Check :=
  [(decide (16 ≤ stream.toNat) || decide (2 ≤ dir.toNat) || bytes = 0 || decide (2 ^ 40 < bytes.toNat), .badParam),
   ((s.sessionStreams h).any fun t => t.number = stream.toNat && t.isOpen, .busy)] ++
  s.hostRange (hctx h) addr bytes.toNat (dir = 1)

/-- STREAM_OPEN (R352): a device-to-host stream starts to send after its reply. -/
def execStreamOpen (h : KcpHdr) (stream dir : BitVec 8) (addr bytes : W64) (s : State) : Host.Outcome State Fault Refusal :=
  .next <| KcpCmd.arrive
    { opcode := 0x0306, need := .ctx, cls := if dir = 1 then .streamRead else .memory
      checks := streamOpenChecks h stream dir addr bytes
      effect := fun s =>
        let t : Stream := { number := stream.toNat, context := hctx h, toHost := decide (dir = 1), addr := addr.toNat, bytes := bytes.toNat }
        done (s.onStreams h fun ts => ts.filter (fun u => u.number ≠ t.number) ++ [t])
      after := fun s => (s.kcpSlot h).elim s (s.pump 256) }
    (.streamOpen h stream dir addr bytes) h s

/-- The Cistern fetch that a device stream number of the packet's session serves. -/
def State.fetchOf (s : State) (h : KcpHdr) (n : Nat) : Option Fetch :=
  if (s.ctx (hctx h)).cistern = some h.session && decide (16 ≤ n) then (s.ctx (hctx h)).fetches.find? fun f => f.stream = n else none

/-- Where the bytes of a stream lie: its range, or the home addresses of a fetched shard. -/
def State.streamSpans (s : State) (h : KcpHdr) (n : Nat) : List (Nat × Nat) :=
  match s.fetchOf h n with
  | some f =>
    match s.plan (hctx h), (s.ctx (hctx h)).shards[f.shard]? with
    | some q, some t => q.shardSpans t
    | _, _ => []
  | none =>
    match s.streamOf h n with
    | some t => [(t.addr, t.bytes)]
    | none => []

def streamDataChecks (h : KcpHdr) (stream : BitVec 8) (offset : W64) (data : List Byte) (s : State) : List Check :=
  let n := stream.toNat
  let total := spanBytes (s.streamSpans h n)
  [(decide (8180 < data.length) || data.length % 4 ≠ 0 || decide (total + 3 < offset.toNat + data.length) ||
      ((s.streamOf h n).any fun t => t.toHost), .badParam)] ++
  (if (s.fetchOf h n).isSome then [] else
    -- a stream opened over state while the context was held writes it only while it is held (R27, R336)
    closedChecks (s.streamOf h n) ++
      ((s.streamOf h n).toList.map fun t => (s.stateBusy (hctx h) (t.addr + offset.toNat) (min data.length (t.bytes - offset.toNat)) false, .busy)))

/-- STREAM_DATA (R352, R355): padding past the end of the range is not written. -/
def execStreamData (h : KcpHdr) (stream : BitVec 8) (offset : W64) (data : List Byte) (s : State) : Host.Outcome State Fault Refusal :=
  .next <| KcpCmd.arrive
    { opcode := 0x0307, need := .ctx, cls := .memory, checks := streamDataChecks h stream offset data
      effect := fun s =>
        let n := stream.toNat
        let spans := s.streamSpans h n
        let data := data.take (spanBytes spans - offset.toNat)
        let t := { s with mem := s.mem.writeSpans spans offset.toNat data }
        done (match s.fetchOf h n with
          | none => match s.streamOf h n with
            | some x => t.noteHost (hctx h) (x.addr + offset.toNat) data.length
            | none => t
          | some _ =>
            -- bytes fetched are counted (R213)
            (t.countCtx (hctx h) cCisternFetch data.length).onCtx (hctx h) fun c => 
              { c with fetches := c.fetches.map (fun f => if f.stream = n then { f with got := f.got + data.length } else f) }) }
    (.streamData h stream offset data) h s

/-- CISTERN_FETCH for a shard whose fetch has a stream number (R355). -/
def State.sendFetch (s : State) (c : Nat) (f : Fetch) : State :=
  let x := s.ctx c
  match x.cistern.bind s.slotOf, s.plan c, x.shards[f.shard]? with
  | some slot, some q, some t =>
    s.notify slot 0x03F0 (BitVec.ofNat 8 c) (be 1 f.stream ++ be 3 0 ++ be 8 t.handle.toNat ++ be 8 0 ++ be 8 (spanBytes (q.shardSpans t)))
  | _, _, _ => s

/-- Device stream numbers in use in a session. -/
def State.deviceStreams (s : State) (session : W32) : List Nat :=
  s.ctxs.flatMap fun e => if e.2.cistern = some session then e.2.fetches.map (·.stream) else []

/-- Post the fetch of a shard: with a free device stream number of the server session, or, while the context has no server or no
number is free, waiting with number 0; without a server CISTERN_UNSERVED is raised (R355). -/
def State.postFetch (s : State) (c shard : Nat) : State :=
  let x := s.ctx c
  let others := x.fetches.filter fun f => f.shard ≠ shard
  let s := s.onCtx c fun x => { x with fetches := others }
  match x.cistern.bind s.slotOf, x.cistern with
  | some _, some id =>
    match ((List.range 16).map (· + 16)).find? fun n => !(s.deviceStreams id).contains n with
    | some n =>
      let f : Fetch := { stream := n, shard := shard }
      (s.onCtx c fun x => { x with fetches := x.fetches ++ [f] }).sendFetch c f
    | none => s.onCtx c fun x => { x with fetches := x.fetches ++ [{ stream := 0, shard := shard }] }
  | _, _ =>
    let s := s.onCtx c fun x => { x with fetches := x.fetches ++ [{ stream := 0, shard := shard }] }
    s.raise 0x41 (some c) unitModule ((x.shards[shard]?).elim 0 (·.handle)) 0

/-- Mark a shard resident (R213); its regions' folds are those of the words that arrived. -/
def State.shardResident (s : State) (c shard : Nat) : State :=
  let s := s.onCtx c fun x => { x with
    fetches := x.fetches.filter (fun f => f.shard ≠ shard)
    shards := x.shards.modify shard (fun t => { t with inCistern := false }) }
  match s.plan c, (s.ctx c).shards[shard]? with
  | some q, some t => s.refoldShard c q t
  | _, _ => s

/-- The end of a Cistern stream: the shard is resident when the CRCs agree, else the fetch is posted again (R213, R355). -/
def State.closeFetch (s : State) (c : Nat) (f : Fetch) (good : Bool) : State :=
  if good then s.shardResident c f.shard else s.postFetch c f.shard

/-- STREAM_CLOSE (R353): DEV_CRC, and BAD_CRC if the CRCs differ; the stream closes either way. A range with poison cannot be read:
RESOURCE_FENCED (R331). -/
def execStreamClose (h : KcpHdr) (stream : BitVec 8) (crc : W32) (s : State) : Host.Outcome State Fault Refusal :=
  .next <| KcpCmd.arrive
    { opcode := 0x0308, need := .ctx, cls := .streamRead
      checks := fun s =>
        (if (s.fetchOf h stream.toNat).isSome then [] else closedChecks (s.streamOf h stream.toNat) ++
          -- the CRC reads the range, and a RUNNING context's state is kept clear of (R27, R336)
          ((s.streamOf h stream.toNat).toList.map fun t => (s.stateBusy (hctx h) t.addr t.bytes true, .busy))) ++
        [((s.streamSpans h stream.toNat).any fun r => (s.mem.poisonIn r.1 r.2).isSome, .fenced)]
      effect := fun s =>
        let dev := crc32c (s.mem.readSpans (s.streamSpans h stream.toNat))
        let s := s.noteReads (s.streamSpans h stream.toNat)
        let t := match s.fetchOf h stream.toNat with
          | some f => s.closeFetch (hctx h) f (dev = crc)
          | none => s.onStreams h fun ts => ts.filter fun t => t.number ≠ stream.toNat
        { st := t, status := if dev = crc then .ok else .badCrc, params := be 4 dev.toNat } }
    (.streamClose h stream crc) h s

/-- A stream of a session closes by time-out. -/
def State.timeoutStream (s : State) (slot : Nat) (x : Session) (t : Stream) : State :=
  (s.setSession slot { x with streams := x.streams.map fun u => if u.number = t.number then { u with timedOut := true } else u }).raise
    0x40 (some t.context) unitModule (BitVec.ofNat 64 t.number) 0

/-- The context and fetch that a device stream number of a session serves. -/
def State.fetchBy (s : State) (x : Session) (n : Nat) : Option (Nat × Fetch) :=
  s.ctxs.findSome? fun e => if e.2.cistern = some x.id then (e.2.fetches.find? fun f => f.stream = n).map fun f => (e.1, f) else none

/-- STREAM_TIMEOUT: a stream that has seen no packet for 100 ms closes (R353). A Cistern fetch whose stream closes so is posted
again, as one whose close fails. -/
def execStreamTimeout (slot : Fin 16) (stream : Fin 32) (s : State) : Host.Outcome State Fault Refusal :=
  .next (whenReady (s.session? slot) (fun x =>
    if stream.val < 16 then
      whenReady (x.streams.find? fun t => t.number = stream.val && t.isOpen) (fun t => s.timeoutStream slot x t) s
    else whenReady (s.fetchBy x stream) (fun f =>
      (s.raise 0x40 (some f.1) unitModule (BitVec.ofNat 64 stream.val) 0).postFetch f.1 f.2.shard) s) s)

/-! ### The Cistern (R213, R355) -/

/-- Post every fetch of a context again. -/
def State.repost (s : State) (c : Nat) : State := (s.ctx c).fetches.foldl (fun s f => s.postFetch c f.shard) s

/-- CISTERN_ATTACH (R355): this session becomes the context's server; outstanding fetches are posted again to it. -/
def execCisternAttach (h : KcpHdr) (s : State) : Host.Outcome State Fault Refusal :=
  .next <| KcpCmd.arrive
    { opcode := 0x0309, need := .ctx, cls := .memory
      effect := fun s => done (s.onCtx (hctx h) fun c => { c with cistern := some h.session })
      after := fun s => s.repost (hctx h) } (.cisternAttach h) h s

/-- The context's shard is in the Cistern's host memory and no fetch of it is under way. -/
def Ctx.fetchable (x : Ctx) (shard : Nat) : Bool :=
  ([CtxState.loaded, .running, .holding, .held].contains x.state) &&
  ((x.shards[shard]?).any fun t => t.inCistern && !t.parityPart) && !(x.fetches.any fun f => f.shard = shard && f.stream ≠ 0)

/-- Place of a shard in the order of R208: its next step, the stage-table order of its layer, its first block. -/
def Plan.shardPlace (q : Plan) (t : Shard) : Nat :=
  t.step * 2 ^ 64 + ((stageOrder q.p).findIdx fun u => uLayer u = t.layer && uExpert u = t.expert) * 2 ^ 32 + t.first

/-- No other shard of the context that could be fetched comes before this one (R213). -/
def State.fetchFirst (s : State) (c shard : Nat) : Bool :=
  (s.plan c).all fun q => ((s.ctx c).shards[shard]?).all fun t => (s.ctx c).shards.zipIdx.all fun u =>
    !(s.ctx c).fetchable u.2 || decide (q.shardPlace t ≤ q.shardPlace u.1)

/-- CISTERN_PREFETCH: firmware posts a fetch of a shard's state, in the order in which the updates will need them (R208, R213). -/
def execCisternPrefetch (ctx : Fin 64) (shard : Nat) (s : State) : Host.Outcome State Fault Refusal :=
  .next (onlyIf (s.firmware && (s.ctx ctx).fetchable shard && s.fetchFirst ctx shard) (fun s => s.postFetch ctx shard) s)

/-! ### SHARD_SET (R195) -/

/-- Index of the owned shard that begins at a block. -/
def Ctx.shardAt (x : Ctx) (layer expert first : Nat) : Option Nat :=
  x.shards.findIdx? fun t => t.layer = layer && t.expert = expert && t.first = first

/-- SHARD_SET (R195, R330). -/
def execShardSet (h : KcpHdr) (layer expert : W16) (firstBlock momentAge b1pow b2pow : W32) (s : State) : Host.Outcome State Fault Refusal :=
  .next <| KcpCmd.arrive
    { opcode := 0x030A, need := .ctx, cls := .held
      checks := fun s =>
        [((((s.ctx (hctx h)).program.isSome && ((s.ctx (hctx h)).shardAt layer.toNat expert.toNat firstBlock.toNat).isNone)) || !f32in 0 0x3F800000 b1pow ||
            !f32in 0 0x3F800000 b2pow, .badParam),
         (!(s.ctx (hctx h)).settled, .busy)]
      effect := fun s => done (match (s.ctx (hctx h)).shardAt layer.toNat expert.toNat firstBlock.toNat with
        | none => s
        | some i => s.onCtx (hctx h) fun c => { c with shards := c.shards.modify i fun t =>
            { t with age := momentAge, b1pow := b1pow, b2pow := b2pow } }) }
    (.shardSet h layer expert firstBlock momentAge b1pow b2pow) h s

end Sys2Proof.Machine
end

