-- ==== Sys2Proof/Machine/Mxa.lean ====
section
/-!
DEFINITION. What a pass computes: operands as the DMA engines build them (R69, R76, R314), masks (R75, R77), column sums
(R42, R43, R46, R48) and promotion at the Weir (R44, R45, R78, R79).
-/
namespace Sys2Proof.Machine

open Sys2Proof

/-! ### Geometry of a task (R66, R341) -/

/-- First streaming index of a task. -/
def taskStream (t : Rec) : Nat := if (taskCtl t).aStat then taskN0 t else taskM0 t
/-- First stationary index. -/
def taskStat (t : Rec) : Nat := if (taskCtl t).aStat then taskM0 t else taskN0 t

/-- Runs of one tile of a task (R78). -/
def ArrayCtl.runs (c : ArrayCtl) : Nat := c.slices * c.perSlice

/-- Elements of a K slice that a pass feeds (R76). -/
def ArrayCtl.sliceLen (c : ArrayCtl) (slice : Nat) : Nat := min (kPass c.fmt) (c.kExt - slice * kPass c.fmt)

/-! ### Masks (R75, R77) -/

/-- Rows of the tile at position `b` that are fed. -/
def fedRows (m : Mem) (t : Rec) (b : Nat) : List Nat :=
  let c := taskCtl t
  (List.range (c.rowsOf b)).filter fun i =>
    !c.rmask || decide ((m.byte (t.field 4 47 0 + 16 * b + i / 8)).toNat.testBit (i % 8))

/-- Lane whose cell forms the product of K element `j` (R77). -/
def maskLane (fmt j : Nat) : Nat := if fmt = 4 || fmt = 6 then j / 2 else if 7 ≤ fmt then 2 * j + 1 else j

/-- Address of the mask byte of row `i`, element `j`, of a slice's block for the tile at `b`. -/
def maskByte (t : Rec) (slice b i j : Nat) : Nat :=
  let c := taskCtl t
  t.field 5 47 0 + 32 * (slice * c.stream + 128 * b + (i + maskLane c.fmt j) % c.rowsOf b) + j / 8

/-- The element mask keeps a product. -/
def keepsElement (m : Mem) (t : Rec) (slice b i j : Nat) : Bool :=
  !(taskCtl t).emask || (m.byte (maskByte t slice b i j)).toNat.testBit (j % 8)

/-! ### Operand elements in the operand format (R49, R50, R314) -/

/-- A run of elements along K as the array receives it: codes, block scales, conversion flags. -/
structure Built where
  codes  : List Nat
  scales : List Nat := []
  flags  : Nat := 0

/-- Two element formats are one. -/
def sameFmt (f g : Fmt) : Bool := decide (f.ebits = g.ebits) && decide (f.fbits = g.fbits)

/-- Convert values block by block (R50), each with whether the mask keeps a product of it. The flags of an element whose products are all
dropped do not count, and those of a whole block count with any of its elements (R46). -/
def buildMx (f : Fmt) (xs : List (Num × Bool)) : Built :=
  (List.range ((xs.length + 31) / 32)).foldl (fun r k =>
    let blk := (xs.drop (32 * k)).take 32
    let e := mxElements f (blk.map (·.1))
    let fl := (e.2.1.zip blk).foldl (fun g x => if x.2.2 then g ||| x.1.2 ||| e.2.2 else g) 0
    { codes := r.codes ++ e.2.1.map (·.1), scales := r.scales ++ [e.1], flags := r.flags ||| fl }) { codes := [] }

/-- Convert element by element (R49); the flags of dropped elements do not count (R46). -/
def buildPlain (enc : Num → Flagged Nat) (xs : List (Num × Bool)) : Built :=
  let cs := xs.map fun x => (enc x.1, x.2)
  { codes := cs.map (·.1.1), flags := cs.foldl (fun f c => if c.2 then f ||| c.1.2 else f) 0 }

/-- Overflow of a load conversion: the default of R49. -/
def loadOver (f : Fmt) : Over := if f.ieee then .toInf else .saturate

/-- Elements `k0` to `k0 + n − 1` at matrix index `x` of an operand tensor, in the operand format. MX blocks are taken as they are stored
where they lie as the pass takes them; else the values are formed into new blocks (log entry 113). -/
def Mem.build (m : Mem) (t : Tensor) (dst : EFmt) (x k0 n : Nat) (keep : Nat → Bool) : Built :=
  let ks := List.range n
  let at' : Nat → Idx := fun k => (k0 + k, x, 0, 0)
  let raw := ks.map fun k => m.rawElem t (at' k)
  let vals := (ks.map fun k => m.elem t (at' k)).zip (ks.map keep)
  match dst, eFmt t.fmt with
  | .mx f _, some (.mx g _) =>
    if sameFmt f g && k0 % 32 = 0 then
      { codes := raw, scales := (List.range ((n + 31) / 32)).map fun b => (m.byte (t.scaleAddr (at' (32 * b)))).toNat }
    else buildMx f vals
  | .mx f _, _ => buildMx f vals
  | .float f _, some (.float g _) =>
    if sameFmt f g then { codes := raw } else buildPlain (f.encode (loadOver f)) vals
  | .float f _, _ => buildPlain (f.encode (loadOver f)) vals
  | .int b, some (.int g) =>
    if b = g then { codes := raw } else buildPlain (fun v => let r := toIntSat b v; (twos b r.1, r.2)) vals
  | .int b, _ => buildPlain (fun v => let r := toIntSat b v; (twos b r.1, r.2)) vals
  | .record, _ => { codes := raw }

/-! ### Streaming blocks and stationary images (R62, R63, R67, R68) -/

/-- Bytes of one streaming row or stationary column, lane by lane: an element a lane, two nibbles a lane, or half an element a lane (R62).
Lanes that carry nothing are 0. -/
def laneBytes (fmt : Nat) (codes : List Nat) : List Byte :=
  (List.range 128).map fun r => BitVec.ofNat 8 (
    if fmt = 4 || fmt = 6 then codes.getD (2 * r) 0 + 16 * codes.getD (2 * r + 1) 0
    else if 7 ≤ fmt then codes.getD (r / 2) 0 / 256 ^ (r % 2)
    else codes.getD r 0)

/-- The element that K element `k` of the lanes' bytes spells. -/
def laneCode (fmt : Nat) (lane : Nat → Byte) (k : Nat) : Nat :=
  if fmt = 4 || fmt = 6 then (lane (k / 2)).toNat / 16 ^ (k % 2) % 16
  else if 7 ≤ fmt then (lane (2 * k)).toNat + 256 * (lane (2 * k + 1)).toNat
  else (lane k).toNat

/-- A streaming block of `n` slices, `w` bytes each, of the rows' bytes: byte `r` of slice `s` is that of row (s − r) mod n; a row that is not
listed reads as zeros (R67). With 128 lanes it holds the elements, with 8 side lanes the scales. -/
def streamSlices (w n : Nat) (rows : Nat → List Byte) : List (List Byte) :=
  (List.range n).map fun s => (List.range w).map fun r => (rows ((s + n - r % n) % n)).getD r 0

/-- The byte that lane `r` is fed of row `i`: at offset w × ((i + r) mod n) + r of the block (R67, R75). -/
def fedByte (block : List (List Byte)) (n i r : Nat) : Byte := (block.getD ((i + r) % n) []).getD r 0

/-- A stationary image: image row `r` at byte offset 256 × r, byte `c` of it for column `c` (R68). With the scales of the columns it is
their plane, one row of 256 for each block. -/
def imageRows (n : Nat) (cols : List (List Byte)) : List (List Byte) :=
  (List.range n).map fun r => (List.range 256).map fun c => (cols.getD c []).getD r 0

/-- What the array is fed of the rows of a tile: the codes that its lanes read from the streaming block. -/
def feedStream (fmt n k : Nat) (rows : List (Nat × Built)) : List (Nat × List Nat) :=
  let lanes := rows.map fun x => (x.1, laneBytes fmt x.2.codes)
  let block := streamSlices 128 n fun i => (lanes.lookup i).getD []
  rows.map fun x => (x.1, (List.range k).map (laneCode fmt (fedByte block n x.1)))

/-- The scales that its side lanes read with them. -/
def feedScales (n : Nat) (rows : List (Nat × Built)) : List (List Nat) :=
  let sides := rows.map fun x => (x.1, x.2.scales.map fun (v : Nat) => (BitVec.ofNat 8 v : Byte))
  let block := streamSlices 8 n fun i => (sides.lookup i).getD []
  rows.map fun x => (List.range x.2.scales.length).map fun b => (fedByte block n x.1 b).toNat

/-- What the cells hold of the columns: the codes of the stationary image. -/
def loadImage (fmt k : Nat) (cols : List Built) : List (List Nat) :=
  let image := imageRows 128 (cols.map fun x => laneBytes fmt x.codes)
  (List.range cols.length).map fun c => (List.range k).map (laneCode fmt fun r => (image.getD r []).getD c 0)

/-- The scales that the top cells of the blocks hold (R63). -/
def loadScales (k : Nat) (cols : List Built) : List (List Nat) :=
  let plane := imageRows (k / 32) (cols.map fun x => x.scales.map fun (v : Nat) => (BitVec.ofNat 8 v : Byte))
  cols.zipIdx.map fun x => (List.range x.1.scales.length).map fun b => ((plane.getD b []).getD x.2 0).toNat

/-- Bytes that building those elements reads. -/
def Tensor.runRanges (t : Tensor) (x k0 n : Nat) : List (Nat × Nat) := (List.range n).flatMap fun k => t.touched (k0 + k, x, 0, 0)

/-- Build the operands of a pass: run `r` of the tile at position `b` (R67 to R69, R71, R314). -/
def Mem.buildPass (m : Mem) (g t : Rec) (b r : Nat) : Pass :=
  let c := taskCtl t
  let slice := r / c.perSlice
  let n := c.sliceLen slice
  let k0 := taskK0 t + slice * kPass c.fmt
  let ta := m.tensor (gridArgA g)
  let tb := m.tensor (gridArgB g)
  let ts := if c.aStat then tb else ta
  let tt := if c.aStat then ta else tb
  let fed := fedRows m t b
  let rows := fed.map fun i => (i, m.build ts (c.operand c.aStat) (taskStream t + 128 * b + i) k0 n (keepsElement m t slice b i))
  let cols := if fed.isEmpty then [] else
    (List.range c.cols).map fun j => m.build tt (c.operand (!c.aStat)) (taskStat t + j) k0 n
      fun k => fed.any fun i => keepsElement m t slice b i k
  let rowFlags := rows.foldl (fun f x => f ||| x.2.flags) 0
  let hit := (cols.zipIdx.filter fun x => x.1.flags ≠ 0).map (·.2)
  { kind := .stat 0 0 0 0, ctx := 0, run := r, pos := b, fmt := c.fmt
    split := if c.fmt = 9 then r % c.perSlice + 1 else 0
    overwr := decide (r = 0) && !c.acc, fin := c.fin && decide (r + 1 = c.runs), cols := c.cols, zfill := c.zfill
    -- the pieces of a split FP32 operand have a form of their own inside the DMA engines and the array (R62): their codes stay FP32
    rows := if c.fmt = 9 then rows.map fun x => (x.1, x.2.codes) else feedStream c.fmt (c.rowsOf b) n rows
    rowSc := feedScales (c.rowsOf b) rows
    image := if c.fmt = 9 then cols.map (·.codes) else loadImage c.fmt n cols
    imageSc := loadScales (kPass c.fmt) cols
    keep := if c.emask then fed.map fun i => (List.range n).map (keepsElement m t slice b i) else []
    aStat := c.aStat, mxA := c.mxA, mxB := c.mxB
    dmaFlags := rowFlags ||| cols.foldl (fun f x => f ||| x.flags) 0
    -- the flags of a streaming element belong to every written column, those of a stationary one to its own
    dmaLo := if rowFlags ≠ 0 then 0 else hit.headD 255
    dmaHi := if rowFlags ≠ 0 then c.cols - 1 else hit.getLastD 0 }

/-- Bytes that the DMA engines read for a pass: masks and the elements of fed rows and written columns. -/
def Mem.passRanges (m : Mem) (g t : Rec) (b r : Nat) : List (Nat × Nat) :=
  let c := taskCtl t
  let slice := r / c.perSlice
  let n := c.sliceLen slice
  let k0 := taskK0 t + slice * kPass c.fmt
  let ta := m.tensor (gridArgA g)
  let tb := m.tensor (gridArgB g)
  let fed := fedRows m t b
  (if c.rmask then [(t.field 4 47 0 + 16 * b, 16)] else []) ++
  (if c.emask then [(t.field 5 47 0 + 32 * (slice * c.stream + 128 * b), 32 * c.rowsOf b)] else []) ++
  (fed.flatMap fun i => (if c.aStat then tb else ta).runRanges (taskStream t + 128 * b + i) k0 n) ++
  (if fed.isEmpty then [] else
    (List.range c.cols).flatMap fun j => (if c.aStat then ta else tb).runRanges (taskStat t + j) k0 n)

/-! ### Column sums (R42, R43, R45, R48) -/

/-- Signs of the infinities seen: bit 0 for +, bit 1 for −. -/
def seeInf (seen : Nat) (x : Num) : Nat :=
  match x with
  | .inf neg => seen ||| (if neg then 2 else 1)
  | _ => seen

/-- A product in a column-sum format: exact but for overflow and underflow (R43). -/
def colProduct (cs : Fmt) (a b : Num) : Flagged Num :=
  let p := a.mul b
  let r := cs.round p.1
  (r.1, p.2 ||| r.2)

/-- State of a column sum: value, flags, signs of infinities seen. -/
structure ColSum where
  v     : Num := nZero
  flags : Nat := 0
  seen  : Nat := 0

/-- Add one term in a column-sum format, with one rounding (R42). A sum that is NaN stays NaN and raises nothing more; the
signs of infinities are kept beside it (R45). -/
def ColSum.add (cs : Fmt) (x : ColSum) (p : Flagged Num) : ColSum :=
  let seen := seeInf x.seen p.1
  if x.v.isNan || p.1.isNan then { v := .nan, flags := x.flags ||| p.2, seen := seen } else
  let r := cs.round (x.v.add p.1).1
  { v := r.1, flags := x.flags ||| p.2 ||| r.2, seen := seeInf seen r.1 }

/-- The exact sum of one MX block's products, then its scales, as one term (R42). -/
def blockTerm (sa sb : Nat) (xs : List (Nat × Nat)) : Flagged Num :=
  let s := xs.foldl (fun t x => (t.add ((e2m1.decode x.1).mul (e2m1.decode x.2)).1).1) nZero
  if sa = 255 || sb = 255 then (.nan, fNan) else
  match s with
  | .fin n m e => cs24.round (.fin n m (e + (sa : Int) + (sb : Int) - 254))
  | y => (y, 0)

/-- Value of an operand code of a pairing. -/
def operandValue (f : EFmt) (scale code : Nat) : Num :=
  match f with
  | .float g _ => g.decode code
  | .mx g _ => mxValue g scale code
  | .int b => .ofInt (sext b code)
  | .record => .nan

/-- The format of operand A (`false`) or B of a pass. -/
def Pass.operand (p : Pass) (b : Bool) : EFmt :=
  match pairFmt p.fmt b with
  | .float f n => if (if b then p.mxB else p.mxA) then .mx f n else .float f n
  | y => y

/-- One product of a split FP32 pass (R48): none where it is dropped at the cell. `a` and `b` are FP32 codes of A and B. -/
def splitProduct (pass : Nat) (a b : W32) : Option (Num × Num) :=
  let x := splitF32 a
  let y := splitF32 b
  if pass ≠ 1 && (f32isInf a || f32isInf b) then none else
  match pass with
  | 1 => some (x.1, y.1)
  | 2 => some (x.1, y.2.1)
  | 3 => some (x.2.1, y.1)
  | 4 => some (x.1, y.2.2)
  | 5 => some (x.2.1, y.2.1)
  | 6 => some (x.2.2, y.1)
  | 7 => some (x.2.2, (y.2.1.add y.2.2).1)
  | _ => some (x.2.1, y.2.2)

/-- Terms of a column's run: (streaming code, stationary code, kept) per K element. -/
def Pass.terms (p : Pass) (xs : List (Nat × Nat × Bool)) (rowSc colSc : List Nat) : List (Flagged Num) :=
  let kept := xs.zipIdx.filter fun x => x.1.2.2
  let cs := if 7 ≤ p.fmt then cs40 else cs24
  if p.fmt = 4 then
    (List.range ((xs.length + 31) / 32)).filterMap fun k =>
      let ys := kept.filter fun x => x.2 / 32 = k
      if ys.isEmpty then none else some (blockTerm (rowSc.getD k 0) (colSc.getD k 0) (ys.map fun x => (x.1.1, x.1.2.1)))
  else if p.fmt = 9 then
    kept.filterMap fun x =>
      let s : W32 := BitVec.ofNat 32 x.1.1
      let t : W32 := BitVec.ofNat 32 x.1.2.1
      (if p.aStat then splitProduct p.split t s else splitProduct p.split s t).map fun y => colProduct cs y.1 y.2
  else
    kept.map fun x => colProduct cs (operandValue (p.operand p.aStat) (rowSc.getD (x.2 / 32) 0) x.1.1)
      (operandValue (p.operand (!p.aStat)) (colSc.getD (x.2 / 32) 0) x.1.2.1)

/-- Column-sum format of a pairing (R62). -/
def Pass.cs (p : Pass) : Fmt := if 7 ≤ p.fmt then cs40 else cs24

/-- Exact integer sum of a run (R42). -/
def Pass.intSum (p : Pass) (xs : List (Nat × Nat × Bool)) : Int :=
  let b := if p.fmt = 5 then 8 else 4
  (xs.filter fun x => x.2.2).foldl (fun t x => t + sext b x.1 * sext b x.2.1) 0

/-! ### Promotion (R44, R45, R78) -/

/-- What a tile element becomes by a run. -/
structure Promoted where
  word  : W32
  seen  : Nat := 0
  flags : Nat := 0

/-- Promote a floating run: `first` is the operation's first run on the tile; the initial value counts only then (R45). -/
def promote (cs : Fmt) (overwrite first : Bool) (old : W32) (seen : Nat) (terms : List (Flagged Num)) : Promoted :=
  let t := val old
  let seen0 := if first then (if overwrite then 0 else seeInf 0 t) else seen
  let r := terms.foldl (ColSum.add cs) { seen := seen0 }
  let x := if overwrite then (r.v, 0) else if t.isNan || r.v.isNan then (.nan, 0) else ((t.add r.v).1, 0)
  let w := rnd x
  let seen1 := seeInf r.seen (val w.1)
  { word := w.1, seen := seen1
    flags := r.flags ||| w.2 ||| (if first && !overwrite && t.isNan then fNan else 0) |||
      (if seen1 = 3 && seen0 ≠ 3 then fInv else 0) }

/-- Promote an integer run (R44): saturates with SAT. -/
def promoteInt (overwrite : Bool) (old : W32) (sum : Int) : Promoted :=
  let r := toIntSat 32 (.ofInt (if overwrite then sum else old.toInt + sum))
  { word := BitVec.ofInt 32 r.1, flags := r.2 }

/-- A value that infinities of both signs leave is NaN, whatever order they came in (R45 rule 2). -/
def Promoted.settle (x : Promoted) : Promoted := if x.seen = 3 then { x with word := f32nan } else x

/-- Column results of one fed row of a pass: column, promoted element. -/
def Pass.rowResult (p : Pass) (old : Nat → W32 × Nat) (i : Nat) (codes sc : List Nat) (keep : List Bool) : List (Nat × Promoted) :=
  (p.image.zip (p.imageSc ++ List.replicate p.image.length [])).zipIdx.map fun col =>
    let xs := (codes.zip (col.1.1)).zipIdx.map fun x => (x.1.1, x.1.2, if keep.isEmpty then true else keep.getD x.2 true)
    let o := old (256 * i + col.2)
    (col.2, if intPair p.fmt then promoteInt p.overwr o.1 (p.intSum xs)
      else (promote p.cs p.overwr (decide (p.run = 0)) o.1 o.2 (p.terms xs sc col.1.2)).settle)

/-- A pass's runs promoted into its tile, with the flags and columns that R79 records. -/
def Tile.promotePass (t : Tile) (p : Pass) : Tile :=
  let old := fun k => (Tab.get 0 t.elems k, Tab.get 0 t.seen k)
  let res := p.rows.zipIdx.flatMap fun r =>
    (p.rowResult old r.1.1 r.1.2 (p.rowSc.getD r.2 []) (p.keep.getD r.2 [])).map fun c => (256 * r.1.1 + c.1, c.1, c.2)
  let fl := res.foldl (fun f x => f ||| x.2.2.flags) 0
  let hit := (res.filter fun x => x.2.2.flags ≠ 0).map fun x => x.2.1
  { t with
    elems := res.foldl (fun e x => Tab.put e x.1 x.2.2.word) t.elems
    seen := res.foldl (fun e x => if x.2.2.seen = 0 then e else Tab.put e x.1 x.2.2.seen) t.seen
    flags := t.flags ||| fl
    firstRun := if t.firstRun.isNone && fl ≠ 0 then some p.run else t.firstRun
    colLo := hit.foldl min t.colLo, colHi := hit.foldl max t.colHi
    dmaFlags := t.dmaFlags ||| p.dmaFlags
    dmaLo := if p.dmaFlags ≠ 0 then min t.dmaLo p.dmaLo else t.dmaLo
    dmaHi := if p.dmaFlags ≠ 0 then max t.dmaHi p.dmaHi else t.dmaHi }

/-- A tile at the start of an operation: the record of flags and infinities is empty (R45, R54, R79). That flags of earlier operations without
FIN on the tile do not enter the finished tile's status word is the model's choice (DESIGN CHOICE, log entry 114). -/
def Tile.startOp (t : Tile) : Tile :=
  { t with seen := [], flags := 0, firstRun := none, colLo := 255, colHi := 0, dmaFlags := 0, dmaLo := 255, dmaHi := 0, tapFlags := 0 }

/-- Zero-fill of the unfed rows, in the columns of the operation (R75). -/
def Tile.zeroUnfed (t : Tile) (fed : List Nat) (cols : Nat) : Tile :=
  { t with elems := t.elems.filter fun e => fed.contains (e.1 / 256) || decide (cols ≤ e.1 % 256) }

end Sys2Proof.Machine
end

