-- ==== Sys2Proof/Machine/Feed.lean ====
section
/-!
DEFINITION. Grids and tasks in progress: submission (R344), waits (R345, R347), issue order (R74), completion and its signals
(R340, R341, R343), and the tiles that a task runs on (R80, R81).
-/
namespace Sys2Proof.Machine

open Sys2Proof

/-! ### Grids -/

def Ctx.grid? (x : Ctx) (slot : Nat) : Option GridRun := x.grids.find? fun g => g.slot = slot

/-- Change the grid in a slot. -/
def State.onGrid (s : State) (c slot : Nat) (f : GridRun → GridRun) : State :=
  s.onCtx c fun x => { x with grids := x.grids.map fun g => if g.slot = slot then f g else g }

def GridRun.kind (g : GridRun) : Option GridKind := gridKind (g.desc.field 0 63 60)
def GridRun.task (g : GridRun) (t : Nat) : TaskRun := Tab.get {} g.tasks t

/-- Change the progress of a task. -/
def State.onTask (s : State) (c slot t : Nat) (f : TaskRun → TaskRun) : State :=
  s.onGrid c slot fun g => { g with tasks := Tab.modify {} g.tasks t f }

/-- A grid enters a slot with the context's next grid sequence number (R344). -/
def State.submit (s : State) (c slot : Nat) (desc : Rec) (step : Option Nat) : State :=
  s.onCtx c fun x => { x with gseq := x.gseq + 1, grids := x.grids ++ [{ slot := slot, gseq := x.gseq, desc := desc, step := step }] }

/-- Submit the step grids of the last started step whose slots are free, in ascending table index (R344, R349). -/
def State.submitFuel (fuel : Nat) (s : State) (c : Nat) : State :=
  match fuel with
  | 0 => s
  | k + 1 =>
    let x := s.ctx c
    match x.program with
    | none => s
    | some p =>
      match p.grids[x.nextGrid]? with
      | none => s
      | some g =>
        if (x.grid? (p.baseSlot + x.nextGrid)).isSome then s else
        State.submitFuel k ((s.submit c (p.baseSlot + x.nextGrid) g (some x.started)).onCtx c fun y => { y with nextGrid := y.nextGrid + 1 }) c

def State.submitGrids (s : State) (c : Nat) : State :=
  let x := s.ctx c
  if x.state = .running || x.state = .holding then State.submitFuel ((x.program.elim 0 fun p => p.grids.length) + 1) s c else s

/-! ### Waits (R345, R347) -/

/-- A wait on a fence is satisfied: in a step grid the target moves by STRIDE per step. -/
def State.waitOk (s : State) (fence : Nat) (value : W32) (step : Option Nat) : Bool :=
  match Tab.find? s.fences fence with
  | none => false
  | some f =>
    let target := match step with
      | some n => value + BitVec.ofNat 32 ((n - 1) * f.stride.toNat)
      | none => value
    fenceReached f.value target

/-- The grid's wait is satisfied. -/
def State.gridOpen (s : State) (g : GridRun) : Bool :=
  g.desc.field 0 59 59 = 0 || s.waitOk (g.desc.field 0 57 44) (BitVec.ofNat 32 (g.desc.field 1 63 32)) g.step

/-- A task record's wait is satisfied. -/
def State.taskOpen (s : State) (g : GridRun) (r : Rec) : Bool :=
  r.field 0 59 59 = 0 || s.waitOk (r.field 0 55 42) (BitVec.ofNat 32 (r.field 7 31 0)) g.step

/-- The context's state lets the grid be fed (R344). -/
def Ctx.feeds (x : Ctx) (g : GridRun) : Bool :=
  match g.step with
  | some _ => x.state = .running || x.state = .holding
  | none => x.state = .loaded || x.state = .held

/-- The task may proceed: fed context, both waits satisfied, not complete. -/
def State.eligible (s : State) (c : Nat) (g : GridRun) (t : Nat) : Bool :=
  (s.ctx c).feeds g && decide (t < gridTasks g.desc) && !g.done.contains t && s.gridOpen g && s.taskOpen g (s.mem.task g.desc t)

/-! ### Completion (R343) -/

/-- Raise a fence where the signal is enabled. -/
def State.signalIf (s : State) (en : Bool) (f : Nat) : State := if en then s.signal f 1 else s

/-- A task completes: its signal, and with the grid's last task the grid's signal and the release of its slot. -/
def State.completeTask (s : State) (c slot t : Nat) : State :=
  match (s.ctx c).grid? slot with
  | none => s
  | some g =>
    if g.done.contains t || !decide (t < gridTasks g.desc) then s else
    let r := s.mem.task g.desc t
    let s := s.onGrid c slot fun g => { g with done := g.done ++ [t], tasks := Tab.drop g.tasks t }
    let s := s.signalIf (r.field 0 58 58 = 1) (r.field 0 41 28)
    if g.done.length + 1 < gridTasks g.desc then s else
    let s := s.onCtx c fun x => { x with grids := x.grids.filter fun g => g.slot ≠ slot }
    (s.signalIf (g.desc.field 0 58 58 = 1) (g.desc.field 0 43 30)).submitGrids c

/-- Change an update block of a shard. -/
def State.onBlock (s : State) (c i b : Nat) (f : Block → Block) : State :=
  s.onCtx c fun k => { k with shards := k.shards.modify i fun t => { t with blocks := Tab.modify {} t.blocks b f } }

/-! ### Tiles -/

/-- Bank and index of a context's tile handle. -/
def State.tileAt (s : State) (c h : Nat) : Option (Nat × Nat) :=
  s.arrays.findSome? fun (a : Nat × ArrayUnit) =>
    (List.find? (fun (t : Nat × Tile) => decide (t.2.ctx = c) && decide (t.2.handle = h) && decide (t.2.st ≠ .free)) a.2.tiles).map fun t => (a.1, t.1)

def State.onTile (s : State) (a k : Nat) (f : Tile → Tile) : State :=
  s.onArray a fun x => { x with tiles := Tab.modify {} x.tiles k f }

/-- MXA tasks of a context that are not complete, in issue order: slot, task index, record. -/
def State.mxaTasks (s : State) (c : Nat) : List (GridRun × Nat × Rec) :=
  (s.ctx c).grids.flatMap fun g =>
    if g.kind = some .mxa then
      ((List.range (gridTasks g.desc)).filter fun t => !g.done.contains t).map fun t => (g, t, s.mem.task g.desc t)
    else []

/-- The context's oldest MXA task with a run not yet fed. -/
def State.unfed (s : State) (c : Nat) : Option (GridRun × Nat × Rec) :=
  (s.mxaTasks c).find? fun x =>
    let k := taskCtl x.2.2
    (s.ctx c).feeds x.1 && (List.range k.tiles).any fun b => decide (Tab.get 0 (x.1.task x.2.1).started b < k.runs)

/-- The task names the tile, and its last write to it, or with FIN the tile's hand-over to the Sluice, is still to come (R81). -/
def State.unfinishedOn (s : State) (g : GridRun) (t : Nat) (r : Rec) (c h : Nat) : Bool :=
  let k := taskCtl r
  let b := h - k.lease
  decide (k.lease ≤ h) && decide (b < k.tiles) &&
  (decide (Tab.get 0 (g.task t).ended b < k.runs) ||
    (k.fin && (match s.tileAt c h with | some p => decide ((Tab.get {} (s.array p.1).tiles p.2).st = .handover) | none => false)))

/-- The scheduler has accepted the task: its waits are satisfied, or it has fed a pass (R81; log entry 76). -/
def State.acceptedOp (s : State) (c : Nat) (g : GridRun) (t : Nat) : Bool :=
  s.eligible c g t || (g.task t).started.any fun e => decide (0 < e.2)

/-- The task has fed a pass on the tile. -/
def GridRun.fedOn (g : GridRun) (t : Nat) (r : Rec) (h : Nat) : Bool := decide (0 < Tab.get 0 (g.task t).started (h - (taskCtl r).lease))

/-- Another operation of the context is in flight on the tile: one before it in issue order that has been accepted, or any that has fed
a pass on the tile (R81). -/
def State.aliased (s : State) (c slot t h : Nat) : Bool :=
  let xs := s.mxaTasks c
  let self := fun (x : GridRun × Nat × Rec) => decide (x.1.slot = slot) && decide (x.2.1 = t)
  (xs.takeWhile fun x => !self x).any (fun x => s.acceptedOp c x.1 x.2.1 && s.unfinishedOn x.1 x.2.1 x.2.2 c h) ||
  xs.any fun x => !self x && x.1.fedOn x.2.1 x.2.2 h && s.unfinishedOn x.1 x.2.1 x.2.2 c h

end Sys2Proof.Machine
end

