-- ==== Sys2Proof/Machine/Rill.lean ====
section
/-!
DEFINITION. The Rill and the statistics passes: which micro-batch and group a tapping task belongs to (R130, R134), kept rows
(R131), their conversion (R132) and staging (R133), statistics passes and the step sum (R135 to R137).
-/
namespace Sys2Proof.Machine

open Sys2Proof

/-! ### Keys -/

/-- Key of a count kept per step, layer (its index in the Statistics Layer Table), side, and group or block. -/
def stepKey (step layer side x : Nat) : Nat := ((step * 2 ^ 14 + layer) * 2 + side) * 2 ^ 32 + x
/-- Key of a factor block. -/
def blockKey (layer side block : Nat) : Nat := (layer * 2 + side) * 2 ^ 32 + block
/-- Step of a `stepKey`. -/
def keyStep (k : Nat) : Nat := k / 2 ^ 47

/-! ### Which tasks tap (R130) -/

/-- Index of the descriptor that TAP_LAYER names: the first one of that layer (log entry 28). -/
def Program.tapIndex (p : Program) (t : Rec) : Option Nat := p.stats.findIdx? fun d => uLayer d = taskTapLayer t && !sGrad d

/-- The tap of a side is at the Weir. -/
def atWeir (d : Rec) (side : Nat) : Bool := if side = 0 then d.field 0 9 9 = 1 else d.field 0 8 8 = 1

/-- Taps that a task makes: passes for a feed tap of an operation's first columns, tiles for a Weir tap of a finished task. -/
def tapUnits (d : Rec) (side : Nat) (t : Rec) : Nat :=
  let k := taskCtl t
  if atWeir d side then (if k.fin then k.tiles else 0) else if taskStat t = 0 then k.tiles * k.slices else 0

/-- A tapping task of the program. -/
structure TapTask where
  grid  : Nat
  task  : Nat
  group : Nat
  slot  : Nat     -- micro-batch slot in the group
  units : Nat

/-- The tapping tasks of a layer and side in issue order. The micro-batch is counted from the rows that earlier tapping tasks of
the same first column and K cover (log entry 28). -/
def tapPlan (m : Mem) (p : Program) (layer side : Nat) : List TapTask :=
  match p.stats[layer]? with
  | none => []
  | some d =>
    let all := p.grids.zipIdx.flatMap fun g =>
      if g.1.field 0 63 60 = 0 then (List.range (gridTasks g.1)).map fun t => (g.2, t, m.task g.1 t) else []
    let mine := all.filter fun x => taskTapSel x.2.2 = side + 1 && p.tapIndex x.2.2 = some layer && decide (0 < tapUnits d side x.2.2)
    (mine.foldl (fun (r : List TapTask × List ((Nat × Nat) × Nat)) x =>
      let key := (taskStat x.2.2, taskK0 x.2.2)
      let before := (r.2.lookup key).getD 0
      let k := min (before / sTokens d) (sMicro d - 1)
      (r.1 ++ [{ grid := x.1, task := x.2.1, group := k / sPerGroup d, slot := k % sPerGroup d, units := tapUnits d side x.2.2 }],
       (key, before + (taskCtl x.2.2).stream) :: r.2.filter fun y => y.1 ≠ key)) ([], [])).1

/-- The tap of a task of a step grid: layer index, side, plan entry, step. -/
def State.tapOf (s : State) (c : Nat) (g : GridRun) (t : Nat) (r : Rec) : Option (Nat × Nat × TapTask × Nat) :=
  match (s.ctx c).program, g.step with
  | some p, some n =>
    if taskTapSel r = 0 then none else
    match p.tapIndex r with
    | none => none
    | some l =>
      ((tapPlan s.mem p l (taskTapSel r - 1)).find? fun x => x.grid = g.slot - p.baseSlot && x.task = t).map fun x => (l, taskTapSel r - 1, x, n)
  | _, _ => none

/-- Taps that a group's tasks make in a step. -/
def tapsExpected (m : Mem) (p : Program) (layer side group : Nat) : Nat :=
  (tapPlan m p layer side).foldl (fun n x => if x.group = group then n + x.units else n) 0

/-! ### Progress of the groups (R134, R136) -/

def Ctx.tapsMade (x : Ctx) (n layer side group : Nat) : Nat := Tab.get 0 x.stats.tapped (stepKey n layer side group)
def Ctx.groupsAdded (x : Ctx) (n layer side block : Nat) : Nat := Tab.get 0 x.stats.groups (stepKey n layer side block)
def Ctx.absorbedStep (x : Ctx) (layer side block : Nat) : Nat := Tab.get 0 x.stats.absorbed (blockKey layer side block)

/-- The staging half that group `g` of step `n` takes is free: the statistics passes of the group that used it last have been
added (R134; for the first two groups of a step, those of the step before). -/
def Ctx.stageFree (x : Ctx) (d : Rec) (layer side n g : Nat) : Bool :=
  (List.range (sFactors d side)).all fun b =>
    if 2 ≤ g then decide (g - 1 ≤ x.groupsAdded n layer side b)
    else decide (n ≤ x.absorbedStep layer side b + 1) || decide (sGroups d ≤ x.groupsAdded (n - 1) layer side b)

/-- A tapping pass of the task may be accepted. -/
def State.tapReady (s : State) (c : Nat) (g : GridRun) (t : Nat) (r : Rec) : Bool :=
  match s.tapOf c g t r, (s.ctx c).program with
  | some (l, side, x, n), some p =>
    match p.stats[l]? with
    | some d => (s.ctx c).stageFree d l side n x.group
    | none => true
  | _, _ => true

/-! ### Tapping (R131 to R133) -/

/-- Position in partition order of an original index (R123). -/
def positionOf (m : Mem) (d : Rec) (side x : Nat) : Nat :=
  if sPerm d side = 0 then x else ((List.range (sDim d side)).find? fun k => permAt m d side k = x).getD 0

/-- Signed tap exponent of a side. -/
def tapExp (d : Rec) (side : Nat) : Int := sext 8 (if side = 0 then d.field 1 15 8 else d.field 1 7 0)

/-- A tapped element as staged: E4M3 for activations, E5M2 for output gradients, saturating (R132). -/
def tapCode (d : Rec) (side : Nat) (x : Num) : Flagged Nat :=
  let y := match x with
    | .fin n m e => .fin n m (e + tapExp d side)
    | z => z
  (if side = 0 then e4m3 else e5m2).encode .saturate y

/-- The row with index `t` of the layer's token dimension is kept in step `n` (R131). -/
def keptRow (d : Rec) (n t : Nat) : Bool := decide ((t + n) % 2 ^ sSub d = 0) && decide (t < sTokens d)

/-- Stage the kept elements of one row: original indices with their values. -/
def Mem.stageRow (m : Mem) (d : Rec) (side half slot t : Nat) (xs : List (Nat × Num)) : Mem × Nat :=
  xs.foldl (fun r x =>
    let c := tapCode d side x.2
    (r.1.write (stageAddr d side half slot (t / 2 ^ sSub d) + positionOf m d side x.1) [BitVec.ofNat 8 c.1], r.2 ||| c.2)) (m, 0)

/-- A tap of a tile or pass: rows as (token index, elements). The half is zero-filled before its first use in a group; kept rows
are counted where `counts` says that this tap is the rows' first. -/
def State.tap (s : State) (c : Nat) (d : Rec) (l side : Nat) (x : TapTask) (n : Nat) (counts : Bool) (rows : List (Nat × List (Nat × Num))) :
    State × Nat :=
  let half := x.group % 2
  let first := decide ((s.ctx c).tapsMade n l side x.group = 0)
  let m := if first then s.mem.zeroFill (stageAddr d side half 0 0) (sGroupRows d * sDim d side) else s.mem
  let kept := rows.filter fun r => keptRow d n r.1
  let go := kept.foldl (fun r y => let z := r.1.stageRow d side half x.slot y.1 y.2; (z.1, r.2 ||| z.2)) (m, 0)
  let s := ({ s with mem := go.1 }).onCtx c fun k => { k with stats := { k.stats with
    tapped := Tab.modify 0 k.stats.tapped (stepKey n l side x.group) (· + 1)
    kept := if counts then Tab.modify 0 k.stats.kept (stepKey n l side 0) (· + kept.length) else k.stats.kept } }
  (if counts then s.countCtx c cTapRowsKept kept.length else s, go.2)

/-- Rows that a feed tap of a pass reads: the fed lanes of the streaming operand, with their scales (R130, R132). -/
def feedRows (p : Pass) (r : Rec) : List (Nat × List (Nat × Num)) :=
  let k := taskCtl r
  let k0 := taskK0 r + p.run / k.perSlice * kPass k.fmt
  (p.rows.zip (p.rowSc ++ List.replicate p.rows.length [])).map fun x =>
    (taskStream r + 128 * p.pos + x.1.1,
     x.1.2.zipIdx.map fun e => (k0 + e.2, operandValue (p.operand p.aStat) (x.2.getD (e.2 / 32) 0) e.1))

/-- Rows that a Weir tap reads: the written rows of the finished tile. -/
def weirRows (t : Tile) (p : Pass) (r : Rec) : List (Nat × List (Nat × Num)) :=
  p.rows.map fun x =>
    (taskStream r + 128 * p.pos + x.1,
     (List.range p.cols).map fun j =>
       let w := Tab.get 0 t.elems (256 * x.1 + j)
       (taskStat r + j, if t.int then .ofInt w.toInt else val w))

/-- The Rill's part of a pass's end: a feed tap of the pass, or a Weir tap of the finished tile. Answers the flags it raised. -/
def State.rill (s : State) (c : Nat) (g : GridRun) (t : Nat) (r : Rec) (tile : Tile) (p : Pass) : State × Nat :=
  match s.tapOf c g t r, (s.ctx c).program with
  | some (l, side, x, n), some q =>
    match q.stats[l]? with
    | none => (s, 0)
    | some d =>
      if atWeir d side then
        if p.fin then s.tap c d l side x n (decide (taskStat r = 0)) (weirRows tile p r) else (s, 0)
      else s.tap c d l side x n (decide (p.run = 0) && decide (taskK0 r = 0)) (feedRows p r)
  | _, _ => (s, 0)

/-- Flags of a tapped tile, reported as UNIT_KIND 4 once per tile (R132, R55). -/
def State.tapEvent (s : State) (c a slot t f : Nat) : State :=
  s.flagEvent c f { unitKind := 4, unitIndex := a / 24, grid := slot, task := t }

/-! ### Statistics passes (R135 to R137) -/

/-- The array to which firmware has assigned an ACT factor block's statistics passes. -/
def State.statArray (s : State) (c i : Nat) : Nat := (s.ctx c).stats.arrays.getD i 0

/-- The next group of a block's statistics passes: step and group, once its taps are complete and the group before has been
added; group 0 waits for the absorption of the step before, which reads the step sum. -/
def State.statReady (s : State) (c : Nat) (p : Program) (l side b : Nat) (d : Rec) : Option (Nat × Nat) :=
  let x := s.ctx c
  let n := x.absorbedStep l side b + 1
  let g := x.groupsAdded n l side b
  if decide (n ≤ x.started) && decide (g < sGroups d) && decide (tapsExpected s.mem p l side g ≤ x.tapsMade n l side g) then some (n, g) else none

/-- A statistics pass of the block is under way on some array. -/
def State.statRunning (s : State) (c l side b : Nat) : Bool :=
  s.arrays.any fun a => a.2.passes.any fun p => p.ctx = c && (match p.kind with | .stat l' s' b' _ => l' = l && s' = side && b' = b | _ => false)

/-- Build a statistics pass: the staging rows of the block's columns, as columns of K codes. A group with no tap reads as zeros. -/
def State.buildStat (s : State) (c : Nat) (d : Rec) (l side b n g : Nat) : Pass :=
  let len := sBlockLen d side b
  let k := sGroupRows d
  let cols := (List.range len).map fun j => (List.range k).map fun r =>
    if (s.ctx c).tapsMade n l side g = 0 then 0 else (s.mem.byte (stageAddr d side (g % 2) 0 r + b * sBlock d side + j)).toNat
  { kind := .stat l side b g, ctx := c, fmt := if side = 0 then 0 else 3, image := cols, cols := len, index := n }

/-- Element of a statistics tile: runs of 128 rows promoted in K order, in overwrite mode; with the first run that raised a flag. -/
def statElement (fmt : Nat) (x y : List Nat) : Promoted × Option Nat :=
  let f := if fmt = 0 then e4m3 else e5m2
  (List.range ((x.length + 127) / 128)).foldl (fun (r : Promoted × Option Nat) k =>
    let terms := (((x.zip y).drop (128 * k)).take 128).map fun e => colProduct cs24 (f.decode e.1) (f.decode e.2)
    let q := (promote cs24 (decide (k = 0)) (decide (k = 0)) r.1.word r.1.seen terms).settle
    ({ q with flags := r.1.flags ||| q.flags }, if r.2.isNone && q.flags ≠ 0 then some k else r.2)) ({ word := 0 }, none)

/-- A delta record of kind FACTOR_BLOCK: the upper triangle of a block's step sum with its header and CRC (R152, R153). -/
def factorRecord (m : Mem) (d : Rec) (side b n rows : Nat) : List Byte :=
  let k := sBlock d side
  let base := sumAddr d side b
  let body := (List.range k).flatMap fun i => m.read (base + 4 * (i * k + i)) (4 * (k - i))
  let head := le 2 3 ++ le 2 1 ++ le 4 (k * (k + 1) / 2) ++ le 4 0 ++ le 2 0 ++ le 2 0 ++ le 8 n ++ le 4 rows ++ le 4 body.length ++
    le 16 (tagOf m d side b).toNat
  let crc := crc32c (head ++ le 4 0 ++ le 12 0 ++ body)
  head ++ le 4 crc.toNat ++ le 12 0 ++ body

/-- Send a block's own step sum of step `n` to the other members of the replica group (R127). -/
def State.sendSum (s : State) (c : Nat) (d : Rec) (l side b n : Nat) : State :=
  let me := s.fabric.position.toNat
  ((s.replicas c).filter fun x => x ≠ me).foldl (fun s dst =>
    let r := factorRecord s.mem d side b n (Tab.get 0 (s.ctx c).stats.kept (stepKey n l side 0))
    s.sendMessage c dst clsData 0x06 0 none ((cutPayload r).map fun x => (BitVec.ofNat 64 x.1, x.2))) s

/-- The end of a statistics pass: its tile is added into the step sum, or stored for group 0; flags once per output tile (R135,
R55). The VXU chain of a statistics tile runs with the pass's end (log entry 29). -/
def State.endStat (s : State) (c a : Nat) (d : Rec) (l side b g : Nat) (p : Pass) : State :=
  let base := sumAddr d side b
  let res := (p.image.zipIdx.flatMap fun x => p.image.zipIdx.map fun y => (x.2, y.2, statElement p.fmt x.1 y.1))
  -- per output tile: its flags, the lowest and highest column that raised one, and the first run (R79)
  let go := res.foldl (fun (r : Mem × Tab (Nat × Nat × Nat × Nat)) e =>
    let at' := base + 4 * (e.1 * sBlock d side + e.2.1)
    let q := e.2.2.1
    let w := if g = 0 then (q.word, 0) else f32add (r.1.word32 at') q.word
    let f := q.flags ||| w.2
    let k := e.2.1 % 256
    let run := e.2.2.2.getD ((p.image.headD []).length / 128)
    (r.1.write at' (le 4 w.1.toNat),
     if f = 0 then r.2 else Tab.modify (0, 255, 0, run) r.2 (e.1 / 128 * 2 ^ 16 + e.2.1 / 256) fun x =>
       (x.1 ||| f, min x.2.1 k, max x.2.2.1 k, min x.2.2.2 run))) (s.mem, [])
  let s := go.2.foldl (fun s e => s.flagEvent c e.2.1
    { unitKind := 0, unitIndex := a, row := e.1 / 2 ^ 16, col := e.1 % 2 ^ 16, colFirst := e.2.2.1, colLast := e.2.2.2.1
      firstRun := e.2.2.2.2 }) { s with mem := go.1 }
  let s := s.onCtx c fun k => { k with stats := { k.stats with groups := Tab.modify 0 k.stats.groups (stepKey p.index l side b) (· + 1) } }
  if sGroups d ≤ (s.ctx c).groupsAdded p.index l side b then s.sendSum c d l side b p.index else s

end Sys2Proof.Machine
end

