-- ==== Sys2Proof/Machine/Arrays.lean ====
section
/-!
DEFINITION. The Matrix Arrays, their banks and the Sluice: the array scheduler (R71 to R75, R81, R82, R335), the end of a pass
(R70, R78, R79, R84, R96), hand-over (R97, R99), known-answer tests, repair and retirement (R85 to R92, R102).
-/
namespace Sys2Proof.Machine

open Sys2Proof

/-! ### When an array works -/

/-- The repair registers disagree (R89). -/
def trimMismatch (ctl trim : W32) : Bool :=
  (List.range 4).any fun g =>
    let x := fieldOf ctl (8 * g + 7) (8 * g)
    let y := fieldOf trim (8 * g + 7) (8 * g)
    decide (x / 128 ≠ y / 128) || (decide (x / 128 = 1) && decide (x % 32 ≠ y % 32)) || (decide (x / 128 = 1) && decide (x / 64 % 2 = 1))

/-- Spares in use (R87). -/
def spares (trim : W32) : Nat := (List.range 4).foldl (fun n g => n + fieldOf trim (8 * g + 7) (8 * g + 7)) 0

/-- The array is in service and its reset is not under way. -/
def State.arrayOn (s : State) (a : Fin 192) : Bool :=
  s.cdRuns (a.val / 24) && !(s.array a.val).retired && !s.faults.engines.contains (.array a)

/-- The array may start a pass (R85, R88, R89, R99, R102). -/
def State.arrayFeeds (s : State) (a : Fin 192) : Bool :=
  let x := s.array a.val
  s.arrayOn a && !x.halted && !trimMismatch x.spareCtl x.skewTrim && !x.katRun && x.handover.isNone && x.transfer.isEmpty

/-! ### Choosing a pass (R71, R72, R81, R82, R134) -/

/-- A pass that could start: its context, and the task's place, the statistics pass, or the update block whose array work it is. -/
inductive Candidate where
  | task (c : Nat) (g : GridRun) (t : Nat) (r : Rec) (pos run tile : Nat)
  | stat (c : Nat) (d : Rec) (layer side block step group : Nat)
  | pre (c shard block : Nat)

/-- Of the runs not started, on tiles of this array, the one that R71 puts first: position, run and tile. -/
def State.nextRun (s : State) (a c : Nat) (g : GridRun) (t : Nat) (r : Rec) : Option (Nat × Nat × Nat) :=
  let k := taskCtl r
  ((List.range k.tiles).filterMap fun b =>
    match s.tileAt c (k.lease + b) with
    | some (x, i) =>
      let n := Tab.get 0 (g.task t).started b
      if x = a && decide (n < k.runs) then some (b, n, i) else none
    | none => none).foldl (fun best x =>
      match best with
      | none => some x
      | some y => if x.2.1 < y.2.1 then some x else some y) none

/-- How a task's next run on an array stands. -/
inductive RunState where
  | ready (pos run tile : Nat)
  | aliased
  | waiting
  | staging

def State.runState (s : State) (a c : Nat) (g : GridRun) (t : Nat) (r : Rec) : Option RunState :=
  if !s.eligible c g t then none else
  match s.nextRun a c g t r with
  | none => none
  | some (b, n, i) =>
    let tile := Tab.get {} (s.array a).tiles i
    some (
      if n = 0 && s.aliased c g.slot t ((taskCtl r).lease + b) then .aliased
      else if tile.clearing || (tile.st ≠ .leased && tile.st ≠ .inPass) then .waiting
      else if !s.tapReady c g t r then .staging
      else .ready b n i)

/-- Ready statistics passes of a context on an array. -/
def State.statCandidates (s : State) (a c : Nat) : List Candidate :=
  match (s.ctx c).program with
  | none => []
  | some p =>
    if (s.ctx c).state ≠ .running && (s.ctx c).state ≠ .holding then [] else
    p.actBlocks.zipIdx.filterMap fun x =>
      if s.statArray c x.2 = a && !s.statRunning c x.1.1 x.1.2.2.1 x.1.2.2.2 then
        (s.statReady c p x.1.1 x.1.2.2.1 x.1.2.2.2 x.1.2.1).map fun ng => .stat c x.1.2.1 x.1.1 x.1.2.2.1 x.1.2.2.2 ng.1 ng.2
      else none

/-- Array work that the updates of a context have posted on the arrays of the array's die (R17, R207; log entry 111). -/
def State.preCandidates (s : State) (a c : Nat) : List Candidate :=
  match s.plan c with
  | none => []
  | some q =>
    if (s.ctx c).state ≠ .running && (s.ctx c).state ≠ .holding then [] else
    (s.ctx c).shards.zipIdx.flatMap fun (t : Shard × Nat) =>
      match q.layer? t.1.layer t.1.expert with
      | none => []
      | some u => if q.dieOf u = a / 24 then (t.1.blocks.filter fun b => decide (0 < b.2.posted)).map fun b => .pre c t.2 b.1 else []

/-- How the next runs of a context's tasks stand on an array, in issue order. -/
def State.taskRuns (s : State) (a c : Nat) : List ((GridRun × Nat × Rec) × RunState) :=
  (s.mxaTasks c).filterMap fun x => (s.runState a c x.1 x.2.1 x.2.2).map fun y => (x, y)

/-- Ready runs of a context's tasks on an array, in issue order. -/
def State.taskCandidates (s : State) (a c : Nat) : List Candidate :=
  (s.taskRuns a c).filterMap fun x => match x.2 with | .ready b n i => some (Candidate.task c x.1.1 x.1.2.1 x.1.2.2 b n i) | _ => none

/-- A tapping pass of the context waits for its staging half (R134). -/
def State.staging (s : State) (a c : Nat) : Bool := (s.taskRuns a c).any fun x => match x.2 with | .staging => true | _ => false

/-- The pass that a context offers: its first ready task in issue order, unless the DMA engines' reads wait for tokens (R297); then the work
of its updates; statistics passes come last, but first while a tapping pass waits for its staging half (R17, R74, R134, R136). -/
def State.offer (s : State) (a c : Nat) : Option Candidate :=
  let tasks := (if s.paid c then s.taskCandidates a c else []) ++ s.preCandidates a c
  let stats := s.statCandidates a c
  if s.staging a c then (stats ++ tasks).head? else (tasks ++ stats).head?

/-- Round-robin place of a context after the one served last (R335). -/
def rrPlace (last c : Nat) : Nat := (c + 63 - last) % 64

/-- Of several contexts with something ready: the highest priority, then round robin (R72, R335). -/
def State.choose {α : Type} (s : State) (last : Nat) (xs : List (Nat × α)) : Option (Nat × α) :=
  xs.foldl (fun best x =>
    match best with
    | none => some x
    | some y =>
      if (s.ctx y.1).priority < (s.ctx x.1).priority ||
          ((s.ctx y.1).priority = (s.ctx x.1).priority && decide (rrPlace last x.1 < rrPlace last y.1)) then some x else some y) none

/-- The pass that the scheduler takes. -/
def State.pickPass (s : State) (a : Nat) : Option Candidate :=
  (s.choose (s.array a).lastCtx (s.ctxs.filterMap fun e => (s.offer a e.1).map fun x => (e.1, x))).map (·.2)

/-! ### Starting a pass -/

/-- Reads of a DMA engine (`dma`) or a VXU port: tokens of the context's partition and the counters of R318. -/
def State.engineReads (s : State) (c : Nat) (dma : Bool) (rs : List (Nat × Nat)) : State := (s.takeTokens c dma rs).noteReads rs

/-- Operations delayed by an alias on this array are counted once each (R81). -/
def State.countDelays (s : State) (a : Nat) : State :=
  s.ctxs.foldl (fun s e => (s.mxaTasks e.1).foldl (fun s x =>
    match s.runState a e.1 x.1 x.2.1 x.2.2 with
    | some .aliased =>
      if (x.1.task x.2.1).delayed then s
      else (s.countCtx e.1 cAccAlias 1).onTask e.1 x.1.slot x.2.1 fun t => { t with delayed := true }
    | _ => s) s) s

/-- Accept a pass on an array. -/
def State.acceptPass (s : State) (a c : Nat) (p : Pass) : State :=
  s.onArray a fun x => { x with passes := x.passes ++ [p], fedBy := x.fedBy ||| BitVec.ofNat 64 (2 ^ c), lastCtx := c }

/-- Start a task's run: the DMA engines build its operands (R314); an operation's first run on a tile opens its record of flags
and makes its zero-fill (R75, R79). -/
def State.startRun (s : State) (a c : Nat) (g : GridRun) (t : Nat) (r : Rec) (b n i : Nat) : State :=
  let rs := s.mem.passRanges g.desc r b n
  s.guarded c ⟨2, a / 24⟩ (s.checkReads c rs) fun s =>
    let p := { s.mem.buildPass g.desc r b n with kind := .task g.slot t, ctx := c, tile := i }
    let k := taskCtl r
    let s := s.engineReads c true rs
    let s := s.onTile a i fun x =>
      let x := if n = 0 then x.startOp else x
      { (if n = 0 && k.zfill then x.zeroUnfed (p.rows.map (·.1)) k.cols else x) with st := .inPass }
    (s.onTask c g.slot t fun x => { x with started := Tab.modify 0 x.started b (· + 1) }).acceptPass a c p

/-- Start a statistics pass. Its reads are no task's (R297). -/
def State.startStat (s : State) (a c : Nat) (d : Rec) (l side b n g : Nat) : State :=
  let len := sGroupRows d * sDim d side
  let at' := stageAddr d side (g % 2) 0 0
  s.guarded c ⟨2, a / 24⟩ (s.checkReads c [(at', len), (sumAddr d side b, 4 * sBlock d side * sBlock d side)]) fun s =>
    (s.noteReads [(at', len)]).acceptPass a c (s.buildStat c d l side b n g)

/-- Start a pass of an update block's array work (R17, R207). -/
def State.startPre (s : State) (a c i b : Nat) : State :=
  (s.onBlock c i b fun x => { x with posted := x.posted - 1, feeding := x.feeding + 1 }).acceptPass a c { kind := .pre i b, ctx := c }

/-- PASS_START (R72): at a pass boundary the scheduler accepts the next ready pass. -/
def execPassStart (array : Fin 192) (s : State) : Host.Outcome State Fault Refusal :=
  .next (onlyIf (s.arrayFeeds array) (fun s =>
    let s := s.countDelays array
    whenReady (s.pickPass array) (fun x =>
      match x with
      | .task c g t r b n i => s.startRun array c g t r b n i
      | .stat c d l side b n g => s.startStat array c d l side b n g
      | .pre c i b => s.startPre array c i b) s) s)

/-! ### The end of a pass (R70, R79, R84, R96) -/

/-- A run failed parity (R84): PARITY_EVENTS sticks (R88, R421). -/
def State.countParityEvent (s : State) (a : Nat) : State :=
  let old := (s.array a).parEvents
  (s.onArray a fun x => { x with parEvents := stick old, parStuck := x.parStuck || decide (stick old = 0xFFFF) }).stuck old (arrayRegs a + 0x0C) 16

/-- Each run of a pass that fails parity counts (R84, R88). -/
def State.countParityEvents (s : State) (a n : Nat) : State := (List.range n).foldl (fun s _ => s.countParityEvent a) s

/-- Withdraw passes of an array: their runs are fed again later, in K order, and the work of updates is posted again (R84, R92, R209). -/
def State.withdraw (s : State) (a : Nat) (which : Pass → Bool) : State :=
  let gone := (s.array a).passes.filter which
  let s := s.onArray a fun x => { x with passes := x.passes.filter fun p => !which p }
  gone.foldl (fun s p =>
    match p.kind with
    | .task slot t => s.onTask p.ctx slot t fun x => { x with started := Tab.modify 0 x.started p.pos (· - 1) }
    | .stat _ _ _ _ => s
    | .pre i b => s.onBlock p.ctx i b fun x => { x with posted := x.posted + 1, feeding := x.feeding - 1 }) s

/-- Flags of a finished tile offered to the capture arbiter, the array's before the DMA engines' (R56, R79, R314). The answer's
number is CAPTURED or 0. -/
def State.offerTile (s : State) (a c slot t : Nat) (tile : Tile) (r : Rec) (pos : Nat) : State × Nat :=
  let row := (taskStream r + 128 * pos) / 128
  let col := taskStat r / 256
  let x : FlagSite := { unitKind := 0, unitIndex := a, grid := slot, task := t, row := row, col := col, colFirst := tile.colLo
                        colLast := tile.colHi, firstRun := tile.firstRun.getD 0 }
  let y : FlagSite := { unitKind := 2, unitIndex := a / 24, grid := slot, task := t, row := row, col := col, colFirst := tile.dmaLo
                        colLast := tile.dmaHi }
  let hit := s.wouldCapture c tile.flags || s.wouldCapture c tile.dmaFlags
  ((s.captureFlags c tile.flags x).captureFlags c tile.dmaFlags y, if hit then fCaptured else 0)

/-- BANK_UE (R96): the tile is poisoned and the owning context purged. -/
def State.bankUe (s : State) (a c i : Nat) : State :=
  let h := (Tab.get {} (s.array a).tiles i).handle
  let s := s.onTile a i fun x => { x with poisoned := true }
  (s.raise 0x04 (some c) ⟨0, a⟩ (BitVec.ofNat 64 h) 0).purge c s.faults.nextSeq

/-- The last write of a task's run: promotion, the Rill's tap, and with FIN the hand-over register. -/
def State.finishRun (s : State) (a slot t : Nat) (p : Pass) : State :=
  match (s.ctx p.ctx).grid? slot with
  | none => s.onTile a p.tile fun x => (x.promotePass p)
  | some g =>
    let r := s.mem.task g.desc t
    let tile := (Tab.get {} (s.array a).tiles p.tile).promotePass p
    let tap := s.rill p.ctx g t r tile p
    let tile := { tile with tapFlags := tile.tapFlags ||| tap.2 }
    let last := decide (p.run + 1 = (taskCtl r).runs)
    let s := tap.1.onTask p.ctx slot t fun x => { x with ended := Tab.modify 0 x.ended p.pos (· + 1) }
    let s := if last then s.tapEvent p.ctx a slot t tile.tapFlags else s
    if p.fin then
      let o := s.offerTile a p.ctx slot t tile r p.pos
      let e : SluiceSlot := { tile := p.tile, status := statusWord (tile.flags ||| tile.dmaFlags ||| o.2), ctx := p.ctx, slot := slot
                              task := t, pos := p.pos, vxu := r.field 6 47 0 }
      (o.1.onTile a p.tile fun _ => { tile with st := .handover }).onArray a fun x => { x with handover := some e }
    else
      let more := (s.array a).passes.any fun q => q.tile = p.tile && (match q.kind with | .task _ _ => true | _ => false)
      s.onTile a p.tile fun _ => { tile with st := if more then .inPass else .leased }

/-- BANK_UE of a pass that writes no lease's tile: the manual gives it no tile handle, so ARG is a free value (R96; log entry 29). -/
def State.bankUeFree (s : State) (a c : Nat) : State :=
  ((s.raise 0x04 (some c) ⟨0, a⟩ (s.freeWord.setWidth 64) 0).purge c s.faults.nextSeq).drawn

/-- The end of a pass whose checks pass, with the errors of the bank's code that its reads met (R96). -/
def State.endPass (s : State) (a : Nat) (p : Pass) (ecc : BankEcc) : State :=
  let s := (s.onArray a fun x => { x with passes := x.passes.drop 1 }).countArray a 2 ecc.corrected
  match p.kind with
  | .task slot t =>
    if ecc.uncorrectable || (Tab.get {} (s.array a).tiles p.tile).poisoned then s.bankUe a p.ctx p.tile else s.finishRun a slot t p
  | .stat l side b g =>
    if ecc.uncorrectable then s.bankUeFree a p.ctx else
    match (s.ctx p.ctx).program with
    | none => s
    | some q =>
      match q.stats[l]? with
      | some d => s.endStat p.ctx a d l side b g p
      | none => s
  | .pre i b => if ecc.uncorrectable then s.bankUeFree a p.ctx else s.onBlock p.ctx i b fun x => { x with feeding := x.feeding - 1 }

/-- PASS_END of the oldest pass under way; `parityErrors` is how many of its runs failed parity. An error replays the pass once; a second one stops the array for its known-answer
test, and the run is fed again (R84). A finished tile waits while the hand-over register is occupied (R99). -/
def execPassEnd (array : Fin 192) (parityErrors : Nat) (ecc : BankEcc) (s : State) : Host.Outcome State Fault Refusal :=
  .next (onlyIf (s.arrayOn array) (fun s =>
    match (s.array array).passes with
    | [] => s
    | p :: rest =>
      if 0 < parityErrors then
        let s := s.countParityEvents array (min p.cols parityErrors)
        if p.replayed then
          (s.withdraw array fun q => q = p || (q.kind = p.kind && q.ctx = p.ctx)).onArray array fun x => { x with katRun := true }
        else s.onArray array fun x => { x with passes := { p with replayed := true } :: rest }
      else if p.fin && (s.array array).handover.isSome then s
      else s.endPass array p ecc) s)

/-! ### The Sluice (R97, R98, R99, R102) -/

/-- A slot entry enters the Sluice: its tile is HELD. -/
def State.enterSluice (s : State) (a : Nat) (e : SluiceSlot) : State :=
  (s.onTile a e.tile fun x => { x with st := .held }).onArray a fun x => { x with slots := x.slots ++ [e] }

/-- Fill a free slot: the transfer queue first, then the hand-over register. -/
def State.fillSluice (s : State) (a : Nat) : State :=
  let x := s.array a
  if 8 ≤ x.slots.length then s else
  match x.transfer, x.handover with
  | e :: rest, _ => (s.onArray a fun x => { x with transfer := rest }).enterSluice a e
  | [], some e => (s.onArray a fun x => { x with handover := none }).enterSluice a e
  | [], none => s

/-- SLUICE_HANDOVER (R99). -/
def execSluiceHandover (array : Fin 192) (s : State) : Host.Outcome State Fault Refusal :=
  .next (onlyIf (s.arrayOn array) (fun s => s.fillSluice array) s)

/-- ZREL_CLEAR_DONE: the clear port has zeroed a released tile (R98). -/
def execZrelClearDone (array : Fin 192) (tile : Fin 16) (s : State) : Host.Outcome State Fault Refusal :=
  .next (onlyIf (Tab.get {} (s.array array).tiles tile).clearing
    (fun s => s.onTile array tile fun x => { x with clearing := false, elems := [], seen := [] }) s)

/-! ### Known-answer tests and repair (R85 to R91) -/

/-- KAT_DUE: the scheduler starts no further pass until the test has run (R85). -/
def execKatDue (array : Fin 192) (s : State) : Host.Outcome State Fault Refusal :=
  .next (onlyIf (s.arrayOn array && !(s.array array).halted) (fun s => s.onArray array fun x => { x with katRun := true }) s)

/-- KAT_END of a drained array (R85). After a pass result the array feeds again, unless it is halted for a repair. -/
def execKatEnd (array : Fin 192) (result : KatResult) (s : State) : Host.Outcome State Fault Refusal :=
  .next (onlyIf (s.cdRuns (array / 24) && !(s.array array).retired && (s.array array).katRun && (s.array array).passes.isEmpty) (fun s =>
    match result with
    | .pass => s.onArray array fun x => { x with katRun := false, katPassed := true, fedBy := 0, katNs := s.upNs }
    | .row _ | .spare _ | .column => s.katFailed array) s)

/-- Firmware writes a repair register of a drained array; a mismatch keeps it halted (R89, R91). -/
def State.writeRepair (s : State) (a : Fin 192) (f : ArrayUnit → ArrayUnit) : State :=
  onlyIf (s.firmware && !(s.array a).retired && (s.array a).passes.isEmpty) (fun s => s.onArray a fun x =>
    let y := f x
    { y with halted := y.halted || trimMismatch y.spareCtl y.skewTrim, katPassed := false }) s

/-- SPARE_CTL (R88): reserved bits are written as 0 (R11). -/
def execSpareCtl (array : Fin 192) (value : W32) (s : State) : Host.Outcome State Fault Refusal :=
  .next (s.writeRepair array fun x => { x with spareCtl := value &&& 0xDFDFDFDF })

/-- SKEW_TRIM (R87, R88). -/
def execSkewTrim (array : Fin 192) (value : W32) (s : State) : Host.Outcome State Fault Refusal :=
  .next (s.writeRepair array fun x => { x with skewTrim := value &&& 0x9F9F9F9F })

/-- RUN_KAT on a drained array (R88). -/
def execRunKat (array : Fin 192) (s : State) : Host.Outcome State Fault Refusal :=
  .next (onlyIf (s.firmware && s.cdRuns (array / 24) && !(s.array array).retired && (s.array array).passes.isEmpty)
    (fun s => s.onArray array fun x => { x with katRun := true }) s)

/-- Enter an array's spare map and retirement in the repair log (R90). -/
def Boot.logArray (b : Boot) (a : Nat) (ctl : W32) (ret : Bool) : Boot :=
  { b with repairArr := b.repairArr.filter (fun r => r.1 ≠ a) ++ [(a, ctl, ret)] }

/-- The spare map that the repair log holds. -/
def Boot.loggedCtl (b : Boot) (a : Nat) : W32 := match b.repairArr.find? fun r => r.1 = a with | some r => r.2.1 | none => 0

/-- RESUME: HALTED clears if TRIM_MISMATCH is 0. Firmware writes it only after a confirming test has ended with Pass (R91): not after
a failing test, nor after a repair register was written with no test since. A new spare map is then recorded and reported (R88, R90). -/
def execResume (array : Fin 192) (s : State) : Host.Outcome State Fault Refusal :=
  let x := s.array array
  .next (onlyIf (s.firmware && !x.retired && x.halted && !x.katRun && x.katPassed && !trimMismatch x.spareCtl x.skewTrim) (fun s =>
    let s := s.onArray array fun x => { x with halted := false }
    if s.boot.loggedCtl array = x.spareCtl then s else
    ({ s with boot := s.boot.logArray array x.spareCtl false }).raise 0x02 none ⟨0, array⟩ (x.spareCtl.setWidth 64) 0) s)

/-! ### Retirement (R92, R102) -/

/-- A lease group's tiles in a bank: context and tile indices, by the lease requests of the context's program. -/
def State.bankGroups (s : State) (a : Nat) : List (Nat × List Nat) :=
  s.ctxs.flatMap fun e =>
    match e.2.program with
    | none => []
    | some p => p.leases.filterMap fun w =>
      let l := leaseOf w
      let ts := ((s.array a).tiles.filter fun t => t.2.st ≠ .free && t.2.ctx = e.1 && l.1 ≤ t.2.handle && t.2.handle < l.1 + l.2.1).map (·.1)
      if ts.isEmpty then none else some (e.1, ts)

/-- Free tiles of the banks in service but one, in ascending order: which banks receive a retired array's groups the manual leaves open; the
model takes those of any die, the lowest index first (DESIGN CHOICE, log entry 30). -/
def State.freeTiles (s : State) (a : Nat) (used : List (Nat × Nat)) : List (Nat × List Nat) :=
  ((List.range 192).filter fun n => n ≠ a && !(s.array n).retired).map fun n =>
    (n, (List.range 16).filter fun t => (Tab.get {} (s.array n).tiles t).st = .free && !used.contains (n, t))

/-- Places for a group of `k` tiles: one bank where room exists, else spread over the lowest-numbered banks. -/
def placeGroup (free : List (Nat × List Nat)) (k : Nat) : Option (List (Nat × Nat)) :=
  match free.find? fun f => decide (k ≤ f.2.length) with
  | some f => some ((f.2.take k).map fun t => (f.1, t))
  | none =>
    let all := free.flatMap fun f => f.2.map fun t => (f.1, t)
    if k ≤ all.length then some (all.take k) else none

/-- Places for every group: (old tile, new bank, new tile), or none when some group finds no room. -/
def State.placeGroups (s : State) (a : Nat) (gs : List (Nat × List Nat)) : Option (List (Nat × Nat × Nat)) :=
  gs.foldl (fun r g =>
    match r with
    | none => none
    | some ms => (placeGroup (s.freeTiles a (ms.map fun m => m.2)) g.2.length).map fun ps => ms ++ (g.2.zip ps).map fun x => (x.1, x.2.1, x.2.2))
    (some [])

/-- Contexts whose groups are not moved: the highest context number first, until the rest fit. -/
def State.retireDrops (fuel : Nat) (s : State) (a : Nat) (gs : List (Nat × List Nat)) (drops : List Nat) : List Nat :=
  match fuel with
  | 0 => drops
  | k + 1 =>
    let rest := gs.filter fun g => !drops.contains g.1
    match s.placeGroups a rest with
    | some _ => drops
    | none => State.retireDrops k s a gs (drops ++ [(rest.map (·.1)).foldl max 0])

/-- Move a tile with its contents. -/
def State.moveTile (s : State) (a : Nat) (m : Nat × Nat × Nat) : State :=
  let t := Tab.get {} (s.array a).tiles m.1
  (s.onTile m.2.1 m.2.2 fun _ => t).onArray a fun x => { x with tiles := Tab.drop x.tiles m.1 }

/-- A Sluice entry follows its tile: into a free slot, else into the transfer queue (R102). -/
def State.moveSlot (s : State) (ms : List (Nat × Nat × Nat)) (e : SluiceSlot) : State :=
  match ms.find? fun m => m.1 = e.tile with
  | none => s
  | some m =>
    let e := { e with tile := m.2.2 }
    let x := s.array m.2.1
    if x.slots.length < 8 && x.transfer.isEmpty then s.enterSluice m.2.1 e
    else s.onArray m.2.1 fun x => { x with transfer := x.transfer ++ [e] }

/-- Take an array out of service: lease groups move with their contents, waiting passes and Sluice slots follow, chains in
progress restart; what finds no room is purged (R92, R102). -/
def State.retireArray (s : State) (a : Nat) : State :=
  let s := s.withdraw a fun _ => true
  let gs := s.bankGroups a
  let drops := s.retireDrops 64 a gs []
  let ms := (s.placeGroups a (gs.filter fun g => !drops.contains g.1)).getD []
  let old := s.array a
  let s := s.onArray a fun x => { x with retired := true, halted := true, katRun := false, slots := [], handover := none, transfer := []
                                         runs := [], spareCtl := x.spareCtl }
  -- the array's statistics passes go to other arrays; the others keep theirs (R136)
  let s := { s with ctxs := Tab.mapAll s.ctxs fun _ x => { x with stats := { x.stats with
    arrays := x.stats.arrays.zipIdx.map fun (e : Nat × Nat) => if e.1 = a then s.assignStat e.2 else e.1 } } }
  let s := ms.foldl (fun s m => s.moveTile a m) s
  let s := (old.slots ++ old.transfer ++ old.handover.toList).foldl (fun s e => s.moveSlot ms e) s
  let s := { s with boot := s.boot.logArray a old.spareCtl true }
  let s := s.raise 0x03 none ⟨0, a⟩ (BitVec.ofNat 64 s.arraysInService) 0
  drops.foldl (fun s c => s.purge c (s.faults.nextSeq - 1)) s

/-- RETIRE (R92). -/
def execRetire (array : Fin 192) (s : State) : Host.Outcome State Fault Refusal :=
  .next (onlyIf (s.firmware && !(s.array array).retired) (fun s => s.retireArray array) s)

end Sys2Proof.Machine
end

