-- ==== Sys2Proof/Machine/Factor.lean ====
section
/-!
DEFINITION. KQ32 matrix products (R158 to R161), and what the Root Engines do with 256 × 256 blocks: renormalising stores (R162), the
Cholesky factorisation with the pivot rule (R170, R171, R186), triangular solves and refinement (R170, R186, R189). Work on a block inside
its diagonal and the widths of intermediate words that no rule states are the model's: log entry 11.
-/
namespace Sys2Proof.Machine

open Sys2Proof

/-! ### Products (R158, R159, R161) -/

/-- The low piece of a KQ32 word (R39). -/
def kqLow (a : Int) : Int := a % 65536

/-- Product of two words: trim mode leaves out the low by low pass (R158). -/
def kqProduct (trim : Bool) (a b : Int) : Int := a * b - (if trim then kqLow a * kqLow b else 0)

def columns (b : Nat) (m : List (List Int)) : List (List Int) := (List.range b).map fun j => m.map fun r => r.getD j 0

/-- Accumulators of a product with `w` columns, which saturate at ±(2^71 − 1), and whether one did (R159). -/
def blkSums (trim : Bool) (w : Nat) (x y : List (List Int)) : List (List Int) × Bool :=
  let cs := columns w y
  let es := x.map fun r => cs.map fun c => (r.zip c).foldl (fun t e => t + kqProduct trim e.1 e.2) (0 : Int)
  let lim : Int := 2 ^ 71 - 1
  (es.map fun r => r.map fun v => max (-lim) (min lim v), es.any fun r => r.any fun v => decide (lim < v) || decide (v < -lim))

/-- Accumulators of a product of square matrices. -/
def kqSums (trim : Bool) (x y : Mat) : List (List Int) × Bool := blkSums trim x.rows.length x.rows y.rows

/-- i × 2^k rounded to the nearest integer, ties to even. -/
def rneInt (i k : Int) : Int := signed (decide (i < 0)) (rneAt i.natAbs k 0).1

/-- A word held to the KQ32 range, with whether it saturated. -/
def kqClamp (i : Int) : Int × Bool := (max (-(2 ^ 31)) (min (2 ^ 31 - 1) i), decide (i < -(2 ^ 31)) || decide (2 ^ 31 - 1 < i))

/-- A matrix of words from a function of each entry's row, column and value. -/
def mapWords (m : List (List Int)) (f : Nat → Nat → Int → Int) : List (List Int) × Bool :=
  let es := m.zipIdx.map fun r => r.1.zipIdx.map fun e => kqClamp (f r.2 e.2 e.1)
  (es.map fun r => r.map (·.1), es.any fun r => r.any (·.2))

/-- The product of two matrices, drained at exponent `eOut` (R159). -/
def kqMatMul (trim : Bool) (x y : Mat) (eOut : Int) : Mat × Bool :=
  let s := kqSums trim x y
  let w := mapWords s.1 fun _ _ v => rneInt v (-(30 + (eOut - x.exp - y.exp)))
  ({ rows := w.1, exp := eOut }, s.2 || w.2)

/-- Largest row sum of absolute values, in words. -/
def rowSum (m : List (List Int)) : Nat := m.foldl (fun t r => max t (r.foldl (fun n w => n + w.natAbs) 0)) 0

/-- ⌈log2(m × 2^e)⌉ for m above 0. -/
def ceilLog2 (m : Nat) (e : Int) : Int := topExp m e + (if m = 2 ^ Nat.log2 m then 0 else 1)

/-! ### Blocks and their stores (R162, R163, R186) -/

/-- A block by rows. -/
abbrev Blk := List (List Int)
/-- Blocks by (block row, block column). -/
abbrev Blocks := List ((Nat × Nat) × Blk)

def Blk.at (m : Blk) (i j : Nat) : Int := (m.getD i []).getD j 0
def Blocks.get (bs : Blocks) (i j : Nat) : Blk := (bs.lookup (i, j)).getD []
def Blocks.put (bs : Blocks) (i j : Nat) (m : Blk) : Blocks := ((i, j), m) :: bs.filter fun e => e.1 ≠ (i, j)
/-- Width of a block. -/
def Blk.width (m : Blk) : Nat := (m.headD []).length

/-- Rows of a matrix in panels of 256, with the matrix's exponent. -/
def panelRows (m : Mat) : List Mat := (List.range ((m.rows.length + 255) / 256)).map fun i => { rows := (m.rows.drop (256 * i)).take 256, exp := m.exp }

/-- The upper blocks of a square matrix of words. -/
def upperBlocks (rows : List (List Int)) : Blocks :=
  let nb := (rows.length + 255) / 256
  (List.range nb).flatMap fun i => ((List.range nb).filter fun j => decide (i ≤ j)).map fun j =>
    ((i, j), ((rows.drop (256 * i)).take 256).map fun r => (r.drop (256 * j)).take 256)

/-- Every block of the upper triangle. -/
def fullPattern (nb : Nat) : List (Nat × Nat) :=
  (List.range nb).flatMap fun i => ((List.range nb).filter fun j => decide (i ≤ j)).map fun j => (i, j)

/-- FP32 words of integers × 2^g. -/
def fpWords (g : Int) (s : Blk) : List (List W32) := s.map fun r => r.map fun v => (toF32 (.fin (decide (v < 0)) v.natAbs g)).1

/-- Largest magnitude of FP32 words. -/
def fpTop (fs : List (List W32)) : W32 := fs.foldl (fun t r => r.foldl (fun t w => if f32lt t (f32abs w) then f32abs w else t) t) 0

/-- Exponent of a renormalising store for a largest magnitude: one above it (R162). Words that are all 0 are 0 at any exponent. -/
def renormExp (top : W32) : Int :=
  match val top with
  | .fin _ m g => if m = 0 then 0 else topExp m g + 1
  | _ => 128

/-- FP32 words as KQ32 words at the exponent of their largest magnitude. -/
def renormWords (fs : List (List W32)) : Mat × Bool :=
  let e := renormExp (fpTop fs)
  let ks := fs.map fun r => r.map fun w => toKq e w
  ({ rows := ks.map fun r => r.map (·.1), exp := e }, ks.any fun r => r.any fun k => decide (k.2 ≠ 0 && k.2 ≠ fUnf))

/-- The renormalising store of integers × 2^g (R162). -/
def renorm (g : Int) (s : Blk) : Mat × Bool := renormWords (fpWords g s)

/-- A sum of terms, each with the exponent of its words: `fixed` names the exponent written (R163), and without it each term is shifted
right to the largest exponent and the sum stored with renormalisation (R186). Terms are accumulator sums, at 2^(exponent − 60). -/
def storeTerms (fixed : Option Int) (ts : List (Int × Blk)) : Mat × Bool :=
  match ts with
  | [] => ({}, false)
  | t :: r =>
    let addAt := fun (e : Int) (shift : Int → Int → Int) =>
      r.foldl (fun (m : Blk) x => (m.zip x.2).map fun p => (p.1.zip p.2).map fun q => q.1 + shift q.2 (x.1 - e))
        (t.2.map fun p => p.map fun v => shift v (t.1 - e))
    match fixed with
    | some e =>
      let lo := r.foldl (fun m x => min m x.1) t.1
      let w := mapWords (addAt lo fun v k => v * 2 ^ k.toNat) fun _ _ v => rneInt v (lo - 30 - e)
      ({ rows := w.1, exp := e }, w.2)
    | none =>
      let hi := r.foldl (fun m x => max m x.1) t.1
      renorm (hi - 60) (addAt hi fun v k => v >>> (-k).toNat)

/-- Words as a term of a sum. -/
def Mat.term (m : Mat) : Int × Blk := (m.exp, m.rows.map fun r => r.map fun v => v * 2 ^ 30)

/-- A product as a negative term of a sum, with whether an accumulator saturated. -/
def productTerm (trim : Bool) (x : Blk) (y : Mat) : (Int × Blk) × Bool :=
  let s := blkSums trim (Blk.width y.rows) x y.rows
  ((y.exp, s.1.map fun r => r.map fun v => -v), s.2)

/-! ### Inside a diagonal block (R170, R171) -/

/-- A word whose rounding no rule states: free within one unit of the nearest word, and free where there is none (log entry 11). -/
def openWord (tag : Nat) (near : Option Int) (ops : List Int) : Int :=
  match near with
  | some v => v + max (-1) (min 1 (Config.unitStep tag ops))
  | none => Config.unitStep tag ops

/-- The integer nearest to n ÷ d. -/
def nearDiv (n d : Int) : Option Int :=
  if d = 0 then none else some (signed (decide ((n < 0) ≠ (d < 0))) ((2 * n.natAbs + d.natAbs) / (2 * d.natAbs)))

/-- The integer nearest to √n. -/
def nearSqrt (n : Nat) : Nat := (isqrt (Nat.log2 (4 * n) / 2 + 1) (4 * n) + 1) / 2

/-- The word of √d for a pivot word d, through the column's reciprocal square root. -/
def pivotRoot (d : Int) : Int := openWord 0 (if d < 0 then none else some (nearSqrt (d.toNat * 2 ^ 30))) [d]
/-- The word of v ÷ √d. -/
def columnWord (v d : Int) : Int :=
  openWord 1 (if d ≤ 0 then none else some (signed (decide (v < 0)) (nearSqrt (v.natAbs * v.natAbs * 2 ^ 30 / d.toNat)))) [v, d]

/-- The pivot rule of R171: τ × dmax and what a lower pivot becomes. -/
structure PivotRule where
  least   : Int
  replace : Int

/-- The rule for a matrix's diagonal words: τ and δ as KQ32 words, the product by the scalar unit with one RNE. -/
def pivotRule (tau delta : W32) (diag : List Int) : PivotRule :=
  let dmax := diag.foldl max (diag.headD 0)
  let p := rneInt ((toKq 0 tau).1 * dmax) (-30)
  { least := p, replace := p + (toKq 0 delta).1 }

/-- Record a replaced pivot: its count, the first index, and whether one was zero or negative. -/
def Pivots.note (p : Pivots) (j : Nat) (d : Int) : Pivots :=
  { count := p.count + 1, first := if p.count = 0 then j else p.first, zero := p.zero || decide (d ≤ 0) }

/-- A diagonal block in the course of its factorisation: the Schur complement, the rows of the factor done, the report, saturation. -/
structure DiagState where
  s   : Blk
  u   : Blk := []
  piv : Pivots := {}
  sat : Bool := false

/-- One column: its pivot, its reciprocal square root, and the rank-1 update of what remains (R170). -/
def DiagState.column (rule : PivotRule) (base : Nat) (x : DiagState) (j : Nat) : DiagState :=
  let d := Blk.at x.s j j
  let low := decide (d < rule.least)
  let d' := if low then rule.replace else d
  let row := (List.range x.s.length).map fun k =>
    kqClamp (if k < j then 0 else if k = j then pivotRoot d' else columnWord (Blk.at x.s j k) d')
  let u := row.map (·.1)
  let w := mapWords x.s fun i k v => if j < i && j < k then v - rneInt (u.getD i 0 * u.getD k 0) (-30) else v
  { s := w.1, u := x.u ++ [u], piv := if low then x.piv.note (base + j) d else x.piv, sat := x.sat || w.2 || row.any (·.2) }

/-- Factor a diagonal block: N = Uᵀ U. -/
def factorDiag (rule : PivotRule) (base : Nat) (s : Blk) (piv : Pivots) : DiagState :=
  (List.range s.length).foldl (DiagState.column rule base) { s := s, piv := piv }

/-- Solve L y = t for one column, where L is the lower triangle whose entry (i, k) is `l i k`: substitution from the first row on. -/
def substitute (l : Nat → Nat → Int) (t : List Int) : List Int :=
  t.zipIdx.foldl (fun y x =>
    let n := x.1 * 2 ^ 30 - (y.zipIdx.foldl (fun (v : Int) e => v + l x.2 e.2 * e.1) 0)
    y ++ [openWord 2 (nearDiv n (l x.2 x.2)) [n, l x.2 x.2]]) []

/-- Apply a solve to every column of a block. -/
def onColumns (f : List Int → List Int) (t : Blk) : Blk :=
  let cs := (columns (Blk.width t) t).map f
  (List.range t.length).map fun i => cs.map fun c => c.getD i 0

/-- Uᵀ y = t. -/
def diagForward (u : Blk) (t : Blk) : Blk := onColumns (substitute fun i k => Blk.at u k i) t
/-- U x = y. -/
def diagBack (u : Blk) (t : Blk) : Blk :=
  let n := t.length
  onColumns (fun c => (substitute (fun i k => Blk.at u (n - 1 - i) (n - 1 - k)) c.reverse).reverse) t

/-- Hold a block's words to the range, at their exponent. -/
def clampBlk (m : Blk) (e : Int) : Mat × Bool := let w := mapWords m fun _ _ v => v; ({ rows := w.1, exp := e }, w.2)

/-! ### Factorisation and solves over blocks (R170, R186) -/

/-- A factorisation in progress: the Schur complement's blocks, the factor's blocks, the report, saturation. -/
structure FactorState where
  s   : Blocks
  u   : Blocks := []
  piv : Pivots := {}
  sat : Bool := false

/-- One block column: its diagonal block, the blocks beside it, and the update of the blocks below by block products. -/
def FactorState.blockColumn (trim : Bool) (pat : List (Nat × Nat)) (rule : PivotRule) (x : FactorState) (j : Nat) : FactorState :=
  let d := factorDiag rule (256 * j) (x.s.get j j) x.piv
  let row := (pat.filter fun e => e.1 = j && j < e.2).map fun e => (e.2, clampBlk (diagForward d.u (x.s.get j e.2)) 0)
  let u := row.foldl (fun u r => Blocks.put u j r.1 r.2.1.rows) (x.u.put j j d.u)
  let ups := (pat.filter fun e => j < e.1 && (u.lookup (j, e.1)).isSome && (u.lookup (j, e.2)).isSome).map fun e =>
    let a := u.get j e.1
    let p := blkSums trim (Blk.width (u.get j e.2)) (columns (Blk.width a) a) (u.get j e.2)
    let old := x.s.get e.1 e.2
    let w := mapWords p.1 fun i k v => Blk.at old i k - rneInt v (-30)
    (e, w.1, p.2 || w.2)
  { s := ups.foldl (fun s y => Blocks.put s y.1.1 y.1.2 y.2.1) x.s, u := u, piv := d.piv
    sat := x.sat || d.sat || (row.any fun r => r.2.2) || ups.any fun y => y.2.2 }

/-- L Lᵀ = N over a factor pattern, right-looking (R170): U = Lᵀ by its upper blocks. -/
def factorBlocks (trim : Bool) (nb : Nat) (pat : List (Nat × Nat)) (n : Blocks) (tau delta : W32) : FactorState :=
  let diag := (List.range nb).flatMap fun i => (n.get i i).zipIdx.map fun r => r.1.getD r.2 0
  (List.range nb).foldl (FactorState.blockColumn trim pat (pivotRule tau delta diag)) { s := n }

/-- The store of a block's solved words: at their fixed exponent, or renormalised (R163, R186). -/
def storeSolved (fixed : Option Int) (m : Blk) (e : Int) : Mat × Bool := if fixed.isSome then clampBlk m e else renorm (e - 30) m

/-- One block row of a solve: the right-hand side less the products with the blocks solved before it, then the diagonal block. -/
def solveRow (trim : Bool) (fixed : Option Int) (b : Mat) (products : List (Blk × Mat)) (diag : Blk → Blk) : Mat × Bool :=
  let ts := products.map fun p => productTerm trim p.1 p.2
  let t := storeTerms fixed (b.term :: ts.map (·.1))
  let y := storeSolved fixed (diag t.1.rows) t.1.exp
  (y.1, t.2 || y.2 || ts.any (·.2))

/-- Uᵀ y = b, block rows from the first. -/
def forwardSolve (trim : Bool) (fixed : Option Int) (pat : List (Nat × Nat)) (u : Blocks) (b : List Mat) : List Mat × Bool :=
  b.zipIdx.foldl (fun (r : List Mat × Bool) x =>
    let ps := (pat.filter fun e => e.2 = x.2 && e.1 < x.2).map fun e =>
      let a := u.get e.1 e.2
      (columns (Blk.width a) a, r.1.getD e.1 {})
    let y := solveRow trim fixed x.1 ps (diagForward (u.get x.2 x.2))
    (r.1 ++ [y.1], r.2 || y.2)) ([], false)

/-- U x = y, block rows from the last. -/
def backSolve (trim : Bool) (fixed : Option Int) (pat : List (Nat × Nat)) (u : Blocks) (y : List Mat) : List Mat × Bool :=
  let n := y.length
  y.zipIdx.reverse.foldl (fun (r : List Mat × Bool) x =>
    let ps := (pat.filter fun e => e.1 = x.2 && x.2 < e.2).map fun e => (u.get e.1 e.2, r.1.getD (e.2 - (n - r.1.length)) {})
    let z := solveRow trim fixed x.1 ps (diagBack (u.get x.2 x.2))
    (z.1 :: r.1, r.2 || z.2)) ([], false)

/-- Both solves, at the exponents of R163 where the caller fixes them: `(forward, back)`. -/
def solvePanel (trim : Bool) (fixed : Option (Int × Int)) (pat : List (Nat × Nat)) (u : Blocks) (b : List Mat) : List Mat × Bool :=
  let y := forwardSolve trim (fixed.map (·.1)) pat u b
  let x := backSolve trim (fixed.map (·.2)) pat u y.1
  (x.1, y.2 || x.2)

/-- x + c by blocks, stored at a fixed exponent or renormalised. -/
def addPanels (fixed : Option Int) (x c : List Mat) : List Mat × Bool :=
  let r := (x.zip c).map fun p => storeTerms fixed [p.1.term, p.2.term]
  (r.map (·.1), r.any (·.2))

/-! ### The DAMPED sequence (R170) -/

/-- N = A + λI: λ as a word, added to the diagonal words. -/
def addDamp (a : Mat) (damp : W32) : Mat × Bool :=
  let q := (toKq 0 damp).1
  let w := mapWords a.rows fun i k v => if i = k then v + q else v
  ({ rows := w.1, exp := a.exp }, w.2)

/-- D = I − N × Z in full mode, through the renormalising store. -/
def dampedResid (n z : Mat) : Mat × Bool :=
  let s := kqSums false n z
  let e : Int := n.exp + z.exp - 60
  let g : Nat := (-e).toNat
  let r := renorm (-g) (s.1.zipIdx.map fun r => r.1.zipIdx.map fun x => (if x.2 = r.2 then ((2 ^ g : Nat) : Int) else 0) - x.1 * 2 ^ (e + g).toNat)
  (r.1, s.2 || r.2)

/-- The largest word of a matrix as FP32 (R176). -/
def topWord (m : Mat) : W32 := (kqToF32 m.exp (m.rows.foldl (fun t r => r.foldl (fun t w => max t (w.natAbs : Int)) t) 0)).1

/-- The identity's words. -/
def identityRows (b : Nat) : List (List Int) := (List.range b).map fun i => (List.range b).map fun j => if i = j then 2 ^ 30 else 0

/-- The upper triangle mirrored. -/
def mirror (m : List (List Int)) : List (List Int) := m.zipIdx.map fun r => r.1.zipIdx.map fun x => Blk.at m (min r.2 x.2) (max r.2 x.2)

/-- Exponents of R163 for the forward solve's intermediates and for Z, by the order and λ. -/
def dampedExps (b : Nat) (damp : W32) : Int × Int :=
  match val damp with
  | .fin _ m g =>
    if m = 0 then (1, 1) else
    let k := -topExp m g
    ((ceilLog2 b 0 + k + 1) / 2 + 1, k + 1)
  | _ => (1, 1)

/-- What a DAMPED refresh computes. -/
structure Damped where
  z     : Mat
  resid : W32
  piv   : Pivots
  sat   : Bool

/-- The sequence of R170 on an assembled block. -/
def dampedRefresh (trim : Bool) (a : Mat) (damp tau delta : W32) : Damped :=
  let b := a.rows.length
  let nb := (b + 255) / 256
  let pat := fullPattern nb
  let n := addDamp a damp
  let f := factorBlocks trim nb pat (upperBlocks n.1.rows) tau delta
  let es := dampedExps b damp
  let solve := fun (rhs : Mat) => solvePanel trim (some (es.1 + rhs.exp, es.2 + rhs.exp)) pat f.u (panelRows rhs)
  let whole := fun (ps : List Mat) => ({ rows := ps.flatMap (·.rows), exp := (ps.headD {}).exp } : Mat)
  let refine := fun (z : Mat) =>
    let d := dampedResid n.1 z
    let c := solve d.1
    let x := addPanels (some es.2) (panelRows z) c.1
    (whole x.1, topWord d.1, d.2 || c.2 || x.2)
  let z0 := solve { rows := identityRows b, exp := 0 }
  let z1 := refine (whole z0.1)
  let z2 := refine z1.1
  { z := { z2.1 with rows := mirror z2.1.rows }, resid := z2.2.1, piv := f.piv, sat := n.2 || f.sat || z0.2 || z1.2.2 || z2.2.2 }

/-- Block products of a DAMPED refresh of `nb` blocks a side, each drained and checked on its own (R164, R179). -/
def dampedProducts (nb : Nat) : Nat :=
  let tri := (nb - 1) * nb * (nb + 1) / 6
  (nb * (nb - 1) / 2 + tri) + (nb * (nb + 1) / 2 + tri + nb * nb + nb * nb * (nb - 1) / 2) + 2 * (nb * nb * nb + nb * nb * (nb + 1))

/-! ### Resident Solve (R186, R189) -/

/-- The structure exponent: one above the largest magnitude of the image. An image without a finite, nonzero largest value has none that
the manual states: `free` stands for it. -/
def structExp (img : List W32) (free : Int) : Int :=
  let top := fpTop [img]
  match val top with
  | .fin _ m _ => if m = 0 || img.any fun w => !f32finite w then free else renormExp top
  | _ => free

/-- The normalised blocks of an image whose 65,536-word blocks follow the pattern's order. -/
def normalBlocks (e : Int) (pat : List (Nat × Nat)) (img : List W32) : Blocks × Bool :=
  let bs := pat.zipIdx.map fun p =>
    let ws := ((img.drop (65536 * p.2)).take 65536).map fun w => toKq e w
    ((p.1, (List.range 256).map fun i => ((ws.drop (256 * i)).take 256).map (·.1)), ws.any fun k => decide (k.2 ≠ 0 && k.2 ≠ fUnf))
  (bs.map (·.1), bs.any (·.2))

/-- The blocks with DAMP on the diagonal words. -/
def dampBlocks (damp : W32) (bs : Blocks) : Blocks × Bool :=
  let r := bs.map fun b => if b.1.1 = b.1.2 then let d := addDamp { rows := b.2 } damp; ((b.1, d.1.rows), d.2) else (b, false)
  (r.map (·.1), r.any (·.2))

/-- Factor a normalised image over the factor pattern: fill blocks start at zero. -/
def factorImage (full : Bool) (nb : Nat) (pat : List (Nat × Nat)) (n : Blocks) (tau delta : W32) : FactorState :=
  let zero : Blk := List.replicate 256 (List.replicate 256 0)
  factorBlocks (!full) nb pat (pat.map fun e => (e, (n.lookup e).getD zero)) tau delta

/-- b − A x by block rows, in full mode, with renormalising stores; A by its upper blocks. -/
def solveResidual (pat : List (Nat × Nat)) (a : Blocks) (b x : List Mat) : List Mat × Bool :=
  let r := b.zipIdx.map fun y =>
    let ps := (pat.filter fun e => e.1 = y.2).map (fun e => productTerm false (a.get e.1 e.2) (x.getD e.2 {})) ++
      (pat.filter fun e => e.2 = y.2 && e.1 ≠ y.2).map fun e =>
        let m := a.get e.1 e.2
        productTerm false (columns (Blk.width m) m) (x.getD e.1 {})
    let t := storeTerms none (y.1.term :: ps.map (·.1))
    (t.1, t.2 || ps.any (·.2))
  (r.map (·.1), r.any (·.2))

/-- What a panel's solve computes: X by blocks, the largest residual words after the first solve and after the second refinement. -/
structure PanelSolve where
  x     : List Mat
  first : W32
  last  : W32
  sat   : Bool

/-- One solve and exactly two refinement steps (R189); the last residual is that of the X that is written (R188). -/
def solveOnePanel (full : Bool) (pat fpat : List (Nat × Nat)) (a u : Blocks) (b : List Mat) : PanelSolve :=
  let solve := solvePanel (!full) none fpat u
  let top := fun (d : List Mat) => d.foldl (fun (t : W32) m => if f32lt t (topWord m) then topWord m else t) 0
  let x0 := solve b
  let d0 := solveResidual pat a b x0.1
  let c0 := solve d0.1
  let x1 := addPanels none x0.1 c0.1
  let d1 := solveResidual pat a b x1.1
  let c1 := solve d1.1
  let x2 := addPanels none x1.1 c1.1
  let d2 := solveResidual pat a b x2.1
  { x := x2.1, first := top d0.1, last := top d2.1, sat := x0.2 || d0.2 || c0.2 || x1.2 || d1.2 || c1.2 || x2.2 }

/-- A panel of right-hand sides, column-major FP32, as block rows with their own exponents. -/
def rhsPanel (order w : Nat) (b : List W32) : List Mat :=
  (List.range (order / 256)).map fun i =>
    (renormWords ((List.range 256).map fun r => (List.range w).map fun k => b.getD (k * order + 256 * i + r) 0)).1

/-- The solution of a panel as FP32, column-major: the structure exponent taken out; with the flags of each conversion (R49). -/
def panelWords (order w : Nat) (eS : Int) (x : List Mat) : List (Flagged W32) :=
  (List.range w).flatMap fun k => (List.range order).map fun r =>
    let m := x.getD (r / 256) {}
    kqToF32 (m.exp - eS) (Blk.at m.rows (r % 256) k)

end Sys2Proof.Machine
end

