-- ==== Sys2Proof/Machine/Stats.lean ====
section
/-!
DEFINITION. Factor storage and its headers (R144), absorption of ACT blocks (R138, R139, R141 to R143), the arrays' products of
FP32 operands (R42 to R48, R62, R71, R140, R203), absorption of GRAD blocks (R140), and STAT_ABSORPTION.
-/
namespace Sys2Proof.Machine

open Sys2Proof

/-! ### Factor headers (R144) -/

/-- Word 2 of a factor header. -/
structure FactorHead where
  absorbed : Nat
  zero     : Bool
  poisoned : Bool
  complete : Bool
  lastE    : Nat
  nLast    : Nat
  step     : Nat

def Mem.factorHead (m : Mem) (a : Nat) : FactorHead :=
  let w := m.word64 (a + 16)
  { absorbed := fieldOf w 63 56, zero := fieldOf w 50 50 = 1, poisoned := fieldOf w 49 49 = 1, complete := fieldOf w 48 48 = 1
    lastE := fieldOf w 47 40, nLast := fieldOf w 31 0, step := (m.word64 (a + 24)).toNat }

def FactorHead.bytes (h : FactorHead) : List Byte :=
  le 8 (h.absorbed % 256 * 2 ^ 56 + bit01 h.zero * 2 ^ 50 + bit01 h.poisoned * 2 ^ 49 + bit01 h.complete * 2 ^ 48 +
    h.lastE % 256 * 2 ^ 40 + h.nLast % 2 ^ 32) ++ le 8 h.step

/-- Write words 2 and 3 of a factor header. -/
def Mem.putHead (m : Mem) (a : Nat) (h : FactorHead) : Mem := m.write (a + 16) h.bytes

/-- The 128-bit TAG of a header. -/
def Mem.tagAt (m : Mem) (a : Nat) : BitVec 128 := BitVec.ofNat 128 (m.readNat a 16)

/-- Matrix entry (i, j) of a factor buffer. -/
def matAddr (a b i j : Nat) : Nat := a + 4096 + 4 * (i * b + j)

/-- The buffer's generation of a step is complete (R142). -/
def Mem.factorDone (m : Mem) (a step : Nat) : Bool := let h := m.factorHead a; h.complete && h.step = step

/-! ### Absorption (R138, R139, R143) -/

/-- An entry of F(n): the product rounded, then one FMA. -/
def absorbEntry (beta prev c total : W32) : Flagged W32 :=
  let p := f32mul c total
  let r := f32fma beta prev p.1
  (r.1, r.2 ||| p.2)

/-- Write F(n) of a block of descriptor `l` from its entries, by a unit of base die `die`. A NaN or infinite entry resets it, and no root of
a refresh up to step `n` is used afterwards (R143). The flags are the absorption's. -/
def State.putFactor (s : State) (c die : Nat) (d : Rec) (l side q n count : Nat) (es : List (List (Flagged W32))) : State :=
  let b := sBlock d side
  let prev := factorAddr d side q ((n + 1) % 2)
  let cur := factorAddr d side q (n % 2)
  let h := s.mem.factorHead prev
  let vals := es.map fun r => r.map (·.1)
  let nan := vals.any fun r => r.any f32isNan
  let bad := vals.any fun r => r.any fun w => !f32finite w
  let f := es.foldl (fun f r => r.foldl (fun f x => f ||| x.2) f) 0
  let f := if bad then f ||| (if nan then fNan else 0) ||| (if vals.any fun r => r.any f32isInf then fInv else 0) else f
  let m := (vals.zipIdx).foldl (fun (m : Mem) r =>
    m.write (matAddr cur b r.2 0) (r.1.flatMap fun w => if bad then le 4 0 else le 4 w.toNat)) s.mem
  let m := (m.write cur (le 16 (m.tagAt prev).toNat)).putHead cur
    { h with absorbed := if bad then 0 else min (h.absorbed + 1) 255, poisoned := bad, complete := true, nLast := count, step := n }
  let s := { s with mem := m }
  let s := if bad then (s.countCtx c cFactorResets 1).onCtx c fun x =>
      { x with stats := { x.stats with resets := Tab.put x.stats.resets (blockKey l side q) n } }
    else s
  s.flagEvent c f { unitKind := 4, unitIndex := die, row := q, col := q }

/-- F(n) as a copy of F(n − 1): the ABSORBED count does not change (R139, R205). -/
def State.copyFactor (s : State) (d : Rec) (side q n count : Nat) : State :=
  let prev := factorAddr d side q ((n + 1) % 2)
  let cur := factorAddr d side q (n % 2)
  let h := s.mem.factorHead prev
  let m := s.mem.write cur (s.mem.read prev (sBuffer d side))
  { s with mem := m.putHead cur { h with complete := true, nLast := count, step := n } }

/-- No refresh that reads F(n − 2) of the block is still to read it (R141): those refreshes have been scheduled, and
each reads it as it starts. -/
def Ctx.mayAbsorb (x : Ctx) (l side q n : Nat) : Bool :=
  decide (n ≤ x.stats.scheduled + 1) && !(x.stats.schedule.any fun r => r.layer = l && r.side = side && r.block = q && decide (r.step + 1 ≤ n))

/-- Step sums and kept rows of the replica group's members for a block, in ascending D coordinate, once all have arrived. The sum of a
member is a function of the entry. -/
def State.memberSums (s : State) (c : Nat) (d : Rec) (l side q n : Nat) : Option (List (Nat × (Nat → Nat → W32))) :=
  let b := sBlock d side
  let me := s.fabric.position.toNat
  let own := (Tab.get 0 (s.ctx c).stats.kept (stepKey n l side 0), fun i j => s.mem.word32 (sumAddr d side q + 4 * (i * b + j)))
  let tag := tagOf s.mem d side q
  let ms := s.replicas c
  (if ms.isEmpty then [me] else ms).foldl (fun r p =>
    match r with
    | none => none
    | some xs =>
      if p = me then some (xs ++ [own]) else
      ((s.ctx c).stats.peers.find? fun y => y.member = p && y.step = n && y.tag = tag).map fun y =>
        xs ++ [(y.rows, fun i j => y.sums.getD (min i j * b - min i j * (min i j + 1) / 2 + max i j) 0)]) (some [])

/-- Absorb step `n` into an ACT block, on the VXU of an array of die `die` (R138, R139). -/
def State.absorb (s : State) (c die : Nat) (d : Rec) (l side q n : Nat) (ms : List (Nat × (Nat → Nat → W32))) : State :=
  let count := ms.foldl (fun k m => k + m.1) 0
  let s := s.onCtx c fun x => { x with stats := { x.stats with
    absorbed := Tab.put x.stats.absorbed (blockKey l side q) n
    peers := x.stats.peers.filter fun y => !(y.step = n && y.tag = tagOf s.mem d side q) } }
  if count = 0 then s.copyFactor d side q n 0 else
  let beta := (d.word 2 >>> 32).setWidth 32
  let w := (f32sub f32one beta).1
  let k := rnd ((val w).div (.ofNat (count % 2 ^ 32)))
  let order := sOrder d side q
  let b := sBlock d side
  let prev := factorAddr d side q ((n + 1) % 2)
  let es := (List.range order).map fun i => (List.range order).map fun j =>
    let t := match ms with
      | [] => (0, 0)
      | m :: r => r.foldl (fun (t : Flagged W32) (y : Nat × (Nat → Nat → W32)) => let z := f32add t.1 (y.2 i j); (z.1, z.2 ||| t.2)) (m.2 i j, 0)
    let e := absorbEntry beta (s.mem.word32 (matAddr prev b i j)) k.1 t.1
    (e.1, e.2 ||| t.2 ||| k.2)
  s.putFactor c die d l side q n count es

/-- STAT_ABSORPTION: after the block's last group, the members' records, and R141. -/
def State.statAbsorption (s : State) (c layer expert side q : Nat) : State :=
  let x := s.ctx c
  match x.program with
  | none => s
  | some p =>
    match p.stats.findIdx? fun d => uLayer d = layer && uExpert d = expert && !sGrad d with
    | none => s
    | some l =>
      match p.stats[l]? with
      | none => s
      | some d =>
        let n := x.absorbedStep l side q + 1
        if (x.state = .running || x.state = .holding) && decide (n ≤ x.started) && decide (side < 2) && decide (q < sFactors d side) &&
            decide (sGroups d ≤ x.groupsAdded n l side q) && x.mayAbsorb l side q n then
          match s.memberSums c d l side q n with
          | none => s
          | some ms =>
            let a := s.statArray c (((p.actBlocks.findIdx? fun y => y.1 = l && y.2.2.1 = side && y.2.2.2 = q)).getD 0)
            let rs := [(sumAddr d side q, 4 * sBlock d side * sBlock d side), (factorAddr d side q ((n + 1) % 2), sBuffer d side)]
            if !s.cdRuns (a / 24) then s else
            s.guarded c ⟨1, a⟩ ((s.checkReads c rs).orElse (s.checkWrite c (factorAddr d side q (n % 2)) (sBuffer d side))) fun s =>
              (s.noteReads rs).absorb c (a / 24) d l side q n ms
        else s

def execStatAbsorption (ctx : Fin 64) (layer expert side block : Nat) (s : State) : Host.Outcome State Fault Refusal :=
  .next (s.statAbsorption ctx layer expert side block)

/-! ### Products on the arrays (R42 to R48, R71, R203) -/

/-- An operand of the preconditioning precision: FP32, or rounded to BF16 (PRE_PREC 0). -/
def preOperand (prec : Nat) (x : Num) : Flagged W32 := if prec = 0 then vxBf16 x else rnd (x, 0)
where
  /-- BF16 by one RNE, held as its FP32 code. -/
  vxBf16 (x : Num) : Flagged W32 :=
    match x with
    | .nan => (f32nan, fNan)
    | y => let r := bf16.encode .toInf y; (BitVec.ofNat 32 (r.1 * 65536), r.2)

/-- One element of a product of FP32 accumulation: K slices of 64, within each the split passes, every run promoted in turn. -/
def arrayDot (prec : Nat) (xs ys : List W32) : W32 × Nat :=
  let z := xs.zip ys
  let passes := if prec = 0 then [0] else if prec = 1 then [1, 2, 3, 4, 5, 6] else [1, 2, 3, 4, 5, 6, 7, 8]
  let runs := (List.range ((z.length + 63) / 64)).flatMap fun k => passes.map fun p => (k, p)
  let r := runs.zipIdx.foldl (fun (r : Promoted) y =>
    let slice : List (W32 × W32) := (z.drop (64 * y.1.1)).take 64
    let terms := slice.filterMap fun (x : W32 × W32) =>
      if y.1.2 = 0 then some (colProduct cs40 (val x.1) (val x.2))
      else (splitProduct y.1.2 x.1 x.2).map fun t => colProduct cs40 t.1 t.2
    let q := (promote cs40 (decide (y.2 = 0)) (decide (y.2 = 0)) r.word r.seen terms).settle
    { q with flags := r.flags ||| q.flags }) { word := 0 }
  (r.word, r.flags)

/-- Columns of a matrix given by rows. -/
def transpose (n : Nat) (m : List (List W32)) : List (List W32) := (List.range n).map fun j => m.map fun r => r.getD j 0

/-- A matrix product: rows of A by columns of B, with the flags of every element. -/
def arrayProduct (prec : Nat) (a bt : List (List W32)) : List (List W32) × Nat :=
  let es := a.map fun r => bt.map fun c => arrayDot prec r c
  (es.map fun r => r.map (·.1), es.foldl (fun f r => r.foldl (fun f x => f ||| x.2) f) 0)

/-- Both sides of a GRAD block absorb G Gᵀ or Gᵀ G in step `n`, with w × C rounded first (R125, R140). `g` is the gradient by rows in
partition order, at the preconditioning precision. -/
def State.absorbGrad (s : State) (c unit prec : Nat) (d : Rec) (l side q n : Nat) (g : List (List W32)) (cols : Nat) : State :=
  let a := if side = 0 then g else transpose cols g
  let p := arrayProduct prec a a
  let beta := (d.word 2 >>> 32).setWidth 32
  let w := (f32sub f32one beta).1
  let b := sBlock d side
  let prev := factorAddr d side q ((n + 1) % 2)
  let es := p.1.zipIdx.map fun r => r.1.zipIdx.map fun x => absorbEntry beta (s.mem.word32 (matAddr prev b r.2 x.2)) w x.1
  s.putFactor c unit d l side q n 1 es

end Sys2Proof.Machine
end

