-- ==== Sys2Proof/Machine/Root.lean ====
section
/-!
DEFINITION. The Root Engines: KQ32 products (R158 to R164), Statistics Assembly (R146 to R148), the refresh of R165 and R170, root
buffers and publication (R169, R172 to R178), engine faults (R182), and the host's ROOT_CONFIG and ROOT_QUERY (R175, R187).
-/
namespace Sys2Proof.Machine

open Sys2Proof

/-! ### The norm bounds of R163 -/

/-- ⌈k × log2((p+1)/p)⌉ (R163). -/
def growth (p k : Nat) : Int := (((List.range (k + 1)).find? fun n => decide ((p + 1) ^ k ≤ 2 ^ n * p ^ k)).getD k : Nat)

/-! ### The steps of R165 -/

/-- log2 of the root order. -/
def RteJob.s (j : RteJob) : Nat := Nat.log2 j.p

/-- T = ((p + 1) I − M) / p from M's words, by one RNE (R165). -/
def tFromWords (p : Nat) (m : Mat) : Mat × Bool :=
  let g : Nat := (-m.exp).toNat
  let w := mapWords m.rows fun i k v =>
    rneInt ((if i = k then ((p + 1) * 2 ^ (30 + g) : Nat) else 0) - v * 2 ^ (m.exp + g).toNat) (-((Nat.log2 p + g : Nat) : Int))
  ({ rows := w.1, exp := 0 }, w.2)

/-- T from the sums of M's product, as M drains at exponent 0: the affine step has the one RNE (R159). -/
def tFromSums (p : Nat) (x y : Mat) (s : List (List Int)) : Mat × Bool :=
  let e : Int := 0 - x.exp - y.exp
  let g : Nat := (-(60 + e)).toNat
  let w := mapWords s fun i k v =>
    rneInt ((if i = k then ((p + 1) * 2 ^ (60 + e + g).toNat : Nat) else 0) - v * 2 ^ g) (-(30 + e + g + Nat.log2 p))
  ({ rows := w.1, exp := 0 }, w.2)

/-- max |M − I| as FP32 (R165, R176). -/
def residual (m : Mat) : W32 :=
  let n := m.rows.zipIdx.foldl (fun t r => r.1.zipIdx.foldl (fun t e => max t (e.1 - (if e.2 = r.2 then 2 ^ 30 else 0)).natAbs) t) 0
  (toF32 (.fin false n (m.exp - 30))).1

/-- The p-th root of n, rounded down, for p a power of two. -/
def rootFloor (s n : Nat) : Nat :=
  match s with
  | 0 => n
  | k + 1 => rootFloor k (isqrt (Nat.log2 n / 2 + 1) n)

/-- 2^(z/p) as a KQ32 word and its exponent, by RNE (the scalar unit, R165). -/
def kqPower (s : Nat) (z : Int) : Int × Int :=
  let p : Nat := 2 ^ s
  let e : Int := -((-z) / (p : Int))
  let n : Nat := 2 ^ (30 * (p : Int) + z - e * (p : Int)).toNat
  let r := rootFloor s n
  (((if (2 * r + 1) ^ p < 2 ^ p * n then r + 1 else r : Nat) : Int), e)

/-- X scaled by a word, kept at the sum of the exponents. -/
def scaleMat (w : Int) (e : Int) (x : Mat) (eOut : Int) : Mat × Bool :=
  let r := mapWords x.rows fun _ _ v => rneInt (v * w) (x.exp + e - 30 - eOut)
  ({ rows := r.1, exp := eOut }, r.2)

/-- The renormalising store of warm M (R162, R165): FP32 words, then KQ32 at E = e + 1; answers the largest row sum as
magnitude and exponent. -/
def renormStore (x y : Mat) (s : List (List Int)) : Mat × Bool × Nat × Int :=
  let fs := fpWords (x.exp + y.exp - 60) s
  let sum := fs.foldl (fun t r => max t (r.foldl (fun n w => n + match val w with | .fin _ m g => m <<< (g + 149).toNat | _ => 0) 0)) 0
  let r := renormWords fs
  (r.1, r.2, sum, -149)

/-- The DAMPED sequence of R170 on the job's assembled block. -/
def RteJob.runDamped (j : RteJob) (damp tau delta : W32) : RteJob :=
  let r := dampedRefresh j.trim j.a damp tau delta
  { j with x := r.z, resid := r.resid, piv := r.piv, sat := j.sat || r.sat, phase := .done }

/-- The job once the product of its phase has drained: the next phase, or `done`. -/
def RteJob.advance (j : RteJob) (root : Rec) : RteJob :=
  let j := { j with tile := 0, retried := false }
  let iterate (j : RteJob) (k : Nat) : RteJob :=
    if k = j.iters then { j with phase := .done } else { j with q := j.t, phase := .stepQ k 0 }
  match j.phase with
  | .warmPower i =>
    let r := kqMatMul j.trim j.y j.y (2 * j.y.exp)
    { j with y := r.1, sat := j.sat || r.2, phase := if i + 1 < j.s then .warmPower (i + 1) else .warmM }
  | .warmM =>
    let s := kqSums j.trim j.y j.a
    let r := renormStore j.y j.a s.1
    let kw : Int := if r.2.2.1 = 0 then 0 else max 0 (ceilLog2 r.2.2.1 r.2.2.2)
    -- one sweep forms M at exponent 0 and T from M (R163, R165)
    let n := mapWords r.1.rows fun _ _ v => rneInt v (r.1.exp - kw)
    let m : Mat := { rows := n.1, exp := 0 }
    let w := kqPower j.s (-kw)
    let x := scaleMat w.1 w.2 j.x (j.x.exp + w.2)
    let t := tFromWords j.p m
    { j with m := m, x := x.1, eX0 := x.1.exp, t := t.1, sat := j.sat || s.2 || r.2.1 || n.2 || x.2 || t.2, phase := .stepX 1 }
  | .coldA2 =>
    let r := kqMatMul j.trim j.a j.a j.a.exp
    { j with q := r.1, sat := j.sat || r.2, phase := .coldA4 }
  | .coldA4 =>
    let r := kqMatMul j.trim j.q j.q j.q.exp
    let rho := -j.a.exp
    let kappa : Int := max 0 (-ceilLog2 (rowSum r.1.rows) (r.1.exp - 30) / 4)
    let w := kqPower j.s (kappa - rho)
    let m := mapWords j.a.rows fun _ _ v => rneInt v (kappa - rho)
    let t := tFromWords j.p { rows := m.1, exp := 0 }
    let x := scaleMat w.1 w.2 t.1 (w.2 + growth j.p 1)
    iterate { j with m := { rows := m.1, exp := 0 }, t := t.1, x := x.1, eX0 := w.2, sat := j.sat || r.2 || m.2 || t.2 || x.2 } 1
  | .stepX k =>
    let r := kqMatMul j.trim j.x j.t (j.eX0 + growth j.p k)
    iterate { j with x := r.1, sat := j.sat || r.2 } k
  | .stepQ k i =>
    let r := kqMatMul j.trim j.q j.q (growth j.p (2 ^ (i + 1)))
    { j with q := r.1, sat := j.sat || r.2, phase := if i + 1 < j.s then .stepQ k (i + 1) else .stepM k }
  | .stepM k =>
    let s := kqSums j.trim j.q j.m
    let m := mapWords s.1 fun _ _ v => rneInt v (-(30 + (0 - j.q.exp - j.m.exp)))
    let t := tFromSums j.p j.q j.m s.1
    let m' : Mat := { rows := m.1, exp := 0 }
    { j with m := m', t := t.1, resid := residual m', sat := j.sat || s.2 || m.2 || t.2, phase := .stepX (k + 1) }
  | .damped i =>
    if i + 1 < dampedProducts ((j.order + 255) / 256) then { j with phase := .damped (i + 1) } else
    j.runDamped (BitVec.ofNat 32 (root.field 2 63 32)) (BitVec.ofNat 32 (root.field 1 63 32)) (BitVec.ofNat 32 (root.field 1 31 0))
  | .resident h => { j with phase := .resident h }
  | .done => j

/-- A job as it stands before its first product: from its assembled block (R182). -/
def RteJob.fromStart (j : RteJob) : RteJob :=
  { j with
    tile := 0, retried := false, sat := j.satA, resid := 0, piv := {}, x := j.x0, y := j.x0, m := {}, t := {}, q := {}
    phase := match j.phase with
      | .resident h => .resident h
      | _ => if j.stopped then .done else if j.isDamped then .damped 0 else if j.cold then .coldA2 else .warmPower 0 }

/-- The job refreshes the block. -/
def RteJob.refreshes (j : RteJob) (c l side q : Nat) : Bool := !j.isResident && j.ctx = c && j.layer = l && j.side = side && j.block = q

/-! ### Root buffers (R172, R176, R177) -/

/-- A root buffer's header: TAG, SCHED_STEP, words 3 and 4. -/
structure RootHead where
  tag   : BitVec 128
  step  : Nat
  w3    : W64
  resid : W32

def Mem.rootHead (m : Mem) (a : Nat) : RootHead :=
  { tag := m.tagAt a, step := (m.word64 (a + 16)).toNat, w3 := m.word64 (a + 24), resid := m.word32 (a + 36) }

def RootHead.valid (h : RootHead) : Bool := fieldOf h.w3 63 63 = 1

/-- The VALID root buffer of a block with the largest SCHED_STEP that is at most `k` (R177). -/
def Mem.rootUpTo (m : Mem) (d : Rec) (side q k : Nat) : Option Nat :=
  let pick := [0, 1].filter fun x => (m.rootHead (rootAddr d side q x)).valid && decide ((m.rootHead (rootAddr d side q x)).step ≤ k)
  pick.foldl (fun (r : Option Nat) x => match r with
    | none => some x
    | some y => if (m.rootHead (rootAddr d side q y)).step < (m.rootHead (rootAddr d side q x)).step then some x else some y) none

/-- The newest VALID buffer. -/
def Mem.newestRoot (m : Mem) (d : Rec) (side q : Nat) : Option Nat := m.rootUpTo d side q (2 ^ 64)

/-- The buffer that a refresh writes: one that is not VALID, or the one with the lower SCHED_STEP (R177). -/
def Mem.rootTarget (m : Mem) (d : Rec) (side q : Nat) : Nat :=
  let h := fun x => m.rootHead (rootAddr d side q x)
  if !(h 0).valid && (h 1).valid then 0
  else if (h 0).valid && !(h 1).valid then 1
  else if (h 1).step < (h 0).step then 1 else 0

/-- Words of a buffer as a matrix at an exponent. -/
def Mem.kqMat (m : Mem) (a b : Nat) (e : Int) : Mat :=
  { rows := (List.range b).map fun i => (m.words32 (matAddr a b i 0) b).map fun w => w.toInt, exp := e }

/-- Clear VALID of a buffer. -/
def Mem.invalidate (m : Mem) (a : Nat) : Mem := m.write (a + 24) (le 8 ((m.word64 (a + 24)).toNat % 2 ^ 63))

/-! ### Statistics Assembly (R146 to R148) -/

/-- An assembled block. -/
structure Assembled where
  stopped : Bool := false     -- a non-finite entry
  zero    : Bool := false     -- a largest diagonal of 0
  exp     : Int := 0
  rows    : List (List Int) := []
  sat     : Bool := false

/-- Assemble the matrix of factor buffer `a`, of block size `b` and true order `n`. -/
def Mem.assemble (m : Mem) (a b n : Nat) (eps : W32) : Assembled :=
  let es := (List.range n).map fun i => m.words32 (matAddr a b i 0) n
  if es.any fun r => r.any fun w => !f32finite w then { stopped := true } else
  let dmax := (List.range n).foldl (fun t i => let w := (es.getD i []).getD i 0; if f32lt t w then w else t) 0
  match val dmax with
  | .fin _ g k =>
    if g = 0 then { zero := true, rows := identityRows b } else
    let e := topExp g k + 1
    let q := (toKq 0 eps).1
    let ks := es.map fun r => r.map fun w => toKq e w
    let rows := (List.range b).map fun i => (List.range b).map fun j =>
      if i < n && j < n then
        let w := ((ks.getD i []).getD j (0, 0)).1
        if i = j then sext 32 (twos 32 (w + q)) else w
      else if i = j then 2 ^ 30 else 0
    { exp := e, rows := rows, sat := ks.any fun r => r.any fun k => k.2 = fSat }
  | _ => { stopped := true }

/-! ### Taking a job (R180, R181) -/

/-- Virtual engines that a physical engine runs (R180, R182). -/
def State.venvs (s : State) (n : Nat) : List Nat := (if (s.rte n).ownMoved then [] else [n]) ++ (s.rte n).serves

/-- A refresh of the block runs, waits to publish, or waits to restart. -/
def State.refreshing (s : State) (c l side q : Nat) : Bool :=
  s.rtes.any fun e => (e.2.job.any fun j => j.refreshes c l side q) || (e.2.publish.any fun j => j.refreshes c l side q) ||
    e.2.restart.any fun j => j.refreshes c l side q

/-- A scheduled refresh may start: its step has started, F(j − 1) is complete (R142), and the block's earlier refreshes, running
or still scheduled on any virtual engine, are done (R24, R183). -/
def State.refreshReady (s : State) (c : Nat) (x : Ctx) (r : Refresh) : Bool :=
  match x.program.bind fun p => p.stats[r.layer]? with
  | none => false
  | some d =>
    (x.state = .running || x.state = .holding || x.state = .held) && decide (r.step ≤ x.started) &&
      s.mem.factorDone (factorAddr d r.side r.block ((r.step + 1) % 2)) (r.step - 1) && !s.refreshing c r.layer r.side r.block &&
      (x.stats.schedule.find? fun y => y.layer = r.layer && y.side = r.side && y.block = r.block) = some r

/-- A context's refresh that the engine may start: the first of its schedule that is the head of a virtual engine mapped here and is
ready. -/
def State.refreshOf (s : State) (n c : Nat) (x : Ctx) : Option Refresh :=
  x.stats.schedule.find? fun r => (s.venvs n).contains r.engine && (x.stats.schedule.find? fun y => y.engine = r.engine) = some r && s.refreshReady c x r

/-- The next refresh of the engine, by context priority and round robin (R181, R335). -/
def State.nextRefresh (s : State) (n : Nat) : Option (Nat × Refresh) :=
  s.choose (s.rte n).lastCtx (s.ctxs.filterMap fun (e : Nat × Ctx) => (s.refreshOf n e.1 e.2).map fun r => (e.1, r))

/-- Start a refresh: assemble the block, choose warm or cold (R172, R173). -/
def State.startRefresh (s : State) (n c : Nat) (r : Refresh) : State :=
  match s.plan c with
  | none => s
  | some plan =>
    match plan.p.stats[r.layer]? with
    | none => s
    | some d =>
      let b := sBlock d r.side
      let fa := factorAddr d r.side r.block ((r.step + 1) % 2)
      let prev := s.mem.newestRoot d r.side r.block
      let rs := (fa, sBuffer d r.side) :: (prev.toList.map fun x => (rootAddr d r.side r.block x, sBuffer d r.side))
      s.guarded c ⟨4, n⟩ (s.checkReads c rs) fun s =>
        let s := s.noteReads rs
        let root := plan.p.root
        let s := s.onCtx c fun x => { x with stats := { x.stats with schedule := x.stats.schedule.erase r } }
        let a := s.mem.assemble fa b (sOrder d r.side r.block) ((d.word 2).setWidth 32)
        let tag := s.mem.tagAt fa
        let damped := match plan.layer? (uLayer d) (uExpert d) with | some u => decide (uMode u = 1) | none => false
        let pc := root.field 0 63 62
        let same := prev.any fun x =>
          let h := s.mem.rootHead (rootAddr d r.side r.block x)
          h.tag = tag && fieldOf h.w3 62 61 = pc && fieldOf h.w3 60 60 = bit01 damped
        let cold := !damped && !same
        -- a refresh that R148 stops runs no iteration and starts neither warm nor cold
        let cold := cold && !a.stopped
        let miss := cold && prev.isSome
        let x0 := match prev with
          | some x => let ra := rootAddr d r.side r.block x; s.mem.kqMat ra b (sext 8 (fieldOf (s.mem.rootHead ra).w3 31 24))
          | none => {}
        let rho : Int := if cold then max 0 (ceilLog2 (rowSum a.rows) (-30)) else 0
        let job : RteJob :=
          { ctx := c, layer := r.layer, side := r.side, block := r.block, step := r.step, venv := r.engine, order := b, p := 2 ^ pc
            trim := root.field 0 61 61 = 1, isDamped := damped, cold := cold, mismatch := miss
            iters := if damped || a.stopped then 0 else if cold then root.field 0 60 55 else root.field 0 54 50
            eA := a.exp, a := { rows := a.rows, exp := -rho }, x0 := if cold || damped || a.stopped then {} else x0, satA := a.sat, tag := tag
            stopped := a.stopped }
        let s := if a.stopped then s.flagEvent c fInv { unitKind := 4, unitIndex := n, row := r.block, col := r.block } else
          let h := s.mem.factorHead fa
          { s with mem := s.mem.putHead fa { h with zero := a.zero, lastE := twos 8 a.exp } }
        let s := if a.zero then s.countCtx c cZeroFactors 1 else s
        let s := if miss then s.countCtx c cWarmMismatches 1 else s
        let e := { s.rte n with lastCtx := c }
        if a.stopped then s.setRte n { e with publish := e.publish ++ [job.fromStart] } else s.setRte n { e with job := some job.fromStart }

/-! ### Publication (R169, R176 to R178) -/

/-- A started, unfinished update has selected the buffer. -/
def Ctx.selected (x : Ctx) (a : Nat) : Bool :=
  x.shards.any fun t => t.blocks.any fun b => b.2.phase ≠ .idle && (b.2.rootL = a || b.2.rootR = a)

/-- Word 3 of a published header. -/
def rootWord3 (j : RteJob) (kept unconv : Bool) (eA eR : Nat) (piv : Pivots) : Nat :=
  2 ^ 63 + Nat.log2 j.p * 2 ^ 61 + bit01 j.isDamped * 2 ^ 60 + bit01 j.trim * 2 ^ 59 + bit01 j.cold * 2 ^ 58 + bit01 j.mismatch * 2 ^ 57 +
    bit01 kept * 2 ^ 56 + bit01 (decide (0 < piv.count)) * 2 ^ 55 + bit01 piv.zero * 2 ^ 54 + bit01 (j.sat && !j.stopped) * 2 ^ 53 +
    bit01 unconv * 2 ^ 52 + j.iters % 64 * 2 ^ 46 + eA % 256 * 2 ^ 32 + eR % 256 * 2 ^ 24 + piv.first % 4096 * 2 ^ 12 + piv.count % 4096

/-- Write a root buffer: its header, then the words. -/
def Mem.putRoot (m : Mem) (a b : Nat) (j : RteJob) (w3 : Nat) (rows : List (List Int)) : Mem :=
  let m := rows.zipIdx.foldl (fun (m : Mem) r => m.write (matAddr a b r.2 0) (r.1.flatMap fun w => le 4 (twos 32 w))) (m.invalidate a)
  m.write a (le 16 j.tag.toNat ++ le 8 j.step ++ le 8 w3 ++ le 4 0 ++ le 4 j.resid.toNat ++ le 8 0)

/-- Publication exponent: the largest row sum of the published words falls in [0.5, 1) (R169). A matrix of zeros has none: the value is
free (log entry 4). -/
def publishExp (free : W32) (x : Mat) : Int :=
  let g := rowSum x.rows
  if g = 0 then sext 8 free.toNat else topExp g (x.exp - 30) + 1

/-- Publish a finished refresh, or copy the root in force forward. -/
def State.publishRoot (s : State) (n : Nat) (j : RteJob) (d : Rec) (root : Rec) : State :=
  let c := j.ctx
  let piv := j.piv
  let unconv := !j.stopped && !f32le j.resid (BitVec.ofNat 32 (root.field 2 31 0))
  let kept := j.stopped || j.sat || unconv
  let a := rootAddr d j.side j.block (s.mem.rootTarget d j.side j.block)
  let s := if j.stopped then s else
    let s := s.countCtx c (if j.isDamped then cRefreshDamped else if j.cold then cRefreshCold else cRefreshWarm) 1
    let s := if 0 < piv.count then s.countCtx c cPivReg 1 else s
    let s := if piv.zero then s.countCtx c cPivZero 1 else s
    if j.sat then s.flagEvent c fSat { unitKind := 5, unitIndex := n, row := j.block, col := j.block } else s
  if kept then
    match s.mem.newestRoot d j.side j.block with
    | none => s
    | some x =>
      let old := rootAddr d j.side j.block x
      let h := s.mem.rootHead old
      let w3 := rootWord3 j true unconv (fieldOf h.w3 39 32) (fieldOf h.w3 31 24) piv
      ({ s with mem := s.mem.putRoot a j.order j w3 (s.mem.kqMat old j.order 0).rows }).countCtx c cRootKept 1
  else
    let e := publishExp s.freeWord j.x
    let s := if rowSum j.x.rows = 0 then s.drawn else s
    let w := mapWords j.x.rows fun _ _ v => rneInt v (j.x.exp - e)
    { s with mem := s.mem.putRoot a j.order j (rootWord3 j false false (twos 8 j.eA) (twos 8 e) piv) w.1 }

/-- The first waiting publication of the engine, in the engine's own clock and service, whose buffer no started update holds. -/
def State.publishable (s : State) (n : Nat) : Option (RteJob × Rec × Rec) :=
  if !s.rteRuns n then none else (s.rte n).publish.findSome? fun j =>
    -- a job of a context that is being purged has stopped: nothing sets VALID of its buffer (R183)
    if (s.ctx j.ctx).state = .purging then none else
    match (s.ctx j.ctx).program with
    | none => none
    | some p =>
      match p.stats[j.layer]? with
      | none => none
      | some d => if (s.ctx j.ctx).selected (rootAddr d j.side j.block (s.mem.rootTarget d j.side j.block)) then none else some (j, d, p.root)

/-- ROOT_PUBLISH (R177, R178). -/
def execRootPublish (engine : Fin 8) (s : State) : Host.Outcome State Fault Refusal :=
  .next (whenReady (s.publishable engine.val) (fun x =>
    let e := s.rte engine.val
    let a := rootAddr x.2.1 x.1.side x.1.block (s.mem.rootTarget x.2.1 x.1.side x.1.block)
    (s.setRte engine.val { e with publish := e.publish.erase x.1 }).guarded x.1.ctx ⟨5, engine.val⟩ (s.checkWrite x.1.ctx a (sBuffer x.2.1 x.1.side))
      fun s => s.publishRoot engine.val x.1 x.2.1 x.2.2) s)

/-! ### ROOT_CONFIG and ROOT_QUERY (R27, R175, R187) -/

/-- ROOT_CONFIG: refused unless the context is held at a step boundary (R175); a loaded context has run no step. -/
def execRootConfig (h : KcpHdr) (w0 w1 w2 w3 : W64) (s : State) : Host.Outcome State Fault Refusal :=
  .next <| KcpCmd.arrive
    { opcode := 0x0607, need := .ctx, cls := .held
      checks := fun s => [(!(rootFails [w0, w1, w2, w3]).isEmpty, .badParam),
                          (!(s.ctx (hctx h)).settled, .busy)]
      effect := fun s => done (s.onCtx (hctx h) (fun x => { x with program := x.program.map (fun p => { p with root := [w0, w1, w2, w3] }) })) }
    (.rootConfig h w0 w1 w2 w3) h s

/-- The descriptor of a factor block that a query names. -/
def State.factorOf (s : State) (c layer expert side block : Nat) : Option Rec :=
  (s.ctx c).program.bind fun p => (statFor p.stats layer expert).bind fun d => if decide (side < 2) && decide (block < sFactors d side) then some d else none

/-- ROOT_QUERY: both headers, as 64-bit words (R10). -/
def execRootQuery (h : KcpHdr) (layer expert : W16) (side : BitVec 8) (block : W16) (s : State) : Host.Outcome State Fault Refusal :=
  .next <| KcpCmd.arrive
    { opcode := 0x0608, need := .ctx, cls := .query
      checks := fun s =>
        [((s.factorOf (hctx h) layer.toNat expert.toNat side.toNat block.toNat).isNone, .badParam),
         ((s.ctx (hctx h)).state ≠ .held && (s.ctx (hctx h)).state ≠ .faulted, .busy)]
      effect := fun s => done s (match s.factorOf (hctx h) layer.toNat expert.toNat side.toNat block.toNat with
        | some d => [0, 1].flatMap fun x => params64 (s.mem.record (rootAddr d side.toNat block.toNat x) 6)
        | none => []) }
    (.rootQuery h layer expert side block) h s

end Sys2Proof.Machine
end

