-- ==== Sys2Proof/Machine/Resident.lean ====
section
/-!
DEFINITION. Resident Solve (R184 to R191), the delta records it takes (R152 to R155), and the engines' job boundary, product drain and
fault (R159, R164, R181, R182).
-/
namespace Sys2Proof.Machine

open Sys2Proof

/-! ### Structures (R184, R185) -/

/-- Block pattern entries of a structure, from memory: block row, block column. -/
def Mem.pattern (m : Mem) (a n : Nat) : List (Nat × Nat) := (List.range n).map fun i => (m.readNat (a + 4 * i) 2, m.readNat (a + 4 * i + 2) 2)

/-- The pattern closed under fill (R184): rows from the first to the last. -/
def fillPattern (nb : Nat) (a : List (Nat × Nat)) : List (Nat × Nat) :=
  (List.range nb).foldl (fun fs i =>
    fs ++ ((List.range nb).filter fun j => decide (i ≤ j) &&
      (a.contains (i, j) || (i ≠ j && (List.range i).any fun k => fs.contains (k, i) && fs.contains (k, j)))).map fun j => (i, j)) []

def RsStruct.nb (r : RsStruct) : Nat := r.order / 256
/-- Bytes of a block. -/
def rsBlockBytes : Nat := 262144
/-- Bytes of a structure (R185). -/
def rsBytes (nblkA nblkL : Nat) : Nat := 4096 + (2 * nblkA + nblkL) * rsBlockBytes
/-- Base of one of the two input images, which hold the pattern's blocks in its order (log entry 35). -/
def RsStruct.image (r : RsStruct) (second : Bool) : Nat := r.memBase + 4096 + (if second then r.pattern.length * rsBlockBytes else 0)
/-- Base of the image of the factor blocks, in the factor pattern's order. -/
def RsStruct.factorBase (r : RsStruct) : Nat := r.memBase + 4096 + 2 * r.pattern.length * rsBlockBytes
def RsStruct.resident (r : RsStruct) : Nat := r.image r.exchanged
def RsStruct.staging (r : RsStruct) : Nat := r.image (!r.exchanged)

/-- Address of entry (i, j), i ≤ j, in an image, if its block is in the pattern. -/
def RsStruct.entryAt (r : RsStruct) (img i j : Nat) : Option Nat :=
  (r.pattern.idxOf? (i / 256, j / 256)).map fun k => img + k * rsBlockBytes + 4 * (i % 256 * 256 + j % 256)

/-- An existing structure of the context. -/
def State.struct? (s : State) (c : Nat) (h : W16) : Option RsStruct :=
  if h.toNat < 256 then (Tab.find? s.structs h.toNat).filter fun r => r.owner = c else none
def State.setStruct (s : State) (h : Nat) (r : RsStruct) : State := { s with structs := Tab.put s.structs h r }

/-- A 4 KiB-aligned range of the context's memory (R187). -/
def badBuffer (s : State) (c : Nat) (a : W64) (n : Nat) : Bool := badAddrParam a || a.toNat % 4096 ≠ 0 || !(s.ctx c).covers a.toNat n

/-- The checks of RS_CREATE (R184, R185, R187). -/
def rsCreateChecks (c : Nat) (order nblkA : W32) (pattern memBase memBytes : W64) (damp : W32) (mode : BitVec 8) (s : State) : List Check :=
  let nb := order.toNat / 256
  let n := nblkA.toNat
  let pat := s.mem.pattern pattern.toNat n
  let fill := fillPattern nb pat
  let form := order.toNat % 256 ≠ 0 || order = 0 || decide (65536 < order.toNat) || decide (nb * (nb + 1) / 2 < n) ||
    badBuffer s c pattern (4 * n) || decide (1 < mode.toNat) || (damp ≠ 0 && !f32in 0x33800000 0x3F000000 damp)
  let shape := pat.any (fun e => decide (e.2 < e.1) || decide (nb ≤ e.2)) || !(decide pat.Nodup) ||
    (List.range nb).any fun i => !(pat.contains (i, i))
  [(form, .badParam), (!form && shape, .badParam),
   (!form && !shape && (decide (memBytes.toNat < rsBytes n fill.length) || badBuffer s c memBase memBytes.toNat), .badParam),
   (decide (256 ≤ s.structs.length) || (!form && !shape && decide (16384 < fill.length)) || !s.workspaceFree, .tableFull),
   ((s.mem.poisonIn pattern.toNat (4 * n)).isSome, .fenced)]

/-- The structure that RS_CREATE makes. -/
def Mem.newStruct (m : Mem) (c : Nat) (order nblkA : W32) (pattern memBase memBytes : W64) (damp : W32) (mode : BitVec 8) : RsStruct :=
  let pat := m.pattern pattern.toNat nblkA.toNat
  { owner := c, order := order.toNat, pattern := pat, factor := fillPattern (order.toNat / 256) pat, damp := damp, full := mode = 1
    memBase := memBase.toNat, memBytes := memBytes.toNat }

/-- The lowest handle that names no structure. -/
def State.freeHandle (s : State) : Nat := ((List.range 256).find? fun i => (Tab.find? s.structs i).isNone).getD 0

/-- RS_CREATE (R184, R185, R187). The structure holds the Root Engines' workspaces reserved (R157). -/
def execRsCreate (h : KcpHdr) (order nblkA : W32) (pattern memBase memBytes : W64) (damp : W32) (mode : BitVec 8) (s : State) :
    Host.Outcome State Fault Refusal :=
  .next <| KcpCmd.arrive
    { opcode := 0x0601, need := .ctx, cls := .solver
      checks := rsCreateChecks (hctx h) order nblkA pattern memBase memBytes damp mode
      effect := fun s =>
        let r := s.mem.newStruct (hctx h) order nblkA pattern memBase memBytes damp mode
        let t := { s with mem := s.mem.zeroFill (r.image false) (2 * nblkA.toNat * rsBlockBytes) }
        done (t.setStruct s.freeHandle r) (be 2 s.freeHandle ++ be 2 0 ++ be 4 r.factor.length ++ be 8 (rsBytes nblkA.toNat r.factor.length)) }
    (.rsCreate h order nblkA pattern memBase memBytes damp mode) h s

/-- RS_DESTROY (R187). -/
def execRsDestroy (h : KcpHdr) (handle : W16) (s : State) : Host.Outcome State Fault Refusal :=
  .next <| KcpCmd.arrive
    { opcode := 0x0602, need := .ctx, cls := .solver
      checks := fun s => [((s.struct? (hctx h) handle).isNone, .badParam), ((s.struct? (hctx h) handle).any fun r => !r.work.isEmpty, .busy)]
      effect := fun s => done { s with structs := Tab.drop s.structs handle.toNat } } (.rsDestroy h handle) h s

/-! ### Delta records (R152 to R155) -/

/-- A delta record: its header fields and payload. -/
structure Delta where
  kind  : Nat
  add   : Bool
  last  : Bool
  count : Nat
  gen   : W32
  hnd   : Nat
  step  : Nat
  rows  : Nat
  bytes : Nat
  tag   : BitVec 128
  good  : Bool          -- the CRC holds and every reserved field is 0
  body  : List Byte

/-- Parse the record at the front of a byte string, if it is whole. -/
def parseDelta (bs : List Byte) : Option Delta :=
  let f := fun o n => leNat (slice bs o n)
  let n := f 0x1C 4
  if bs.length < 64 || bs.length < 64 + n then none else
  let body := (bs.drop 64).take n
  let crc := crc32c (bs.take 48 ++ le 4 0 ++ (bs.drop 52).take 12 ++ body)
  some { kind := f 0 2, add := f 2 2 / 2 % 2 = 1, last := f 2 2 % 2 = 1, count := f 4 4, gen := BitVec.ofNat 32 (f 8 4), hnd := f 0x0C 2
         step := f 0x10 8, rows := f 0x18 4, bytes := n, tag := BitVec.ofNat 128 (f 0x20 16)
         good := crc.toNat = f 0x30 4 && f 2 2 < 4 && f 0x0E 2 = 0 && f 0x34 12 = 0, body := body }

/-- Parse records that fill a byte string exactly. -/
def parseDeltas (fuel : Nat) (bs : List Byte) : Option (List Delta) :=
  match fuel with
  | 0 => if bs.isEmpty then some [] else none
  | k + 1 =>
    if bs.isEmpty then some [] else
    match parseDelta bs with
    | none => none
    | some d => (parseDeltas k (bs.drop (64 + d.bytes))).map fun r => d :: r

/-- Items of an RS record: (row, column, value) in record order; a block's lower triangle on the diagonal is left out (R153). -/
def Delta.items (d : Delta) : List (Nat × Nat × W32) :=
  let f := fun o n => leNat (slice d.body o n)
  if d.kind = 1 then
    (List.range d.count).flatMap fun k =>
      let o := k * (8 + rsBlockBytes)
      let r := f o 2
      let c := f (o + 2) 2
      (List.range 256).flatMap fun i => (List.range 256).filterMap fun j =>
        if r = c && j < i then none else some (256 * r + i, 256 * c + j, BitVec.ofNat 32 (f (o + 8 + 4 * (i * 256 + j)) 4))
  else (List.range d.count).map fun k => (f (16 * k) 4, f (16 * k + 4) 4, BitVec.ofNat 32 (f (16 * k + 8) 4))

/-- Some item of the record has a reserved field that is not 0 (R11), a lower-triangle address, or lies outside the pattern (R154). -/
def Delta.badItems (d : Delta) (r : RsStruct) : Bool :=
  let f := fun o n => leNat (slice d.body o n)
  if d.kind = 1 then
    (List.range d.count).any fun k =>
      let o := k * (8 + rsBlockBytes)
      f (o + 4) 4 ≠ 0 || !r.pattern.contains (f o 2, f (o + 2) 2)
  else
    (List.range d.count).any fun k =>
      f (16 * k + 12) 4 ≠ 0 || decide (f (16 * k + 4) 4 < f (16 * k) 4) || decide (r.order ≤ f (16 * k + 4) 4) ||
        !r.pattern.contains (f (16 * k) 4 / 256, f (16 * k + 4) 4 / 256)

/-- A record that RS_FEED refuses (R154, R155). -/
def Delta.refused (d : Delta) (hd : Nat) (r : RsStruct) : Bool :=
  !d.good || (d.kind ≠ 1 && d.kind ≠ 2) || d.hnd ≠ hd || d.tag ≠ 0 || d.step ≠ 0 || d.rows ≠ 0 ||
  d.bytes ≠ d.count * (if d.kind = 1 then 8 + rsBlockBytes else 16) || d.badItems r || (d.gen ≠ r.gen + 1 && some d.gen ≠ r.staged)

/-- Put one item into the staging image, with its mirror image inside a diagonal block. -/
def Mem.putItem (m : Mem) (r : RsStruct) (add : Bool) (x : Nat × Nat × W32) : Mem :=
  match r.entryAt r.staging x.1 x.2.1 with
  | none => m
  | some a =>
    let v := le 4 (if add then (f32add (m.word32 a) x.2.2).1 else x.2.2).toNat
    let m := m.write a v
    if x.1 / 256 = x.2.1 / 256 then
      match r.entryAt r.staging x.2.1 x.1 with
      | some b => m.write b v
      | none => m
    else m

/-- Stage a record: the first of a generation makes the staging image a copy of the resident one (R185). -/
def Mem.stageDelta (m : Mem) (r : RsStruct) (d : Delta) : Mem × RsStruct :=
  let m := if r.staged.isSome then m else m.write r.staging (m.read r.resident (r.pattern.length * rsBlockBytes))
  (d.items.foldl (fun m x => m.putItem r d.add x) m, { r with staged := some d.gen, lastSeen := r.lastSeen || d.last })

/-- Records are applied in order; the first refused one refuses the feed, which then has no effect but its count (R154, R156, R327). -/
def feedDeltas (ds : List Delta) (hd : Nat) (m : Mem) (r : RsStruct) : Option (Mem × RsStruct) :=
  ds.foldl (fun o d => o.bind fun x => if d.refused hd x.2 then none else some (x.1.stageDelta x.2 d)) (some (m, r))

/-- RS_FEED (R154, R155, R187). -/
def execRsFeed (h : KcpHdr) (handle : W16) (bytes : W32) (src : W64) (s : State) : Host.Outcome State Fault Refusal :=
  .next <| KcpCmd.arrive
    { opcode := 0x0603, need := .ctx, cls := .solver
      checks := fun s => [((s.struct? (hctx h) handle).isNone || badBuffer s (hctx h) src bytes.toNat, .badParam),
                          ((s.mem.poisonIn src.toNat bytes.toNat).isSome, .fenced)]
      effect := fun s =>
        match s.struct? (hctx h) handle with
        | none => ⟨s, .badParam, []⟩
        | some r =>
          let bs := s.mem.read src.toNat bytes.toNat
          match parseDeltas (bs.length / 64 + 1) bs with
          | none => ⟨s.countCtx (hctx h) cDeltaRefused 1, .badParam, []⟩
          | some ds =>
            match feedDeltas ds handle.toNat s.mem r with
            | none => ⟨s.countCtx (hctx h) cDeltaRefused 1, .badParam, []⟩
            | some (m, r) =>
              done (({ s with mem := m }).setStruct handle.toNat r) (be 4 ds.length ++ be 4 (r.staged.getD r.gen).toNat ++ be 4 r.gen.toNat) }
    (.rsFeed h handle bytes src) h s

/-- RS_GENERATION_RESIDENT: between two pieces of work (R155, R190). -/
def execRsGenerationResident (handle : Fin 256) (s : State) : Host.Outcome State Fault Refusal :=
  .next (whenReady ((Tab.find? s.structs handle.val).filter fun r => r.lastSeen && r.staged.isSome && !r.running) (fun r =>
    s.setStruct handle.val { r with gen := r.staged.getD r.gen, staged := none, lastSeen := false, exchanged := !r.exchanged }) s)

/-! ### Factorisations and solves (R186 to R191) -/

/-- Block-pair terms Σ c_ij of the factor pattern (R191). -/
def RsStruct.fillTerms (r : RsStruct) : Nat :=
  r.factor.foldl (fun n e => n + ((List.range e.1).filter fun k => r.factor.contains (k, e.1) && r.factor.contains (k, e.2)).length) 0

/-- Block operations of a factorisation: one per diagonal block, off-diagonal block and term of R191 (log entry 35). -/
def RsStruct.factorOps (r : RsStruct) : Nat := r.factor.length + r.fillTerms
/-- Panels of a solve: their widths. -/
def panels (nrhs : Nat) : List Nat := (List.range ((nrhs + 255) / 256)).map fun i => min 256 (nrhs - 256 * i)
/-- Block operations of a panel's solve: two triangular solves and, twice, a residual and two more. -/
def RsStruct.panelOps (r : RsStruct) : Nat := 3 * (2 * r.factor.length) + 2 * (2 * r.pattern.length - r.nb)

/-- Engine cycles of R191. -/
def RsStruct.passes (r : RsStruct) : Nat := if r.full then 4 else 3
def RsStruct.factorCycles (r : RsStruct) : Nat :=
  512 * r.pattern.length + 4096 * r.nb + 256 * r.passes * (r.factor.length - r.nb) + 256 * r.passes * r.fillTerms
def RsStruct.panelCycles (r : RsStruct) (w : Nat) : Nat :=
  3 * (2 * r.factor.length * 256 * r.passes + 2 * r.nb * w) + 2 * (2 * r.pattern.length - r.nb) * 1024

/-- A non-finite value in B stops a solve before it starts (R189). -/
def Mem.badRhs (m : Mem) (r : RsStruct) (w : RsWork) : Bool := w.solve && (m.words32 w.b (r.order * w.nrhs)).any fun x => !f32finite x

/-- Block operations that a piece of work takes. -/
def State.workOps (s : State) (r : RsStruct) (w : RsWork) : Nat :=
  (if r.factors w then r.factorOps else 0) + (if w.solve && !s.mem.badRhs r w then (panels w.nrhs).length * r.panelOps else 0)

/-- The next place in issue order. -/
def State.nextIssue (s : State) : Nat := s.structs.foldl (fun n e => e.2.work.foldl (fun n w => max n (w.issued + 1)) n) 0

/-- Queue work on a structure. -/
def State.queueWork (s : State) (hd : Nat) (r : RsStruct) (w : RsWork) : State :=
  s.setStruct hd { r with work := r.work ++ [{ w with issued := s.nextIssue }] }

/-- A fence that work may name: one the context holds, or none (log entry 35). -/
def badFence (s : State) (c : Nat) (f : W16) : Bool := f ≠ 0xFFFF && !s.holds c f.toNat

/-- RS_FACTOR (R155, R187). -/
def execRsFactor (h : KcpHdr) (handle fence : W16) (status : W64) (s : State) : Host.Outcome State Fault Refusal :=
  .next <| KcpCmd.arrive
    { opcode := 0x0604, need := .ctx, cls := .solver
      checks := fun s =>
        [((s.struct? (hctx h) handle).isNone || badFence s (hctx h) fence || badBuffer s (hctx h) status 32, .badParam),
         ((s.struct? (hctx h) handle).any fun r => r.gen = 0, .notReady)]
      effect := fun s => accepted (match s.struct? (hctx h) handle with
        | some r => s.queueWork handle.toNat r
            { solve := false, refactor := false, fence := fence.toNat, nrhs := 0, b := 0, x := 0, status := status.toNat }
        | none => s) }
    (.rsFactor h handle fence status) h s

/-- RS_SOLVE (R187, R189). -/
def execRsSolve (h : KcpHdr) (handle flags fence : W16) (nrhs : W32) (b x status : W64) (s : State) : Host.Outcome State Fault Refusal :=
  .next <| KcpCmd.arrive
    { opcode := 0x0605, need := .ctx, cls := .solver
      checks := fun s =>
        let r := s.struct? (hctx h) handle
        let n := 4 * (r.map fun r => r.order).getD 0 * nrhs.toNat
        [(r.isNone || decide (1 < flags.toNat) || nrhs = 0 || decide (16384 < nrhs.toNat) || badFence s (hctx h) fence ||
          badBuffer s (hctx h) b n || badBuffer s (hctx h) x n || badBuffer s (hctx h) status 32, .badParam),
         (r.any fun r => r.gen = 0 || (flags = 0 && r.factorGen ≠ some r.gen), .notReady)]
      effect := fun s => accepted (match s.struct? (hctx h) handle with
        | some r => s.queueWork handle.toNat r
            { solve := true, refactor := flags = 1, fence := fence.toNat, nrhs := nrhs.toNat, b := b.toNat, x := x.toNat, status := status.toNat }
        | none => s) }
    (.rsSolve h handle flags fence nrhs b x status) h s

/-- The status record as parameter fields (R10, R188). -/
def statusParams (r : Rec) : List Byte :=
  (List.range 3).flatMap (fun i => be 4 (r.field i 31 0) ++ be 4 (r.field i 63 32)) ++ be 8 (r.word 3).toNat

/-- RS_QUERY: a structure that has completed nothing answers a record of zeros (log entry 35). -/
def execRsQuery (h : KcpHdr) (handle : W16) (s : State) : Host.Outcome State Fault Refusal :=
  .next <| KcpCmd.arrive
    { opcode := 0x0606, need := .ctx, cls := .query
      checks := fun s => [((s.struct? (hctx h) handle).isNone, .badParam)]
      effect := fun s => done s (statusParams (match s.struct? (hctx h) handle with | some r => r.record | none => [])) } (.rsQuery h handle) h s

/-- What a piece of work computes: the factor's words and report when it factors, the words of X and the residuals when it solves. -/
structure WorkResult where
  factor : Option (List W32) := none
  piv    : Pivots := {}
  sat    : Bool := false
  x      : List (Flagged W32) := []
  first  : W32 := 0
  last   : W32 := 0

/-- Words of a factor image, in the factor pattern's order. -/
def RsStruct.factorWords (r : RsStruct) (u : Blocks) : List W32 :=
  r.factor.flatMap fun e => (u.get e.1 e.2).flatMap fun row => row.map fun v => BitVec.ofNat 32 (twos 32 v)

/-- The factor's blocks as memory holds them. -/
def Mem.factorBlocks (m : Mem) (r : RsStruct) : Blocks :=
  r.factor.zipIdx.map fun e =>
    (e.1, (List.range 256).map fun i => (m.words32 (r.factorBase + e.2 * rsBlockBytes + 1024 * i) 256).map fun w => w.toInt)

/-- Quotient of the largest residual by the largest right-hand side, as FP32; right-hand sides that are all 0 have none that the manual
states: `free` stands for it (log entry 11). -/
def residQuotient (free d b : W32) : W32 := if f32isZero b then free else (f32div d b).1

/-- Run a piece of work against the resident image (R186, R189). -/
def Mem.runWork (m : Mem) (r : RsStruct) (w : RsWork) (tau delta free : W32) : WorkResult :=
  let img := m.words32 r.resident (r.pattern.length * 65536)
  let eS := structExp img (sext 8 free.toNat)
  let n := normalBlocks eS r.pattern img
  let d := dampBlocks r.damp n.1
  let fac := if r.factors w then some (factorImage r.full r.nb r.factor d.1 tau delta) else none
  let u := match fac with | some f => f.u | none => m.factorBlocks r
  let facSat := match fac with | some f => f.sat || n.2 || d.2 | none => false
  let done : WorkResult := { factor := fac.map fun f => r.factorWords f.u, piv := (fac.map (·.piv)).getD {}, sat := facSat }
  if !w.solve || m.badRhs r w then done else
  let b := m.words32 w.b (r.order * w.nrhs)
  let ps := (panels w.nrhs).zipIdx.map fun p =>
    let s := solveOnePanel r.full r.pattern r.factor n.1 u (rhsPanel r.order p.1 (b.drop (256 * p.2 * r.order)))
    (panelWords r.order p.1 eS s.x, s)
  let top := fun (f : PanelSolve → W32) => ps.foldl (fun (t : W32) p => if f32lt t (f p.2) then f p.2 else t) 0
  let bTop := fpTop [b]
  { done with sat := done.sat || ps.any fun p => p.2.sat, x := ps.flatMap (·.1)
              first := residQuotient free (top (·.first)) bTop, last := residQuotient free (top (·.last)) bTop }

/-- End a piece of work: its factor, its solution, the status record, then the fence (R187 to R189). -/
def State.endWork (s : State) (hd : Nat) (r : RsStruct) (w : RsWork) (rest : List RsWork) : State :=
  let c := r.owner
  let root := match (s.ctx c).program with | some p => p.root | none => [0xAC180F0100000000, 0x3580000032800000, 0x3A8000003C800000, 0]
  let n := r.order * w.nrhs
  let fac := r.factors w
  let facRange := (r.factorBase, r.factor.length * rsBlockBytes)
  let rs := (r.resident, r.pattern.length * rsBlockBytes) :: if w.solve then (w.b, 4 * n) :: (if fac then [] else [facRange]) else []
  s.guarded c ⟨5, 0⟩ ((s.checkReads c rs).orElse
      (s.checkWrites c ((w.status, 32) :: (if fac then [facRange] else []) ++ if w.solve then [(w.x, 4 * n)] else []))) fun s =>
    let s := s.noteReads rs
    let nan := s.mem.badRhs r w
    let z := s.mem.runWork r w (BitVec.ofNat 32 (root.field 1 63 32)) (BitVec.ofNat 32 (root.field 1 31 0)) s.freeWord
    let s := s.drawn
    let solved := w.solve && !nan
    let flags := bit01 (decide (0 < z.piv.count)) + 2 * bit01 z.piv.zero + 4 * bit01 z.sat + 8 * bit01 (w.solve && fac) + 16 * bit01 nan
    let cycles := (if fac then r.factorCycles else 0) + (if solved then (panels w.nrhs).foldl (fun t k => t + r.panelCycles k) 0 else 0)
    let rec' : Rec :=
      [BitVec.ofNat 64 (r.gen.toNat + flags * 2 ^ 32), BitVec.ofNat 64 (z.piv.first + z.piv.count * 2 ^ 32),
       BitVec.ofNat 64 (z.first.toNat + z.last.toNat * 2 ^ 32), BitVec.ofNat 64 cycles]
    let s := match z.factor with
      | some ws => s.write r.factorBase (ws.flatMap fun (v : W32) => le 4 v.toNat)
      | none => s
    let s := if solved then s.write w.x (z.x.flatMap fun (v : Flagged W32) => le 4 v.1.toNat) else s
    let s := s.writeRec w.status rec'
    let s := s.setStruct hd { r with work := rest, running := false, record := rec', factorGen := if fac then some r.gen else r.factorGen }
    let s := if 0 < z.piv.count then s.countCtx c cPivReg 1 else s
    let s := if z.piv.zero then s.countCtx c cPivZero 1 else s
    let s := if solved then s.countCtx c cRsSolves 1 else s
    -- the event names die 0: the block operations of one piece of work run on any engines (R55, R57; log entry 11)
    let s := s.flagEvent c (z.x.foldl (fun f v => f ||| v.2) ((if nan then fNan else 0) ||| (if z.sat then fSat else 0))) { unitKind := 5, unitIndex := 0 }
    if w.fence = 0xFFFF then s else s.signal w.fence 1

/-- RS_WORK_COMPLETE: the head's block operations have all run. -/
def State.workComplete (s : State) (hd : Nat) : State :=
  match Tab.find? s.structs hd with
  | none => s
  | some r =>
    match r.work with
    | [] => s
    | w :: rest => if s.workOps r w ≤ w.blocks && (s.ctx r.owner).state ≠ .purging && (s.ctx r.owner).state ≠ .faulted then s.endWork hd r w rest else s

def execRsWorkComplete (handle : Fin 256) (s : State) : Host.Outcome State Fault Refusal := .next (s.workComplete handle.val)

/-! ### Engines (R159, R164, R181, R182) -/

/-- Block operations of a structure that engines are running or will restart. -/
def State.opsOut (s : State) (hd : Nat) : Nat :=
  s.rtes.foldl (fun n e => n + (e.2.job.toList ++ e.2.restart).foldl (fun n j => if j.phase = .resident hd then n + 1 else n) 0) 0

/-- Structures with a block operation to run: owner, issue place, handle. -/
def State.residentReady (s : State) : List (Nat × Nat × Nat) :=
  s.structs.filterMap fun (e : Nat × RsStruct) =>
    match e.2.work with
    | [] => none
    | w :: _ => if w.blocks + s.opsOut e.1 < s.workOps e.2 w && (s.ctx e.2.owner).state ≠ .purging && (s.ctx e.2.owner).state ≠ .faulted then
        some (e.2.owner, w.issued, e.1) else none

/-- The block operation an engine takes: by context priority, then by issue order (R181). -/
def State.nextResident (s : State) : Option (Nat × Nat × Nat) :=
  s.residentReady.foldl (fun best x =>
    match best with
    | none => some x
    | some y =>
      let p := fun (z : Nat × Nat × Nat) => (s.ctx z.1).priority
      if p y < p x || (p x = p y && x.2.1 < y.2.1) then some x else some y) none

/-- RTE_JOB_START: a job to restart, a refresh, or a resident block operation. -/
def State.rteJobStart (s : State) (n : Nat) : State :=
  let e := s.rte n
  if !s.rteRuns n || e.job.isSome then s else
  match e.restart with
  | j :: r => s.setRte n { e with job := some j.fromStart, restart := r }
  | [] =>
    match s.nextRefresh n with
    | some (c, r) => s.startRefresh n c r
    | none =>
      match s.nextResident with
      | none => s
      | some (c, _, hd) =>
        match Tab.find? s.structs hd with
        | none => s
        | some r => (s.setRte n { e with job := some { ctx := c, phase := .resident hd, order := 256 } }).setStruct hd { r with running := true }

def execRteJobStart (engine : Fin 8) (s : State) : Host.Outcome State Fault Refusal := .next (s.rteJobStart engine.val)

/-- Output tiles of the running product. -/
def RteJob.outTiles (j : RteJob) : Nat :=
  match j.phase with
  | .resident _ => 1
  | .damped _ => 1
  | _ => ((j.order + 255) / 256) * ((j.order + 255) / 256)

/-- RTE_PRODUCT_DRAIN (R159, R164): the product's words leave with its last tile. -/
def State.productDrain (s : State) (n : Nat) (bad : Bool) : State :=
  let e := s.rte n
  match e.job with
  | none => s
  | some j =>
    -- a context purge stops the job at this boundary (R183, R190)
    if !s.rteRuns n || (s.ctx j.ctx).state = .purging then s else
    if bad then
      if j.retried then s.setRte n { e with halted := true }
      else s.setRte n { e with job := some { j with retried := true, tile := 0 }, counters := Tab.count e.counters 1 1 }
    else if j.tile + 1 < j.outTiles then s.setRte n { e with job := some { j with tile := j.tile + 1 } }
    else
      match j.phase with
      | .resident hd =>
        let s := s.setRte n { e with job := none }
        match Tab.find? s.structs hd with
        | none => s
        | some r => s.setStruct hd { r with work := match r.work with | [] => [] | w :: t => { w with blocks := w.blocks + 1 } :: t }
      | _ =>
        let k := j.advance (match (s.ctx j.ctx).program with | some p => p.root | none => [])
        if k.phase = .done then s.setRte n { e with job := none, publish := e.publish ++ [k] } else s.setRte n { e with job := some k }

def execRteProductDrain (engine : Fin 8) (residueError : Bool) (s : State) : Host.Outcome State Fault Refusal :=
  .next (s.productDrain engine.val residueError)

/-- RTE_FAULT, which firmware handles (R182, R370): the job and the virtual engines move to the next engine in service; a passed test gives the virtual engines back. -/
def State.rteFault (s : State) (n : Nat) (passed : Bool) : State :=
  let e := s.rte n
  if !e.inService then s else
  let to' := nextEngine (fun k => (s.rte k).inService && k ≠ n) n
  let js := e.job.toList ++ e.restart
  let s := s.setRte n { e with
    job := none, restart := [], halted := false, inService := passed, publish := if to' = n then e.publish else []
    ownMoved := e.ownMoved || !passed, serves := if passed then e.serves else [] }
  let t := s.rte to'
  let s := s.setRte to' { t with
    restart := t.restart ++ js, publish := if to' = n then t.publish else t.publish ++ e.publish
    serves := if passed then t.serves else t.serves ++ (if e.ownMoved then [] else [n]) ++ e.serves }
  let s := s.raise 0x05 none ⟨5, n⟩ (BitVec.ofNat 64 to') 0
  if passed then s else
  let s := { s with boot := { s.boot with repairRte := s.boot.repairRte ++ [n] } }
  s.raise 0x06 none ⟨5, n⟩ (BitVec.ofNat 64 ((List.range 8).filter fun k => (s.rte k).inService).length) 0

def execRteFault (engine : Fin 8) (testPassed : Bool) (s : State) : Host.Outcome State Fault Refusal :=
  .next (onlyIf s.firmware (fun s => s.rteFault engine.val testPassed) s)

end Sys2Proof.Machine
end

