-- ==== Sys2Proof/Machine/VxuOps.lean ====
section
/-!
DEFINITION. What a Vector Unit computes: the chain operations (R60, R103, R109, R110), reductions (R111 to R115), softmax rows
(R116, R117) and top-k selection (R119, R120). A register holds FP32 codes, in packed mode those of BF16 values.
-/
namespace Sys2Proof.Machine

open Sys2Proof

/-! ### Rounding (R60, R103) -/

/-- Round a value once to FP32, in packed mode to BF16. -/
def vxRound (pk : Bool) (x : Flagged Num) : Flagged W32 :=
  if !pk then rnd x else
  match x.1 with
  | .nan => (f32nan, x.2)
  | y => let r := bf16.encode .toInf y; (BitVec.ofNat 32 (r.1 * 65536), r.2 ||| x.2)

/-- An FP32 result, rounded to BF16 in packed mode. -/
def vxNarrow (pk : Bool) (x : Flagged W32) : Flagged W32 := if pk then vxRound true (val x.1, x.2) else x

/-- A value loaded into a register: a NaN becomes canonical and sets NAN_IN (R33, R52). -/
def vxWiden (pk : Bool) (x : Num) : Flagged W32 := vxRound pk (x, if x.isNan then fNan else 0)

/-- An integer element is rounded to FP32 as it is loaded, and that conversion sets no flag (R49, R95). -/
def vxWidenInt (pk : Bool) (i : Int) : Flagged W32 := ((vxRound pk (.ofInt i, 0)).1, 0)

/-! ### Element operations (R109, R110) -/

/-- CVT: the conversion that it models, widened back. -/
def vxCvt (pk : Bool) (a : W32) (code : Nat) : Flagged W32 :=
  match eFmt code with
  | some (.int b) => let r := toIntSat b (val a); vxRound pk (.ofInt r.1, r.2)
  | some (.float f _) => let r := f.encode (if f.ieee then .toInf else .saturate) (val a); vxRound pk (f.decode r.1, r.2)
  | _ => (a, 0)

/-- The operation that R60 only bounds, by its code. -/
def openOpOf (op : Nat) : OpenOp :=
  match op with
  | 0x14 => .exp | 0x15 => .exp2 | 0x16 => .log | 0x17 => .log2 | 0x18 => .tanh | 0x19 => .sigm | 0x1A => .erf | _ => .gelu

/-- CMPLT and CMPEQ: 1.0 or +0; a NaN operand gives +0 with NAN_IN. -/
def vxCompare (a b : W32) (p : Int → Bool) : Flagged W32 :=
  if f32isNan a || f32isNan b then (0, fNan) else (if p ((val a).cmp (val b)) then f32one else 0, 0)

/-- NAN_IN where one of the operands is NaN. -/
def nanIn (xs : List W32) : Nat := if xs.any f32isNan then fNan else 0

/-- An operation on one element: `a`, `b`, `c` are the operands, `k` the constant, `i` the index that IDX gives. -/
def vxAlu (pk : Bool) (op sel : Nat) (a b c k : W32) (i : Nat) : Flagged W32 :=
  match op with
  | 0x03 => vxWiden pk (val k)
  | 0x04 => vxRound pk ((val a).add (val b))
  | 0x05 => vxRound pk ((val a).add (val b).negate)
  | 0x06 => vxRound pk ((val a).mul (val b))
  | 0x07 => vxRound pk ((val a).fma (val b) (val c))
  | 0x08 => vxRound pk ((val a).minOf (val b))
  | 0x09 => vxRound pk ((val a).maxOf (val b))
  | 0x0A => vxRound pk ((val a).abs, nanIn [a])
  | 0x0B => vxRound pk ((val a).negate, nanIn [a])
  | 0x0C => vxCompare a b fun x => decide (x < 0)
  | 0x0D => vxCompare a b fun x => decide (x = 0)
  | 0x0E => (if f32isZero c then b else a, nanIn [a, b, c])
  | 0x0F => vxCvt pk a sel
  | 0x10 => vxRound pk ((val a).div (val b))
  | 0x11 => vxRound pk (val a).sqrt
  | 0x12 => vxNarrow pk (f32rcp a)
  | 0x13 => vxNarrow pk (f32rsqrt a)
  | 0x1D => vxRound pk (.ofNat i, 0)
  | o => vxNarrow pk (f32open (openOpOf o) a)

/-! ### Reductions (R111 to R115) -/

/-- Marks that a partial keeps beside its flags: a NaN was absorbed, +inf was, −inf was. -/
def mNan : Nat := 256
def mPos : Nat := 512
def mNeg : Nat := 1024

/-- Marks and flags of an absorbed value. -/
def absorbMarks (x : W32) : Nat :=
  match val x with
  | .nan => mNan ||| fNan
  | .inf neg => if neg then mNeg else mPos
  | _ => 0

/-- Flags that a reduction's own operations add: a NaN partial is no new NaN operand (R113). -/
def innerFlags (xs : List Nat) : Nat := xs.foldl (fun f x => f ||| (x &&& 0x1D)) 0

/-- Absorb one element (R112); the count saturates with SAT (R113). -/
def Partial.absorb (op : Nat) (p : Partial) (x : W32) : Partial :=
  let f := p.flags ||| absorbMarks x
  if p.n = 0 then
    let v := if op = 1 then f32fma x x 0 else (x, 0)
    { n := 1, v := v.1, m2 := 0, flags := f ||| innerFlags [v.2] }
  else
    let n := min (p.n + 1) (2 ^ 32 - 1)
    let f := f ||| (if 2 ^ 32 ≤ p.n + 1 then fSat else 0)
    match op with
    | 0 => let r := f32add p.v x; { n := n, v := r.1, flags := f ||| innerFlags [r.2] }
    | 1 => let r := f32fma x x p.v; { n := n, v := r.1, flags := f ||| innerFlags [r.2] }
    | 2 => let r := f32max p.v x; { n := n, v := r.1, flags := f ||| innerFlags [r.2] }
    | 3 => let r := f32min p.v x; { n := n, v := r.1, flags := f ||| innerFlags [r.2] }
    | _ =>
      let d := f32sub x p.v
      let q := f32div d.1 (f32ofNat n)
      let mu := f32add p.v q.1
      let e := f32sub x mu.1
      let m2 := f32fma d.1 e.1 p.m2
      { n := n, v := mu.1, m2 := m2.1, flags := f ||| innerFlags [d.2, q.2, mu.2, e.2, m2.2] }

/-- Combine two partials: `a` is the lower lane's, or the earlier one (R112, R115). One with no element passes its partner through;
a count saturates with SAT (R113). -/
def Partial.merge (op : Nat) (a b : Partial) : Partial :=
  let f := a.flags ||| b.flags
  if a.n = 0 then { b with flags := f } else if b.n = 0 then { a with flags := f } else
  let n := min (a.n + b.n) (2 ^ 32 - 1)
  let f := f ||| (if 2 ^ 32 ≤ a.n + b.n then fSat else 0)
  if op = 4 then
    let d := f32sub b.v a.v
    let w := f32div (f32ofNat b.n) (f32ofNat n)
    let x := f32mul d.1 w.1
    let mu := f32add a.v x.1
    let ab := f32mul (f32ofNat a.n) (f32ofNat b.n)
    let q := f32div ab.1 (f32ofNat n)
    let dd := f32mul d.1 d.1
    let y := f32mul dd.1 q.1
    let m := f32add a.m2 b.m2
    let m2 := f32add m.1 y.1
    { n := n, v := mu.1, m2 := m2.1, flags := f ||| innerFlags [d.2, w.2, x.2, mu.2, ab.2, q.2, dd.2, y.2, m.2, m2.2] }
  else
    let r := if op ≤ 1 then f32add a.v b.v else if op = 2 then f32max a.v b.v else f32min a.v b.v
    { n := n, v := r.1, flags := f ||| innerFlags [r.2] }

/-- Merge a record that a lane reads (R115): words VALUE, M2, COUNT, FLAGS. -/
def Partial.record (op : Nat) (p : Partial) (r : List W32) : Partial :=
  let v := r.getD 0 0
  let m2 := if op = 4 then r.getD 1 0 else 0
  let n := (r.getD 2 0).toNat
  let nan := n ≠ 0 && (f32isNan v || f32isNan m2)
  p.merge op { n := n, v := v, m2 := m2
               flags := fieldOf (r.getD 3 0) 4 0 ||| (if n = 0 then 0 else absorbMarks v) ||| (if nan then mNan ||| fNan else 0) }

/-- Flags that absorbing one value raises, whatever the partial has met before: an infinity makes the record of MEANVAR invalid (R113). -/
def Partial.raises (op : Nat) (p : Partial) (x : W32) : Nat :=
  (({ p with flags := 0 }.absorb op x).flags ||| (if op = 4 && f32isInf x then fInv else 0)) % 32

/-- One level of the tree: neighbours are combined, the lower lane first. -/
def treeLevel (op : Nat) : List Partial → List Partial
  | a :: b :: r => a.merge op b :: treeLevel op r
  | r => r

/-- The tree of seven levels over 128 lanes (R112). -/
def reduceTree (op : Nat) (lanes : List Partial) : Partial :=
  ((List.range 7).foldl (fun ls _ => treeLevel op ls) lanes).headD {}

/-- The four words of a record: VALUE, M2, COUNT, FLAGS (R111, R113). -/
def Partial.words (op : Nat) (p : Partial) : List W32 :=
  let f := p.flags % 32
  let w := fun (v m2 : W32) (f : Nat) => [v, m2, BitVec.ofNat 32 p.n, BitVec.ofNat 32 f]
  let has := fun m => decide (p.flags &&& m ≠ 0)
  if p.n = 0 then
    match op with
    | 2 => w (f32inf true) 0 f
    | 3 => w (f32inf false) 0 f
    | 4 => w f32nan f32nan (f ||| fInv)
    | _ => w 0 0 f
  else if op = 4 then
    if has mPos || has mNeg then w f32nan f32nan (f ||| fInv) else if has mNan then w f32nan f32nan f else w p.v p.m2 f
  else if op ≤ 1 && has mPos && has mNeg then w f32nan 0 (f ||| fInv)
  else if has mNan then w f32nan 0 f else w p.v 0 f

/-- 128 lanes that have absorbed nothing. -/
def emptyLanes : List Partial := List.replicate 128 {}

/-! ### Softmax (R116, R117) -/

/-- Lane of element `j` of a run: two elements to a lane in packed mode (R103, log entry 31). -/
def vxLane (pk : Bool) (j : Nat) : Nat := if pk then j % 256 / 2 else j % 128

/-- EXP(x − m), +0 for a logit of −inf, and 1 where the exponent is 0 (R116, R117). -/
def expTerm (pk : Bool) (x m : W32) : W32 :=
  if f32isInf x then 0 else
  let d := (vxRound pk ((val x).add (val m).negate)).1
  if f32isZero d then f32one else (vxNarrow pk (f32open .exp d)).1

/-- How R116 decides a row. -/
inductive RowRule where
  | nan
  | empty
  | inf (p : Nat)
  | normal (m s : W32)
  deriving DecidableEq, Repr

/-- What a row's position is written as. -/
def RowRule.output (r : RowRule) (pk : Bool) (x : W32) (masked : Bool) : W32 :=
  if masked then 0 else
  match r with
  | .nan => f32nan
  | .empty => 0
  | .inf p => if x = f32inf false then (vxRound pk (nOne.div (.ofNat p))).1 else 0
  | .normal m s => (vxRound pk ((val (expTerm pk x m)).div (val s))).1

/-- Flags that the rule sets. -/
def RowRule.flags : RowRule → Nat
  | .nan => fNan
  | .empty => fEmpty
  | _ => 0

/-- The rule of a row that is read once: logits with their mask bit. -/
def rowRule (pk : Bool) (xs : List (W32 × Bool)) : RowRule :=
  let live := xs.zipIdx.filter fun x => !x.1.2
  let pinf := (live.filter fun x => x.1.1 = f32inf false).length
  if live.any fun x => f32isNan x.1.1 then .nan
  else if live.all fun x => x.1.1 = f32inf true then .empty
  else if 0 < pinf then .inf pinf
  else
    let m := live.foldl (fun m x => (f32max m x.1.1).1) (f32inf true)
    let lanes := live.foldl (fun (ls : List Partial) x =>
      ls.modify (vxLane pk x.2) fun p => p.absorb 0 (expTerm pk x.1.1 m)) emptyLanes
    .normal m (reduceTree 0 lanes).v

/-- A term of the running pair: +0 where its exponent would come from −inf. -/
def pairTerm (s m top : W32) : W32 := if m = f32inf true then 0 else (f32mul s (expTerm false m top)).1

/-- First read of a long row: a lane takes a logit (R117). -/
def pairTake (o : Option (W32 × W32)) (x : W32) : W32 × W32 :=
  match o with
  | none => (x, if x = f32inf true then 0 else f32one)
  | some (mm, sg) =>
    if x = f32inf true then (mm, sg)
    else if f32lt mm x then (x, (f32add (pairTerm sg mm x) f32one).1)
    else (mm, (f32add sg (expTerm false x mm)).1)

/-- Combine the pairs of two lanes. -/
def pairMerge (a b : Option (W32 × W32)) : Option (W32 × W32) :=
  match a, b with
  | some x, some y =>
    let mm := (f32max x.1 y.1).1
    some (mm, (f32add (pairTerm x.2 x.1 mm) (pairTerm y.2 y.1 mm)).1)
  | some x, none => some x
  | none, y => y

def pairLevel : List (Option (W32 × W32)) → List (Option (W32 × W32))
  | a :: b :: r => pairMerge a b :: pairLevel r
  | r => r

/-- The rule of a row that is read twice, decided by its first read. -/
def longRule (nan : Bool) (pinf : Nat) (pairs : Tab (W32 × W32)) : RowRule :=
  if nan then .nan else if 0 < pinf then .inf pinf else
  match ((List.range 7).foldl (fun ls _ => pairLevel ls) ((List.range 128).map fun l => Tab.find? pairs l)).headD none with
  | none => .empty
  | some (m, s) => if m = f32inf true then .empty else .normal m s

/-! ### Top-k (R119, R120) -/

/-- Scores of a token with the flags of each: the softmax of its logits, which raises only what its rule sets (R116), or SIGM of each. -/
def topkScores (sigmoid : Bool) (xs : List W32) : List (Flagged W32) × Nat :=
  if sigmoid then (xs.map (f32open .sigm), 0)
  else
    let rule := rowRule false (xs.map fun x => (x, false))
    (xs.map fun x => (rule.output false x false, 0), rule.flags)

/-- The largest score not yet taken; of equal ones the lowest expert. -/
def bestOf (scores : List W32) (taken : List Nat) : Option Nat :=
  scores.zipIdx.foldl (fun best x =>
    if taken.contains x.2 then best else
    match best with
    | none => some x.2
    | some b => if f32lt (scores.getD b 0) x.1 then some x.2 else best) none

/-- The k experts of a token, rank 0 first. -/
def topkSelect (scores : List W32) (k : Nat) : List Nat :=
  (List.range k).foldl (fun taken _ => taken ++ (bestOf scores taken).toList) []

/-- Gate weights of the selected experts: divided by their sum in rank order where RENORM is set. -/
def topkWeights (renorm : Bool) (ws : List W32) : List W32 × Nat :=
  if !renorm then (ws, 0) else
  let sum := match ws with
    | [] => (0, 0)
    | w :: r => r.foldl (fun (t : Flagged W32) x => let y := f32add t.1 x; (y.1, t.2 ||| y.2)) (w, 0)
  let qs := ws.map fun w => f32div w sum.1
  (qs.map (·.1), qs.foldl (fun f x => f ||| x.2) sum.2)

/-- A dispatch entry (R121). -/
def dispatchEntry (weight : W32) (valid : Bool) (rank expert token : Nat) : W64 :=
  weight ++ BitVec.ofBool valid ++ BitVec.ofNat 3 rank ++ BitVec.ofNat 12 expert ++ BitVec.ofNat 16 token

/-- The end marker of a list: its entry count in place of a weight, VALID 0 (log entry 32). -/
def endMarker (count : Nat) : W64 := dispatchEntry (BitVec.ofNat 32 count) false 0 0 0

end Sys2Proof.Machine
end

