-- ==== Sys2Proof/Machine/Update.lean ====
section
/-!
DEFINITION. The Fused Update Units: the arrival of a gradient block (R206, R214), the rule a block follows (R200), its scalars and element
rules (R201, R202), the preconditioned direction (R203, R204), skipping (R205), the order of an update (R207), late updates (R215), the
update-complete fence (R216) and the Layer Norm Table (R217, R218).
-/
namespace Sys2Proof.Machine

open Sys2Proof

/-! ### Sums and norms (R112, R206) -/

/-- Lane reduction of elements in order (R112): 0 SUM, 1 SUMSQ, 2 MAX. -/
def laneReduce (op : Nat) (xs : List W32) : Partial :=
  reduceTree op (xs.zipIdx.foldl (fun (ls : List Partial) x => ls.modify (x.2 % 128) fun p => p.absorb op x.1) emptyLanes)

/-- VALUE of a reduction's record. -/
def Partial.value (op : Nat) (p : Partial) : W32 := (p.words op).headD 0

/-- Elements cut into 4 KiB segments. -/
def segments (fuel : Nat) (xs : List W32) : List (List W32) :=
  match fuel with
  | 0 => []
  | k + 1 => if xs.isEmpty then [] else xs.take 1024 :: segments k (xs.drop 1024)

/-- gsq and the largest magnitude of a gradient block (R206). -/
def snoop (g : List W32) : W32 × W32 :=
  let ss := (segments (g.length / 1024 + 1) g).map fun t => t.foldl (fun a x => (f32fma x x a).1) 0
  (match ss with
   | [] => 0
   | a :: r => r.foldl (fun t x => (f32add t x).1) a,
   g.foldl (fun m x => (f32max m (f32abs x)).1) 0)

/-! ### Scalars and element rules (R201, R202) -/

structure Scalars where
  eta   : W32
  b1    : W32
  b2    : W32
  c1    : W32
  c2    : W32
  w1    : W32
  w2    : W32
  beta1 : W32
  beta2 : W32
  eps   : W32
  wd    : W32
  clip  : W32
  clipped : Bool
  flags : Nat

/-- Fields of an Update Layer Descriptor (R197). -/
def uLr (u : Rec) : W32 := BitVec.ofNat 32 (u.field 1 63 32)
def uWd (u : Rec) : W32 := BitVec.ofNat 32 (u.field 1 31 0)
def uBeta1 (u : Rec) : W32 := BitVec.ofNat 32 (u.field 2 63 32)
def uBeta2 (u : Rec) : W32 := BitVec.ofNat 32 (u.field 2 31 0)
def uEps (u : Rec) : W32 := BitVec.ofNat 32 (u.field 3 63 32)
def uClip (u : Rec) : W32 := BitVec.ofNat 32 (u.field 3 31 0)
def uClipEn (u : Rec) : Bool := u.field 0 27 27 = 1

/-- Address of the schedule entry of step `k`, if there is a table (R196). -/
def etaAddr (up : Rec) (k : Nat) : Option Nat :=
  if up.field 1 47 0 = 0 then none else some (up.field 1 47 0 + 4 * (min k (up.field 2 63 32) - 1))

/-- η(k). -/
def Mem.etaAt (m : Mem) (up : Rec) (k : Nat) : W32 := match etaAddr up k with | some a => m.word32 a | none => f32one

def scalars (m : Mem) (up u : Rec) (t : Shard) (k : Nat) (gsq : W32) (stateless : Bool) : Scalars :=
  let eta := f32mul (uLr u) (m.etaAt up k)
  let b1 := f32mul t.b1pow (uBeta1 u)
  let b2 := f32mul t.b2pow (uBeta2 u)
  let d1 := f32sub f32one b1.1
  let d2 := f32sub f32one b2.1
  let c1 := f32div f32one d1.1
  let c2 := f32div f32one d2.1
  let w1 := f32sub f32one (uBeta1 u)
  let w2 := f32sub f32one (uBeta2 u)
  let lim := f32mul (uClip u) (uClip u)
  let exceeds := uClipEn u && !stateless && !f32isNan gsq && f32lt lim.1 gsq
  let rt := f32sqrt gsq
  let cl := f32div (uClip u) rt.1
  { eta := eta.1, b1 := b1.1, b2 := b2.1, c1 := c1.1, c2 := c2.1, w1 := w1.1, w2 := w2.1, beta1 := uBeta1 u, beta2 := uBeta2 u
    eps := uEps u, wd := uWd u, clip := if exceeds then cl.1 else f32one, clipped := exceeds
    flags := innerFlags ([eta.2, b1.2, b2.2, d1.2, d2.2, c1.2, c2.2, w1.2, w2.2] ++ (if uClipEn u && !stateless then [lim.2] else []) ++
      if exceeds then [rt.2, cl.2] else []) }

/-- One element's moments and Adam direction: m1, v1, a, flags. -/
def adam (k : Scalars) (m v g0 : W32) : W32 × W32 × W32 × Nat :=
  let g := f32mul k.clip g0
  let wg := f32mul k.w1 g.1
  let m1 := f32fma k.beta1 m wg.1
  let gg := f32mul g.1 g.1
  let wgg := f32mul k.w2 gg.1
  let v1 := f32fma k.beta2 v wgg.1
  let mc := f32mul m1.1 k.c1
  let vc := f32mul v1.1 k.c2
  let rt := f32sqrt vc.1
  let den := f32add rt.1 k.eps
  let a := f32div mc.1 den.1
  (m1.1, v1.1, a.1, innerFlags [g.2, wg.2, m1.2, gg.2, wgg.2, v1.2, mc.2, vc.2, rt.2, den.2, a.2])

/-- w − eta × t. -/
def takeStep (k : Scalars) (w : W32) (t : Flagged W32) : Flagged W32 :=
  let e := f32mul k.eta t.1
  let r := f32sub w e.1
  (r.1, innerFlags [t.2, e.2, r.2])

/-- The new master of DIAG, and of a direction scaled by `s` (ROOT, DAMPED and STATELESS). -/
def stepDiag (k : Scalars) (w a : W32) : Flagged W32 := takeStep k w (f32fma k.wd w a)
def stepScaled (k : Scalars) (s w d : W32) : Flagged W32 :=
  let p := f32mul k.wd w
  let t := f32fma s d p.1
  takeStep k w (t.1, innerFlags [t.2, p.2])

/-- Moments as stored: FP32, or BF16 read exactly and written by RNE. -/
def momentRead (fmt16 : Bool) (code : W32) : W32 := if fmt16 then code <<< 16 else code
def momentWrite (fmt16 : Bool) (x : W32) : Flagged W32 :=
  if fmt16 then let r := bf16.encode .toInf (val x); (BitVec.ofNat 32 r.1, r.2 &&& 0x1D) else (x, 0)
def Mem.moments (m : Mem) (fmt16 : Bool) (a n : Nat) : List W32 :=
  (List.range n).map fun i => momentRead fmt16 (BitVec.ofNat 32 (m.readNat (a + (if fmt16 then 2 else 4) * i) (if fmt16 then 2 else 4)))

/-! ### The blocks of a shard -/

/-- A block with its place: plan, descriptor, shard. -/
structure Site where
  q     : Plan
  u     : Rec
  t     : Shard
  b     : Nat
  block : Block

def State.site? (s : State) (c i b : Nat) : Option Site :=
  match s.plan c, (s.ctx c).shards[i]? with
  | some q, some t =>
    if t.first ≤ b && b < t.first + t.count then (q.layer? t.layer t.expert).map fun u => ⟨q, u, t, b, Tab.get {} t.blocks b⟩ else none
  | _, _ => none

def State.setBlock (s : State) (c i b : Nat) (x : Block) : State :=
  s.onCtx c fun k => { k with shards := k.shards.modify i fun t => { t with blocks := Tab.put t.blocks b x } }

def Site.n (x : Site) : Nat := blockElems x.q.p.stats x.u x.b
def Site.bf16 (x : Site) : Bool := x.q.p.update.field 0 63 63 = 1
def Site.prec (x : Site) : Nat := x.q.p.update.field 0 61 60
def Site.stat? (x : Site) : Option (Nat × Rec) :=
  (x.q.p.stats.zipIdx.find? fun d => uLayer d.1 = uLayer x.u && uExpert d.1 = uExpert x.u).map fun d => (d.2, d.1)
def Site.stateless (x : Site) : Bool := uMode x.u = 3 || !x.t.momentValid

/-- Factor blocks of a parameter block: left, right (R124, R125). -/
def factorsOf (d : Rec) (b : Nat) : Nat × Nat := if sGrad d then (b, b) else (b / max 1 (sBlocks d 1), b % max 1 (sBlocks d 1))

/-- Original indices of a side's block: rows or columns of the block as stored are in rising original order, partition order is that of the
permutation (R123, R203; log entry 39). Answers, for each position, the stored row. -/
def Mem.gatherOrder (m : Mem) (d : Rec) (side pos : Nat) : List Nat :=
  let xs := (List.range (sBlockLen d side pos)).map fun k => permAt m d side (pos * sBlock d side + k)
  xs.map fun x => (xs.filter fun y => decide (y < x)).length

/-- A block's gradient as a matrix in partition order. -/
def gatherBlock (rows cols : List Nat) (g : List W32) : List (List W32) :=
  rows.map fun r => cols.map fun c => g.getD (r * cols.length + c) 0

/-- A matrix in partition order scattered back into storage order. -/
def scatterBlock (rows cols : List Nat) (m : List (List W32)) : List W32 :=
  (List.range rows.length).flatMap fun r => (List.range cols.length).map fun c =>
    (m.getD ((rows.idxOf? r).getD 0) []).getD ((cols.idxOf? c).getD 0) 0

/-! ### Conditions (R141, R145, R177, R200, R207) -/

/-- A refresh of the factor block scheduled in a step up to `k` is not yet complete (R24). -/
def State.rootPending (s : State) (c l side q k : Nat) : Bool :=
  ((s.ctx c).stats.schedule.any fun r => r.layer = l && r.side = side && r.block = q && decide (r.step ≤ k)) ||
  s.rtes.any fun e => (e.2.job.toList ++ e.2.publish ++ e.2.restart).any fun j => j.refreshes c l side q && decide (j.step ≤ k)

/-- The root buffer that the update of step `k` selects for a factor block, when it may leave DIAG mode: F(k − 1) is not poisoned and has
absorbed enough steps, and the root is of a refresh scheduled after the block's last reset (R143, R145, R177, R200). Where the parity buffer
holds a later generation already, as it may at a late update, the root itself shows that the block had left DIAG mode (log entry 112). -/
def State.rootFor (s : State) (c : Nat) (d : Rec) (l side q k : Nat) : Option Nat :=
  let h := s.mem.factorHead (factorAddr d side q ((k + 1) % 2))
  let r := Tab.get 0 (s.ctx c).stats.resets (blockKey l side q)
  if h.step + 1 = k && (h.poisoned || decide (h.absorbed < sWarmup d)) then none else
  ((s.mem.rootUpTo d side q (k - 1)).map fun x => rootAddr d side q x).filter fun a =>
    r = 0 || decide (k ≤ r) || decide (r < (s.mem.rootHead a).step)

/-- The rule fixed at the start of step `k`, with the selected roots (R200). -/
def State.ruleOf (s : State) (c : Nat) (x : Site) (k : Nat) : Rule × Nat × Nat :=
  if x.stateless then (.stateless, 0, 0) else
  if !uPre x.u then (.diag, 0, 0) else
  match x.stat? with
  | none => (.diag, 0, 0)
  | some (l, d) =>
    match s.rootFor c d l 0 (factorsOf d x.b).1 k, s.rootFor c d l 1 (factorsOf d x.b).2 k with
    | some a, some b => (if uMode x.u = 1 then .damped else .root, a, b)
    | _, _ => (.diag, 0, 0)

/-- The root that the update of step `k` selects for a factor block is settled: the refreshes of step k − 1 have been scheduled, none of a
step up to k − 1 is still to complete, and F(k − 1), whose count decides R145, is complete (R24 to R26; log entry 112). -/
def State.rootSettled (s : State) (c : Nat) (d : Rec) (l side q k : Nat) : Bool :=
  let h := s.mem.factorHead (factorAddr d side q ((k + 1) % 2))
  decide (k ≤ (s.ctx c).stats.scheduled + 1) && !s.rootPending c l side q (k - 1) && h.complete && decide (k ≤ h.step + 1)

/-- The roots and factors that the update of step `k` needs are ready. -/
def State.rootsReady (s : State) (c : Nat) (x : Site) (k : Nat) : Bool :=
  match x.stat? with
  | none => true
  | some (l, d) =>
    let f := factorsOf d x.b
    [(0, f.1), (1, f.2)].all fun y =>
      (!uPre x.u || x.stateless || s.rootSettled c d l y.1 y.2 k) &&
      (!sGrad d || ((s.ctx c).mayAbsorb l y.1 y.2 k && s.mem.factorDone (factorAddr d y.1 y.2 ((k + 1) % 2)) (k - 1)))

/-- Bytes of the undo allowance that other shards of the unit still hold (R194, R378). -/
def State.undoHeld (s : State) (c i die : Nat) (q : Plan) : Nat :=
  (s.ctx c).shards.zipIdx.foldl (fun n t =>
    if t.2 = i then n else
    match q.layer? t.1.layer t.1.expert with
    | some u => if q.dieOf u = die then t.1.blocks.foldl (fun n b => n + b.2.undo.length) n else n
    | none => n) 0

/-- The block may start its update for step `k`. -/
def State.mayStart (s : State) (c i : Nat) (x : Site) (k : Nat) : Bool :=
  let k' := (s.ctx c)
  (k'.state = .running || k'.state = .holding) && x.t.step + 1 = k && x.block.step + 1 = k && x.block.phase = .idle && !x.t.inCistern &&
    x.block.acked && !x.block.holdFix && !k'.folds.awaits x.q x.u x.b x.block.step && s.rootsReady c x k &&
    decide (s.undoHeld c i (x.q.dieOf x.u) x.q + x.q.shardBytes x.u (x.t.first, x.t.count) ≤ x.q.p.update.field 0 47 32 * 2 ^ 20)

/-! ### Direction (R203, R204) -/

/-- A published root at the preconditioning precision: `n` leading rows and columns. -/
def Mem.rootWords (m : Mem) (prec a b n : Nat) : List (List (Flagged W32)) :=
  let e := sext 8 (fieldOf (m.rootHead a).w3 31 24)
  (List.range n).map fun i => (m.words32 (matAddr a b i 0) n).map fun w => preOperand prec (kqVal e w.toInt)

def wordsOf (m : List (List (Flagged W32))) : List (List W32) := m.map fun r => r.map (·.1)
def flagsOf (m : List (List (Flagged W32))) : Nat := m.foldl (fun f r => r.foldl (fun f x => f ||| x.2) f) 0

/-- dsq: the sum of squares of each 128 × 256 tile of D, then of the tiles' records in tile order (R112, R115, R204). -/
def tileSquares (m : List (List W32)) (cols : Nat) : W32 :=
  let tiles := (List.range ((m.length + 127) / 128)).flatMap fun i => (List.range ((cols + 255) / 256)).map fun j =>
    ((m.drop (128 * i)).take 128).map fun r => (r.drop (256 * j)).take 256
  let recs := tiles.map fun t => (reduceTree 1 (t.foldl (fun (ls : List Partial) r => r.zipIdx.foldl (fun (ls : List Partial) x =>
    ls.modify (x.2 % 128) fun p => p.absorb 1 x.1) ls) emptyLanes)).words 1
  (reduceTree 1 (recs.zipIdx.foldl (fun (ls : List Partial) r => ls.modify (r.2 % 128) fun p => p.record 1 r.1) emptyLanes)).value 1

/-- A block's elements in storage order, by rows of `cols`. -/
def inRows (cols : Nat) (xs : List W32) : List (List W32) :=
  (List.range ((xs.length + cols - 1) / max 1 cols)).map fun r => (xs.drop (r * cols)).take cols

/-- Columns of a block of a layer in ROOT or DAMPED. -/
def Site.cols (x : Site) : Nat :=
  match x.stat? with
  | some (_, d) => sBlockLen d 1 (sPosition d 1 (factorsOf d x.b).2)
  | none => x.n

/-- D = L × G × R in storage order, with dsq and the flags of the products. -/
def Mem.direction (m : Mem) (x : Site) (d : Rec) (rootL rootR : Nat) (g : List (List W32)) (rows cols : List Nat) : List W32 × W32 × Nat :=
  let l := m.rootWords x.prec rootL (sBlock d 0) rows.length
  let r := m.rootWords x.prec rootR (sBlock d 1) cols.length
  let p := arrayProduct x.prec (wordsOf l) (transpose cols.length g)
  let p' := p.1.map fun row => row.map fun w => preOperand x.prec (val w)
  let e := arrayProduct x.prec (wordsOf p') (transpose cols.length (wordsOf r))
  (scatterBlock rows cols e.1, tileSquares e.1 cols.length, flagsOf l ||| flagsOf r ||| p.2 ||| flagsOf p' ||| e.2)

/-! ### The start of an update (R207 steps 1 to 3) -/

/-- Ranges that the array work of a block reads. -/
def Site.ranges (x : Site) (d : Rec) (k rootL rootR : Nat) : List (Nat × Nat) :=
  let f := factorsOf d x.b
  (if rootL = 0 then [] else [(rootL, sBuffer d 0), (rootR, sBuffer d 1)]) ++
  (if sGrad d then [(factorAddr d 0 f.1 ((k + 1) % 2), sBuffer d 0), (factorAddr d 1 f.2 ((k + 1) % 2), sBuffer d 1)] else []) ++
  (if sPerm d 0 = 0 then [] else [(sPerm d 0, 4 * sDim d 0)]) ++ if sPerm d 1 = 0 then [] else [(sPerm d 1, 4 * sDim d 1)]

/-- GRAD factors of a skipped block (R205). -/
def State.skipFactors (s : State) (x : Site) (k : Nat) : State :=
  match x.stat? with
  | some (_, d) => if sGrad d then (s.copyFactor d 0 (factorsOf d x.b).1 k 1).copyFactor d 1 (factorsOf d x.b).2 k 1 else s
  | none => s

/-- Passes of a block's array work: an output tile of 128 × 256 each, of the two products of R203 and, for a GRAD layer, of the two factor
products (R140, R207; log entry 111). -/
def arrayPasses (pre grad : Bool) (rows cols : Nat) : Nat :=
  let tiles := fun (m n : Nat) => (m + 127) / 128 * ((n + 255) / 256)
  (if pre then 2 * tiles rows cols else 0) + if grad then tiles rows rows + tiles cols cols else 0

/-- Ranges that a block's factor products write. -/
def Site.factorWrites (x : Site) (d : Rec) (k : Nat) : List (Nat × Nat) :=
  let f := factorsOf d x.b
  if sGrad d then [(factorAddr d 0 f.1 (k % 2), sBuffer d 0), (factorAddr d 1 f.2 (k % 2), sBuffer d 1)] else []

/-- Start the update of a block for step `k` with its gradient: its array work is posted on the arrays of its unit's die (R17, R207). -/
def State.startBlock (s : State) (c i : Nat) (x : Site) (k : Nat) (g : List W32) (late : Bool) : State :=
  let s := s.copyLabel c x.q x.u x.b x.block.step
  let r := s.ruleOf c x k
  let sn := snoop g
  let bad := g.any fun w => !f32finite w
  let blk : Block := { x.block with phase := .started, rule := r.1, late := late, gsq := sn.1, gmax := sn.2, rootL := r.2.1, rootR := r.2.2
                                    dir := [], dsq := 0, pflags := 0, sweep := none, posted := 0, feeding := 0 }
  match x.stat? with
  | none => s.setBlock c i x.b blk
  | some (l, d) =>
    if r.2.1 = 0 && !sGrad d then s.setBlock c i x.b blk else
    let rs := x.ranges d k r.2.1 r.2.2
    s.guarded c ⟨3, x.q.dieOf x.u⟩ ((s.checkReads c rs).orElse (s.checkWrites c (x.factorWrites d k))) fun s =>
      let s := s.noteReads rs
      if bad then (s.skipFactors x k).setBlock c i x.b blk else
      let f := factorsOf d x.b
      let pl := sPosition d 0 f.1
      let pr := sPosition d 1 f.2
      let rows := s.mem.gatherOrder d 0 pl
      let cols := s.mem.gatherOrder d 1 pr
      let gm := (gatherBlock rows cols g).map fun r => r.map fun w => preOperand x.prec (val w)
      let dir := if r.2.1 = 0 then ([], 0, 0) else s.mem.direction x d r.2.1 r.2.2 (wordsOf gm) rows cols
      let s := if sGrad d then
          (s.absorbGrad c (x.q.dieOf x.u) x.prec d l 0 f.1 k (wordsOf gm) cols.length).absorbGrad c (x.q.dieOf x.u) x.prec d l 1 f.2 k (wordsOf gm) cols.length
        else s
      s.setBlock c i x.b { blk with dir := dir.1, dsq := dir.2.1, pflags := dir.2.2 ||| flagsOf gm
                                    posted := arrayPasses (r.2.1 ≠ 0) (sGrad d) rows.length cols.length }

/-! ### The order of a unit's blocks (R208, R335) -/

/-- Place of a block in its context's order: step, stage-table order of the layer, block index. -/
def Site.place (x : Site) : Nat :=
  x.t.step * 2 ^ 64 + ((stageOrder x.q.p).findIdx fun u => uLayer u = uLayer x.u && uExpert u = uExpert x.u) * 2 ^ 32 + x.b

/-- Of a context's blocks on a die that satisfy a condition, the first in order: shard and block. -/
def State.firstBlock (s : State) (die c : Nat) (ok : Nat → Nat → Site → Bool) : Option (Nat × Nat) :=
  (((s.ctx c).shards.zipIdx.flatMap fun t => (List.range t.1.count).filterMap fun j =>
      (s.site? c t.2 (t.1.first + j)).bind fun x =>
        if x.q.dieOf x.u = die && ok c t.2 x then some (x.place, t.2, x.b) else none).foldl (fun (best : Option (Nat × Nat × Nat)) x =>
    match best with
    | none => some x
    | some y => if x.1 < y.1 then some x else some y) none).map (·.2)

/-- The block that a unit takes next: of the context that comes first by priority and round robin, the first in order. -/
def State.unitBlock (s : State) (die : Nat) (ok : Nat → Nat → Site → Bool) : Option (Nat × Nat × Nat) :=
  s.choose (s.fuu die).lastCtx (s.ctxs.filterMap fun e => (s.firstBlock die e.1 ok).map fun y => (e.1, y))

/-- The block's gradient of its next step has arrived whole, and its update may start. -/
def State.startReady (s : State) (c i : Nat) (x : Site) : Bool :=
  x.block.gradStep = x.t.step + 1 && x.block.landed = x.n && s.mayStart c i x (x.t.step + 1)

/-- BLOCK_UPDATE_START: the block's last segment has landed in the arrival buffer; the unit takes its blocks in order (R207,
R208). -/
def State.blockUpdateStart (s : State) (c i b : Nat) : State :=
  match s.site? c i b with
  | none => s
  | some x =>
    let k := x.t.step + 1
    if s.fuuRuns (x.q.dieOf x.u) && s.unitBlock (x.q.dieOf x.u) s.startReady = some (c, i, b) then
      s.startBlock c i x k ((List.range x.n).map fun j => Tab.get 0 x.block.grad j) false
    else s

def execBlockUpdateStart (ctx : Fin 64) (shard block : Nat) (s : State) : Host.Outcome State Fault Refusal :=
  .next (s.blockUpdateStart ctx.val shard block)

/-- A gradient's elements in order. -/
def gradList (n : Nat) (g : Tab W32) : List W32 := (List.range n).map fun j => Tab.get 0 g j

/-- LATE_UPDATE: a shard that has become resident starts its blocks whose late-buffer slot holds its next step (R215). -/
def State.lateUpdate (s : State) (c i : Nat) : State :=
  match (s.ctx c).shards[i]? with
  | none => s
  | some t =>
    (t.late.filter fun g => g.step = t.step + 1).foldl (fun s g =>
      match s.site? c i g.block with
      | none => s
      | some x => if s.fuuRuns (x.q.dieOf x.u) && g.grad.length = x.n && s.mayStart c i x g.step then s.startBlock c i x g.step (gradList x.n g.grad) true else s) s

def execLateUpdate (ctx : Fin 64) (shard : Nat) (s : State) : Host.Outcome State Fault Refusal := .next (s.lateUpdate ctx.val shard)

/-! ### The write sweep (R201 to R207) -/

/-- The block's gradient in the step it is updating. -/
def Site.gradient (x : Site) : List W32 :=
  if x.block.late then gradList x.n (((x.t.late.find? fun g => g.step = x.t.step + 1 && g.block = x.b).map (·.grad)).getD [])
  else gradList x.n x.block.grad

/-- Flags of a gradient's non-finite elements (R205). -/
def badGradient (g : List W32) : Nat :=
  g.foldl (fun f w => f ||| (if f32isNan w then fNan else if f32isInf w then fOvf else 0)) 0

/-- What the write sweep computes: the update of the block, or its skip. -/
def Mem.sweepBlock (m : Mem) (x : Site) (k : Nat) : SweepResult :=
  let n := x.n
  let g := x.gradient
  let fmt := x.bf16
  let ws := m.words32 (x.q.masterAt x.u x.b) n
  let stateless := decide (x.block.rule = .stateless)
  let ms := if stateless then [] else m.moments fmt (x.q.momentAt x.u x.b 0) n
  let vs := if stateless then [] else m.moments fmt (x.q.momentAt x.u x.b 1) n
  let sc := scalars m x.q.p.update x.u x.t k x.block.gsq stateless
  let bad := badGradient g
  let pre := decide (x.block.rule = .root) || decide (x.block.rule = .damped)
  let ad := if stateless then [] else ((ms.zip vs).zip g).map fun e => adam sc e.1.1 e.1.2 e.2
  let fallback := pre && (f32isZero x.block.dsq || !f32finite x.block.dsq)
  let asq := tileSquares (inRows x.cols (ad.map fun a => a.2.2.1)) x.cols
  let ra := f32sqrt asq
  let rd := f32sqrt x.block.dsq
  let graft := f32div ra.1 rd.1
  let rn := f32sqrt (f32ofNat n)
  let rg := f32sqrt x.block.gsq
  let rq := f32div rn.1 rg.1
  let r := if f32isZero x.block.gsq then 0 else rq.1
  let new : List (Flagged W32) :=
    if stateless then (ws.zip g).map fun e => stepScaled sc r e.1 e.2
    else if pre && !fallback then (ws.zip x.block.dir).map fun e => stepScaled sc graft.1 e.1 e.2
    else (ws.zip ad).map fun e => stepDiag sc e.1 e.2.2.2.1
  let mw := ad.map fun a => momentWrite fmt a.1
  let vw := ad.map fun a => momentWrite fmt a.2.1
  let finite := fun (w : W32) => f32finite (momentRead fmt w)
  let bad' := fun (i : Nat) => !f32finite (new.getD i (0, 0)).1 || !finite (mw.getD i (0, 0)).1 || !finite (vw.getD i (0, 0)).1
  let broken := (List.range n).any bad'
  -- an element that breaks from finite inputs raises OVF and INV as its operations and the block's scalars do (R205)
  let whole := fun (i : Nat) => f32finite (ws.getD i 0) && f32finite (g.getD i 0) && f32finite (ms.getD i 0) && f32finite (vs.getD i 0)
  let scal := sc.flags ||| (if stateless then (if f32isZero x.block.gsq then 0 else innerFlags [rn.2, rg.2, rq.2]) else 0) |||
    (if pre && !fallback then innerFlags [ra.2, rd.2, graft.2] else 0)
  let cause := ((List.range n).foldl (fun f i => if bad' i && whole i then
      f ||| scal ||| (ad.getD i (0, 0, 0, 0)).2.2.2 ||| innerFlags [(new.getD i (0, 0)).2, (mw.getD i (0, 0)).2, (vw.getD i (0, 0)).2]
    else f) 0) &&& (fOvf ||| fInv)
  let skip := bad ≠ 0 || broken
  let fl := scal ||| x.block.pflags ||| ad.foldl (fun f a => f ||| a.2.2.2) 0 ||| innerFlags ((new ++ mw ++ vw).map (·.2)) |||
    (if (ws ++ ms ++ vs).any f32isNan then fNan else 0)
  let out := if skip then ws else new.map (·.1)
  let wc := workingCopy x.q.p.update out
  let us := (out.zip ws).map fun e => (f32sub e.1 e.2).1
  { master := out, m := if skip then [] else mw.map (·.1), v := if skip then [] else vw.map (·.1), copy := wc.1, skipped := skip
    clipped := sc.clipped, fallback := fallback
    wSq := (laneReduce 1 out).value 1, wMax := (laneReduce 2 (out.map f32abs)).value 2
    uSq := (laneReduce 1 us).value 1, uMax := (laneReduce 2 (us.map f32abs)).value 2
    graft := if pre && !fallback && bad = 0 then some graft.1 else none
    flags := (if skip then bad ||| cause else fl) ||| wc.2 }

/-- A gather that reads the layer's working copies is in progress (R215). -/
def State.gathering (s : State) (c : Nat) (u : Rec) : Bool :=
  s.fabric.colls.any fun k => k.ctx = c && k.op = 1 && (s.mem.tensor k.src).base = uWc u

/-- The write sweep of the block may start: its array work is done, and a late one waits for the gathers of its layer (R207, R215). -/
def State.sweepReady (s : State) (c : Nat) (x : Site) : Bool :=
  x.block.phase = .started && x.block.posted = 0 && x.block.feeding = 0 && !(x.block.late && s.gathering c x.u) &&
    ((s.ctx c).state = .running || (s.ctx c).state = .holding)

/-- Ranges that a block's sweeps read: the moment sweep of ROOT and DAMPED reads the moments too (R207). -/
def Site.sweepReads (x : Site) (k : Nat) : List (Nat × Nat) :=
  x.q.stateSpans x.u x.b ++ (if x.block.rule = .root || x.block.rule = .damped then (x.q.stateSpans x.u x.b).drop 1 else []) ++
    match etaAddr x.q.p.update k with | some a => [(a, 4)] | none => []

/-- WRITE_SWEEP_START: the unit runs one sweep at a time and takes its blocks in order (R208); ROOT and DAMPED blocks have had a moment sweep
before it (R220). -/
def State.writeSweepStart (s : State) (c i b : Nat) : State :=
  match s.site? c i b with
  | none => s
  | some x =>
    let die := x.q.dieOf x.u
    let k := x.t.step + 1
    if s.fuuRuns die && (s.fuu die).sweep.isNone && s.unitBlock die (fun c _ x => s.sweepReady c x) = some (c, i, b) then
      let rs := x.sweepReads k
      s.guarded c ⟨3, die⟩ ((s.checkReads c rs).orElse (s.checkWrite c (x.q.wcAt x.u b (k + 1)) (wcBytes x.q.p.update * x.n))) fun s =>
        let s := (s.noteReads rs).countSweeps die (if x.block.rule = .root || x.block.rule = .damped then 2 else 1) x.n
        (s.setBlock c i b { x.block with phase := .swept, sweep := some (s.mem.sweepBlock x k) }).setFuu die
          { s.fuu die with sweep := some (c, i, b), lastCtx := c }
    else s

def execWriteSweepStart (ctx : Fin 64) (shard block : Nat) (s : State) : Host.Outcome State Fault Refusal :=
  .next (s.writeSweepStart ctx.val shard block)

/-! ### Layer close (R207 step 8, R216 to R218) -/

def layerKey (layer step : Nat) : Nat := layer * 2 ^ 48 + step

def ruleBit : Rule → Nat
  | .root => 8 | .damped => 4 | .diag => 2 | .stateless => 1

/-- Gather a committed block's telemetry. -/
def Ctx.noteBlock (c : Ctx) (t : Shard) (b step n : Nat) (r : SweepResult) (gsq gmax : W32) (rule : Rule) : Ctx :=
  { c with layerAcc := Tab.modify {} c.layerAcc (layerKey t.layer step) fun a =>
    { a with
      step := step, rules := a.rules ||| ruleBit (if r.fallback then .diag else rule), skipped := a.skipped + bit01 r.skipped
      clipped := a.clipped || r.clipped, fallback := a.fallback || r.fallback, elems := a.elems + n
      parts := Tab.put a.parts (t.expert * 2 ^ 32 + b) ([r.wSq, r.wMax, gsq, gmax, r.uSq, r.uMax] ++ r.graft.toList) } }

/-- The layer's entry in the Layer Norm Table from its blocks' partials (R217, R218). -/
def lntEntry (c layer lag : Nat) (a : LayerAcc) (seq : Nat) : Rec :=
  let comb := fun i (mx : Bool) => match a.parts.map fun p => p.2.getD i 0 with
    | [] => 0
    | x :: r => r.foldl (fun t y => (if mx then (f32max t y).1 else (f32add t y).1)) x
  let pair := fun (x y : W32) => BitVec.ofNat 64 (x.toNat * 2 ^ 32 + y.toNat)
  -- the graft scales that were formed
  let gs := a.parts.filterMap fun p => p.2[6]?
  let gmin := match gs with | [] => 0 | x :: r => r.foldl (fun t y => if f32lt y t then y else t) x
  let gmax := gs.foldl (fun t y => if f32lt t y then y else t) 0
  [BitVec.ofNat 64 a.step,
   BitVec.ofNat 64 (layer * 2 ^ 50 + c * 2 ^ 44 + a.rules * 2 ^ 40 + min lag 15 * 2 ^ 36 + bit01 (decide (0 < a.skipped)) * 2 ^ 35 +
     bit01 a.clipped * 2 ^ 34 + bit01 a.fallback * 2 ^ 33 + a.skipped % 2 ^ 32),
   pair (comb 0 false) (comb 1 true), pair (comb 2 false) (comb 3 true), pair (comb 4 false) (comb 5 true), pair gmin gmax,
   BitVec.ofNat 64 a.elems, BitVec.ofNat 64 (seq % 2 ^ 32 * 2 ^ 32)]

/-- Raise the layer's update-complete fence on every member of the D-shard group (R21, R347; log entry 36). -/
def State.signalLayer (s : State) (c layer : Nat) : State :=
  let f := (Config.layerFence layer).toNat
  let s := if s.holds c f then s.signal f 1 else s
  match (s.ctx c).program with
  | none => s
  | some p =>
    let me := s.fabric.position.toNat
    (((List.range (layoutH p.layout)).map fun k => s.cutMember p.layout (0, false) k).filter fun x => x ≠ me).foldl (fun s dst =>
      s.sendMessage c dst clsData 0x04 3 none [(BitVec.ofNat 64 (2 ^ 63 + f * 2 ^ 49), [])]) s

/-- The layer's fence for its next step is due: every shard has completed it, or holds its gradient late (R216). -/
def State.tryFence (fuel : Nat) (s : State) (c layer : Nat) : State :=
  match fuel with
  | 0 => s
  | f + 1 =>
    let x := s.ctx c
    let k := Tab.get 0 x.signalled layer + 1
    let ts := x.shards.filter fun t => t.layer = layer
    let whole := fun (t : Shard) (b : Nat) => t.late.any (fun g => g.step = k && g.block = b &&
      (s.plan c).any (fun q => (q.layer? t.layer t.expert).any (fun u => decide (blockElems q.p.stats u b ≤ g.grad.length))))
    let ready := fun (t : Shard) => decide (k ≤ t.step) || ((t.inCistern || decide (0 < t.late.length)) &&
      (List.range t.count).all (fun i => whole t (t.first + i)))
    if !ts.isEmpty && ts.all ready then
      State.tryFence f ((s.onCtx c fun x => { x with signalled := Tab.put x.signalled layer k }).signalLayer c layer) c layer
    else s

/-- Close the layer for step `k` once every shard of it has completed the step. -/
def State.closeLayer (s : State) (c layer k : Nat) : State :=
  let x := s.ctx c
  let ts := x.shards.filter fun t => t.layer = layer
  let s := if ts.all fun t => decide (k ≤ t.step) then
      match Tab.find? x.layerAcc (layerKey layer k) with
      | none => s
      | some a =>
        let lag := ts.foldl (fun m t => max m (x.step.toNat - t.step)) 0
        let e := lntEntry c layer lag a (Rec.field (Tab.get [] s.lnt layer) 7 63 32 + 1)
        ({ s with lnt := Tab.put s.lnt layer e }).onCtx c fun x => { x with layerAcc := Tab.drop x.layerAcc (layerKey layer k) }
    else s
  s.tryFence 16 c layer

/-- Complete the shard's step once every block has it: the shard record's fields and the undo area (R195, R201, R207). -/
def State.closeShard (s : State) (c i : Nat) : State :=
  match (s.ctx c).shards[i]?, s.plan c with
  | some t, some q =>
    let k := t.step + 1
    if !((List.range t.count).all fun j => decide (k ≤ (Tab.get {} t.blocks (t.first + j)).step)) then s else
    let stateless := !t.momentValid || (q.layer? t.layer t.expert).any fun u => uMode u = 3
    let pow := fun (p : W32) (b : W32) => if stateless then p else (f32mul p b).1
    let close := fun (t : Shard) => match q.layer? t.layer t.expert with
      | none => { t with step := k }
      | some u =>
        { t with
          step := k
          b1pow := pow t.b1pow (uBeta1 u)
          b2pow := pow t.b2pow (uBeta2 u)
          age := if stateless || t.age = 0xFFFFFFFF then t.age else t.age + 1
          blocks := Tab.mapAll t.blocks fun _ b => if b.acked then { b with undo := [] } else b }
    let s := s.onCtx c fun x => { x with shards := x.shards.modify i close }
    s.closeLayer c t.layer k
  | _, _ => s

/-! ### Commit (R207 steps 6 and 7) -/

/-- Write a swept block's results and count them. -/
def State.commitBlock (s : State) (c i : Nat) (x : Site) (r : SweepResult) : State :=
  let k := x.t.step + 1
  let spans := x.q.stateSpans x.u x.b
  let wcA := x.q.wcAt x.u x.b (k + 1)
  let all := spans ++ [(wcA, wcBytes x.q.p.update * x.n)]
  let old := s.mem.readSpans all
  let mb := momentBytes x.q.p.update
  let newState := (r.master.flatMap fun w => le 4 w.toNat) ++ (if uMode x.u = 3 then [] else
    if r.m.isEmpty then (s.mem.readSpans (spans.drop 1)) else (r.m.flatMap fun w => le mb w.toNat) ++ r.v.flatMap fun w => le mb w.toNat)
  let m := (if r.skipped then s.mem else s.mem.writeSpans spans 0 newState).write wcA r.copy
  let oldState := old.take newState.length
  let s := ({ s with mem := m }).foldChange c x.q x.u x.b oldState newState
  let s := if r.skipped then s.skipFactors x k else s
  let s := s.flagEvent c r.flags (blockSite x.q x.u x.b)
  let s := if r.clipped then s.countCtx c cClipped 1 else s
  let s := if r.skipped then s.countCtx c cSkipped 1 else s
  let s := if r.fallback then s.countCtx c cGraftFallbacks 1 else s
  let s := if x.block.rule = .stateless then s.countCtx c cStateless 1 else s
  let s := if x.block.late then s.countCtx c cLateUpdates 1 else s
  -- a block that a purge took back has its message of the step sent already
  let parity := x.q.p.parityOn.isSome && decide (x.block.parityStep < k)
  let blk : Block := { x.block with step := k, phase := .idle, grad := [], landed := 0, late := false, dir := [], rootL := 0, rootR := 0, sweep := none
                                    undo := old, acked := !parity, parityStep := if parity then k else x.block.parityStep }
  let blk := if x.block.late then { blk with grad := x.block.grad, landed := x.block.landed, gradStep := x.block.gradStep } else blk
  let s := s.setBlock c i x.b blk
  let s := s.onCtx c fun y => (y.noteBlock x.t x.b k x.n r x.block.gsq x.block.gmax x.block.rule)
  let s := if x.block.late then
      s.onCtx c fun y => { y with shards := y.shards.modify i fun t => { t with late := t.late.filter fun g => !(g.step = k && g.block = x.b) } }
    else s
  if parity then
    -- Δ covers the state and both working copies; a block's first message carries its whole state (R378)
    let wcN := wcBytes x.q.p.update * x.n
    let dState := if x.block.parityStep = 0 then newState else xorBytes oldState newState
    let now := fun (gen : Nat) => s.mem.read (x.q.wcAt x.u x.b gen) wcN
    let dNew := if x.block.parityStep = 0 then now (k + 1) else xorBytes (old.drop newState.length) (now (k + 1))
    let dOld := if x.block.parityStep = 0 then now k else List.replicate wcN 0
    s.sendParity c x.q x.u x.b k (dState ++ (if (k + 1) % 2 = 0 then dNew ++ dOld else dOld ++ dNew))
  else s

/-- BLOCK_COMMIT. -/
def State.blockCommit (s : State) (c i b : Nat) : State :=
  match s.site? c i b with
  | none => s
  | some x =>
    let die := x.q.dieOf x.u
    match x.block.sweep with
    | none => s
    | some r =>
      if s.fuuRuns die && x.block.phase = .swept && (s.fuu die).sweep = some (c, i, b) && ((s.ctx c).state = .running || (s.ctx c).state = .holding) then
        ((s.setFuu die { s.fuu die with sweep := none }).commitBlock c i x r).closeShard c i
      else s

def execBlockCommit (ctx : Fin 64) (shard block : Nat) (s : State) : Host.Outcome State Fault Refusal :=
  .next (s.blockCommit ctx.val shard block)

/-! ### Arrival (R206, R210, R214, R384) -/

/-- A segment of the reduced gradient of step `k` reaches element `e` of a block: into the arrival buffer, or, for a Cistern shard or one
with late updates before it, into its late-buffer slot; firmware posts a fetch for a shard whose gradient comes before its state (R213). An AHEAD
block discards it. -/
def State.landGradient (s : State) (c i b k e : Nat) (xs : List W32) : State :=
  match s.site? c i b with
  | none => s
  | some x =>
    let late := x.t.inCistern || decide (0 < x.t.late.length)
    if x.block.ahead && decide (k ≤ x.block.step) then
      if e + xs.length = x.n then ((s.countCtx9 c 6 1).closeShard c i).tryFence 16 c x.t.layer else s
    else if late then
      let old := ((x.t.late.find? fun g => g.step = k && g.block = b).map (·.grad)).getD []
      let new := xs.zipIdx.foldl (fun t w => Tab.put t (e + w.2) w.1) old
      let s := s.onCtx c fun y => { y with shards := y.shards.modify i fun t =>
        { t with late := (t.late.filter fun g => !(g.step = k && g.block = b)) ++ [{ step := k, block := b, grad := new }] } }
      let s := (s.countCtx c cLateBytes (4 * xs.length)).tryFence 16 c x.t.layer
      if s.firmware && (s.ctx c).fetchable i then s.postFetch c i else s
    else
      let g := xs.zipIdx.foldl (fun t w => Tab.put t (e + w.2) w.1) (if x.block.gradStep = k then x.block.grad else [])
      s.setBlock c i b { x.block with gradStep := k, grad := g, landed := g.length }

/-- The block takes a segment of step `k` into a late-buffer slot, or discards it: the arrival buffer is not used. -/
def Shard.landsLate (t : Shard) (b k : Nat) : Bool :=
  ((Tab.get {} t.blocks b).ahead && decide (k ≤ (Tab.get {} t.blocks b).step)) || t.inCistern || decide (0 < t.late.length)

/-- The shard can take a segment of step `k` for a block: its gradient of an earlier step has been consumed, or it has a free late-buffer slot
(R20, R214). -/
def Shard.canLand (t : Shard) (b k : Nat) : Bool :=
  let x := Tab.get {} t.blocks b
  if x.ahead && decide (k ≤ x.step) then true
  else if t.inCistern || decide (0 < t.late.length) then
    t.late.any (fun g => g.step = k) || decide ((t.late.map (·.step)).eraseDups.length < t.lateSlots)
  else x.landed = 0 || x.gradStep = k

/-- Bytes of the arrival buffer that a program has on a die: its largest owned shard gradient there (R210). -/
def Plan.arrivalBytes (q : Plan) (die : Nat) : Nat := (((q.dieNeeds die).find? fun n => n.1 = 4).map (·.2.2)).getD 0

/-- Bytes of a die's arrival buffer that the context's blocks hold. A block holds its whole gradient from its first segment to its commit. -/
def State.arrivalUsed (s : State) (c : Nat) (q : Plan) (die : Nat) : Nat :=
  (s.ctx c).shards.foldl (fun n t =>
    match q.layer? t.layer t.expert with
    | some u => if q.dieOf u = die then t.blocks.foldl (fun n b => if 0 < b.2.landed then n + 4 * blockElems q.p.stats u b.1 else n) n else n
    | none => n) 0

/-- The arrival buffer has room for the blocks, by shard and block, of a layer that have no segment in it yet (R210). -/
def State.arrivalRoom (s : State) (c k : Nat) (q : Plan) (u : Rec) (bs : List (Nat × Nat)) : Bool :=
  let new := bs.filter fun b => ((s.ctx c).shards[b.1]?).any fun t => !t.landsLate b.2 k && (Tab.get {} t.blocks b.2).landed = 0
  let n := new.foldl (fun n b => n + 4 * blockElems q.p.stats u b.2) 0
  n = 0 || decide (s.arrivalUsed c q (q.dieOf u) + n ≤ max n (q.arrivalBytes (q.dieOf u)))

end Sys2Proof.Machine
end

