-- ==== Sys2Proof/Machine/Fabric.lean ====
section
/-!
DEFINITION. Receiving over the fabric: the checks of a frame at its port (R250 to R257, R286), forwarding (R264, R265), receive streams
(R261 to R263), and the frames that carry data (R255): WRITE, READ_REQ, READ_RESP, SIGNAL, DISPATCH, DELTA, PARITY, and the end-to-end
acknowledgements.
-/
namespace Sys2Proof.Machine

open Sys2Proof

/-! ### The port -/

def portRegs (p : Nat) : Nat := 0x200000010100 + 0x100 * p
def unitPort (p : Nat) : EventUnit := ⟨6, p⟩

/-- HDR_ERR and MISROUTE of a port (R284); they stick (R421). -/
def State.hdrErr (s : State) (p : Nat) : State :=
  let n := (s.port p).hdrErr
  (s.onPort p fun x => { x with hdrErr := stick n }).stuck n (portRegs p + 0x0C) 0
def State.misroute (s : State) (p : Nat) : State :=
  let n := (s.port p).misroute
  (s.onPort p fun x => { x with misroute := stick n }).stuck n (portRegs p + 0x10) 0

/-- Send a link frame; it carries HOP_ACK (R255). -/
def State.sendLink (s : State) (p : Nat) (op : Byte) (arg : W64) (payload : List Byte) : State :=
  (s.onPort p fun x => { x with ackOwed := false }).emit (.link (BitVec.ofNat 5 p).toFin (s.ethHdr p) op (s.port p).hopRx arg payload)

/-- HOP_ACK names the next sequence expected: the frames before it leave the replay buffer (R256, R257). -/
def State.hopAcked (s : State) (p : Nat) (ack : W16) : State :=
  let x := s.port p
  let r := x.replay.dropWhile fun g => decide (1 ≤ (ack - g.hopSeq).toNat) && decide ((ack - g.hopSeq).toNat ≤ 2 ^ 15)
  (s.setPort p { x with replay := r, fails := if r.length < x.replay.length then 0 else x.fails }).pumpOut p

/-- Credit units of a received frame of `n` payload bytes (R258). -/
def rxUnits (n : Nat) : Nat := (max 64 (50 + n) + 63) / 64

/-- A frame whose FCS holds, of `n` payload bytes, at its port: EtherType, address and version, the acknowledgement it carries, and its
place in HOP_SEQ order; a gap is answered with HOP_NAK (R251, R252, R254, R256). In SLEEP a port takes link frames only (R416). -/
def State.hopReceive (s : State) (f : FrameHdr) (n : Nat) (take : State → State) : State :=
  let p := f.port.val
  if (s.port p).state ≠ .up || !s.carriesFrames then s else
  if f.etype ≠ s.fabric.etype then s.countPort p 8 1 else
  if f.dstMac ≠ s.portMac p then s.misroute p else
  if f.ver ≠ 1 then s.hdrErr p else
  let s := s.hopAcked p f.hopAck
  let x := s.port p
  if f.hopSeq = x.hopRx then
    take (((s.setPort p { x with hopRx := x.hopRx + 1, nakOut := false, ackOwed := true }).countPort p 1 1).countPort p 3 n)
  else if (x.hopRx - f.hopSeq).toNat ≤ 2 ^ 15 then s.onPort p fun x => { x with ackOwed := true }
  else if x.nakOut then s
  else (s.onPort p fun x => { x with nakOut := true }).sendLink p 0x30 (x.hopRx.setWidth 64) []

/-- A link frame at its port: it has no sequence and is consumed there (R255). -/
def State.linkReceive (s : State) (f : FrameHdr) (states : List PortState) (take : State → State) : State :=
  let p := f.port.val
  if !states.contains (s.port p).state then s else
  if f.etype ≠ s.fabric.etype then s.countPort p 8 1 else
  if f.dstMac ≠ s.portMac p then s.misroute p else
  if f.ver ≠ 1 || f.reserved then s.hdrErr p else
  take (s.hopAcked p f.hopAck)

/-! ### Acknowledgements (R262) -/

/-- An end-to-end acknowledgement names the next sequence expected: earlier frames are released, transfers whose last frame they hold
are done (R343), and waiting frames follow. -/
def State.e2eAcked (s : State) (cls src : Nat) (ack : BitVec 24) : State :=
  let x := s.txStream cls src
  let before := fun (q : BitVec 24) => decide (1 ≤ (ack - q).toNat) && decide ((ack - q).toNat ≤ 2 ^ 23)
  let done := x.tasks.filter fun t => before t.1
  let s := s.setTx cls src { x with unacked := x.unacked.filter (fun g => !before g.seq), tasks := x.tasks.filter fun t => !before t.1 }
  (done.foldl (fun s t => s.onTask t.2.1 t.2.2.1 t.2.2.2 fun r => { r with finished := true }) s).inject cls src

/-- Acknowledge a stream to its source. -/
def State.ackStream (s : State) (cls src : Nat) : State :=
  s.sendControl src 0x20 3 0 (some (cls, (Tab.get {} s.fabric.rx (streamId cls src)).expected))

/-! ### Forwarding (R264, R265, R281, R286) -/

/-- Pass a frame on. It holds its space in the buffer it arrived in until it is sent on; one that no working port can carry waits (R259,
R281). -/
def State.transit (s : State) (f : FrameHdr) (op : Byte) (payload : List Byte) : State :=
  let p := f.port.val
  let units := rxUnits payload.length
  let inside := s.layout?.any fun l => decide (f.dst.toNat < layoutProduct l)
  if !inside then
    ((s.freeUnitsAt p f.vc.toNat units).misroute p).raise 0x16 none (unitPort p) (BitVec.ofNat 64 (f.src.toNat * 2 ^ 16 + f.dst.toNat)) 0 else
  s.route { frame := {
    op := op, tc := f.tc, dst := f.dst, src := f.src, vc := f.vc, first := f.first, last := f.last, seq := f.seq
    context := BitVec.ofNat 8 f.context.val, stripe := f.stripe, arg := f.arg, hopSeq := 0, payload := payload, age := f.age, ackv := f.ackv
    ackClass := f.ackClass, ackSeq := f.ackSeq, inPort := p, held := some (f.vc.toNat, units) } }

/-! ### Messages handled whole -/

/-- A FACTOR_BLOCK record (R127, R153 to R155): held until the absorption of its step consumes it. -/
def State.takeFactorBlock (s : State) (c src : Nat) (d : Delta) : Option State :=
  let p := (s.ctx c).program
  let hits := (p.map fun p => (p.stats.zipIdx.flatMap fun x => [0, 1].flatMap fun side =>
    (List.range (sFactors x.1 side)).filterMap fun q =>
      if !sGrad x.1 && tagOf s.mem x.1 side q = d.tag then some (x.1, x.2, side, q) else none)).getD []
  match hits with
  | [] => none
  | (x, l, side, q) :: _ =>
    let b := sBlock x side
    if !d.good || d.add || d.hnd ≠ 0 || d.gen ≠ 0 || d.count ≠ b * (b + 1) / 2 || d.bytes ≠ 4 * d.count ||
        decide (d.step ≤ (s.ctx c).absorbedStep l side q) then none else
    some (s.onCtx c fun y => { y with stats := { y.stats with
      peers := y.stats.peers ++ [{ member := src, step := d.step, tag := d.tag, rows := d.rows
                                   sums := (List.range d.count).map fun i => BitVec.ofNat 32 (leNat (slice d.body (4 * i) 4)) }] } })

/-- A delta record that has arrived whole is applied, or discarded and counted (R154, R156). -/
def State.deltaMessage (s : State) (c src : Nat) (bs : List Byte) : State :=
  let r := match parseDelta bs with
    | none => none
    | some d =>
      if bs.length ≠ 64 + d.bytes then none
      else if d.kind = 3 then s.takeFactorBlock c src d
      else match s.struct? c (BitVec.ofNat 16 d.hnd) with
        | none => none
        | some r => (feedDeltas [d] d.hnd s.mem r).map fun (x : Mem × RsStruct) => ({ s with mem := x.1 }).setStruct d.hnd x.2
  r.getD (s.countCtx c cDeltaRefused 1)

/-- Apply a whole parity message to its slot and write MSG to the sender's acknowledgement word (R379). -/
def State.parityMessage (s : State) (c src : Nat) (bs : List Byte) : State :=
  match (s.ctx c).program with
  | none => s
  | some p =>
    match p.parityOn with
    | none => s
    | some r =>
      let b := leNat (bs.take 4)
      let step := leNat (slice bs 4 8)
      let n := leNat (slice bs 12 4)
      let msg := slice bs 16 4
      let slot := b / max 1 (pgSize r - 1)
      let base := r.field 1 47 0
      let at' := base + slot * pgSlot r
      if bs.length ≠ 64 + n then s else
      if r.field 2 47 0 < (slot + 1) * pgSlot r || pgSlot r < n then
        (s.raise 0x17 (some c) unitModule (BitVec.ofNat 64 at') (BitVec.ofNat 32 src)).purge c s.faults.nextSeq
      else
        -- a message that comes again is acknowledged again and applied once
        let s := if (Tab.find? s.fabric.pmsgs (c * 2 ^ 15 + src)).any fun (m : W32) => decide ((m - BitVec.ofNat 32 (leNat msg)).toNat < 2 ^ 31) then s else
          let s := s.write at' (xorBytes (s.mem.read at' n) (bs.drop 64))
          ({ s with fabric := { s.fabric with psteps := Tab.put s.fabric.psteps (c * 2 ^ 47 + src * 2 ^ 32 + b) step,
                                              pmsgs := Tab.put s.fabric.pmsgs (c * 2 ^ 15 + src) (BitVec.ofNat 32 (leNat msg)) } }).countCtx9 c 4 1
        let me := pgMember p.layout r s.fabric.position.toNat
        s.sendMessage c src clsData 0x01 0 none [(BitVec.ofNat 64 (base + Config.parityAck me), msg)]

/-- An acknowledgement word written by a holder: its messages up to MSG are applied (R378). -/
def State.parityAcked (s : State) (c h : Nat) (msg : W32) : State :=
  match s.plan c with
  | none => s
  | some q =>
    match q.p.parityOn with
    | none => s
    | some r =>
      let o := Tab.get {} (s.ctx c).parityOut h
      let applied := fun (m : W32) => decide ((msg - m).toNat < 2 ^ 31)
      let nos := (o.sent.filter fun x => applied x.1).map (·.2.1)
      let still := ((o.sent.filter fun x => !applied x.1).map (·.2.1)) ++ o.wait.map (·.1)
      let s := s.onCtx c fun x => { x with parityOut := Tab.put x.parityOut h { o with sent := o.sent.filter fun x => !applied x.1 } }
      State.pumpParity 3 (s.ackBlocks c q (nos.filter fun no => !still.contains no)) c q.p.layout r h

/-- A WRITE that covers the acknowledgement word of a holder. -/
def State.noteParityAck (s : State) (c a n : Nat) : State :=
  match (s.ctx c).program.bind Program.parityOn with
  | none => s
  | some r => (List.range (pgSize r)).foldl (fun s h =>
      let w := r.field 1 47 0 + Config.parityAck h
      if decide (a ≤ w) && decide (w + 4 ≤ a + n) then s.parityAcked c h (s.mem.word32 w) else s) s

/-! ### Receive streams (R261, R263) -/

def State.rxStream (s : State) (cls src : Nat) : RxStream := Tab.get {} s.fabric.rx (streamId cls src)
def State.setRx (s : State) (cls src : Nat) (x : RxStream) : State :=
  { s with fabric := { s.fabric with rx := Tab.put s.fabric.rx (streamId cls src) x } }

/-- Bytes of a message placed at their offset (R263). -/
def putBytes (t : Tab Byte) (off : Nat) (bs : List Byte) : Tab Byte := bs.zipIdx.foldl (fun t x => Tab.put t (off + x.2) x.1) t

/-- The message from its lowest offset on; a byte that no frame carried is 0. -/
def gathered (t : Tab Byte) : List Byte :=
  match t, t.getLast? with
  | (a, _) :: _, some (b, _) => (List.range (b + 1 - a)).map fun i => Tab.get 0 t (a + i)
  | _, _ => []

/-- An owner's signal of a layer's update-complete fence completes the layer's next step there (R21). -/
def Ctx.noteOwner (x : Ctx) (src f : Nat) : Ctx :=
  let ls := ((x.program.elim [] fun p => p.layers.map uLayer).eraseDups).filter fun l => (Config.layerFence l).toNat = f
  { x with ownerDone := ls.foldl (fun t l => Tab.modify 0 t (l * 2 ^ 15 + src) (· + 1)) x.ownerDone }

/-- Raise the fences of a message whose last frame has been taken. -/
def State.endMessage (s : State) (cls src : Nat) : State :=
  let x := s.rxStream cls src
  x.fences.foldl (fun s f => if s.holds f.1 f.2 then (s.onCtx f.1 fun y => y.noteOwner src f.2).signal f.2 1 else s) (s.setRx cls src { x with fences := [] })

/-- Take the item of a frame that is next in its stream. -/
def State.takeItem (s : State) (cls src : Nat) (i : RxItem) : State :=
  match i with
  | .plain last => if last then s.endMessage cls src else s
  | .fence c f last =>
    let x := s.rxStream cls src
    let s := s.setRx cls src { x with fences := x.fences ++ [(c, f)] }
    if last then s.endMessage cls src else s
  | .part op c first last off data =>
    let x := s.rxStream cls src
    let acc := putBytes (if first then [] else x.acc) off data
    if !last then s.setRx cls src { x with acc := acc } else
    let s := (s.setRx cls src { x with acc := [] }).endMessage cls src
    if op = 0x06 then s.deltaMessage c src (gathered acc) else s.parityMessage c src (gathered acc)

/-- Advance a stream over the frames that have arrived. -/
def State.advanceRx (fuel : Nat) (s : State) (cls src : Nat) : State :=
  match fuel with
  | 0 => s
  | k + 1 =>
    let x := s.rxStream cls src
    if !x.got.contains x.expected then s else
    let e := x.expected
    let s := s.setRx cls src { x with expected := e + 1, got := x.got.erase e, later := x.later.filter fun y => y.1 ≠ e }
    State.advanceRx k (match x.later.lookup e with | some i => s.takeItem cls src i | none => s) cls src

/-- The context takes frames: it has a loaded program and is not purged (R286). -/
def Ctx.takesFrames (x : Ctx) : Bool :=
  match x.state with
  | .loaded | .running | .holding | .held => true
  | _ => false

/-- The context quiesces: it still takes parity messages and their acknowledgements (R383, R398). -/
def Ctx.quiescing (x : Ctx) : Bool := (x.state = .faulted || x.state = .purging) && x.recovery.begun

/-- A frame for this module in its stream: outside the window, a duplicate, for a context that takes none, or handled; it is
acknowledged. -/
def State.streamReceive (s : State) (f : FrameHdr) (cls : Nat) (also : Ctx → Bool) (handle : State → State × RxItem) : State :=
  let src := f.src.toNat
  let c := f.context.val
  let x := s.rxStream cls src
  let d := (f.seq - x.expected).toNat
  if 2 ^ 23 ≤ d || x.got.contains f.seq then (s.countCtx c cE2eDup 1).ackStream cls src
  else if 1024 ≤ d then s.hdrErr f.port.val
  else
    let r := if (s.ctx c).takesFrames || also (s.ctx c) then handle s else (s.countCtx c cPurgedDrops 1, .plain f.last)
    let x := r.1.rxStream cls src
    let s := r.1.setRx cls src { x with got := x.got ++ [f.seq], later := x.later ++ [(f.seq, r.2)] }
    (State.advanceRx 1025 s cls src).ackStream cls src

/-- Reserved bits of ARG (R255). -/
def argReserved (op : Byte) (arg : W64) : Bool :=
  match op.toNat with
  | 0x01 | 0x03 | 0x04 => arg.getLsbD 48
  | 0x02 => decide (2 ^ 48 ≤ arg.toNat)
  | 0x10 => decide (4 ≤ fieldOf arg 51 48)
  | 0x21 => decide (fieldOf arg 13 0 ≠ 0)
  | 0x22 => decide (fieldOf arg 50 0 ≠ 0)
  | _ => false

/-- A frame past its port: reserved fields of the header, of ARG and of the payload (R11), traffic class, VC and length (R254, R255), then
its own module or the next. A frame with a reserved field that is not 0 is discarded and counted wherever it is met: it takes no place in
its stream and is not acknowledged (log entry 33). A frame at its own module frees its buffer space before it is handled. -/
def State.frameIn (s : State) (f : FrameHdr) (op : Byte) (cls : Nat) (payload : List Byte) (here : State → State) (bad : Bool := false) : State :=
  s.hopReceive f payload.length fun s =>
    let p := f.port.val
    let free := fun (s : State) => s.freeUnitsAt p f.vc.toNat (rxUnits payload.length)
    if f.reserved || bad || argReserved op f.arg || 4 ≤ f.tc.toNat || f.vc.toNat / 2 ≠ cls || 8192 < payload.length then free (s.hdrErr p) else
    if f.dst ≠ s.fabric.position then s.transit f op payload else
    let s := if f.ackv then s.e2eAcked f.ackClass.toNat f.src.toNat f.ackSeq else s
    here (free s)

/-- A sequenced frame of a class. -/
def State.streamIn (s : State) (f : FrameHdr) (op : Byte) (cls : Nat) (payload : List Byte) (handle : State → State × RxItem)
    (also : Ctx → Bool := fun _ => false) (bad : Bool := false) : State :=
  s.frameIn f op cls payload (fun s => s.streamReceive f cls also handle) bad

/-- A range lies in the context's parity region. -/
def Ctx.inParity (x : Ctx) (a n : Nat) : Bool :=
  (x.program.bind Program.parityOn).any fun r => decide (r.field 1 47 0 ≤ a) && decide (a + n ≤ r.field 1 47 0 + r.field 2 47 0)

/-- A frame that names an address outside the context's memory: discarded, BAD_FABRIC_ADDR, and the context purged (R286). -/
def State.badFabricAddr (s : State) (f : FrameHdr) (a : Nat) : State :=
  (s.raise 0x17 (some f.context.val) (unitPort f.port.val) (BitVec.ofNat 64 a) (f.src.setWidth 32)).purge f.context.val s.faults.nextSeq

/-! ### Data frames (R255) -/

/-- Note the bytes of a row that an ALL_TO_ALL of the context waits for (R242, log entry 40). -/
def State.noteRow (s : State) (c a n : Nat) : State :=
  match (s.ctx c).program with
  | none => s
  | some p =>
    let dst := fun (g : Rec) => if g.field 0 63 60 ≠ 3 then [] else ((List.range (gridTasks g)).map fun t => s.mem.task g t).filterMap fun t =>
      if t.field 1 51 48 = 3 then some (s.mem.tensor (t.field 2 47 0)) else none
    let hit := (((p.grids ++ (s.ctx c).grids.map (·.desc)).flatMap dst).flatMap Tensor.hull).any fun r => overlaps a n r.1 r.2
    if hit then { s with fabric := { s.fabric with rows := Tab.put s.fabric.rows (c * 2 ^ 48 + a) n } } else s

/-- A WRITE that covers a member's digest in the digest area (R394). -/
def State.noteDigest (s : State) (c a : Nat) (bs : List Byte) : State :=
  match (s.ctx c).program.bind (·.recovery) with
  | none => s
  | some r =>
    let base := Rec.field r 3 47 0
    if base = 0 then s else
    (List.range (s.replicas c).length).foldl (fun s m => (List.range 64).foldl (fun s i =>
      let w := base + Config.digestSlot m i
      if decide (a ≤ w) && decide (w + 32 ≤ a + bs.length) then
        s.onFolds c fun f => { f with peers := Tab.put f.peers (m * 64 + i) (BitVec.ofNat 256 (beNat (slice bs (w - a) 32))) }
      else s) s) s

/-- Write a payload at its address. A fence that the context does not hold counts as an address outside its memory (R348). -/
def State.landWrite (s : State) (f : FrameHdr) (payload : List Byte) : State × RxItem :=
  let c := f.context.val
  let a := f.arg.toNat % 2 ^ 48
  if (!payload.isEmpty && !(s.ctx c).coversHbm a payload.length) || (f.arg.msb && !s.holds c (fieldOf f.arg 62 49)) then
    (s.badFabricAddr f a, .plain f.last) else
  let s := if payload.isEmpty then s else (((s.write a payload).noteRow c a payload.length).noteParityAck c a payload.length).noteDigest c a payload
  (s, if f.arg.msb then .fence c (fieldOf f.arg 62 49) f.last else .plain f.last)

/-- WRITE (R263). -/
def execWrite (f : FrameHdr) (payload : List Byte) (s : State) : Host.Outcome State Fault Refusal :=
  .next (s.streamIn f 0x01 clsData payload (fun s => s.landWrite f payload)
    fun x => x.quiescing && !payload.isEmpty && x.inParity (f.arg.toNat % 2 ^ 48) payload.length)

/-- READ_RESP: as WRITE, at the requester (R255). -/
def execReadResp (f : FrameHdr) (payload : List Byte) (s : State) : Host.Outcome State Fault Refusal :=
  .next (s.streamIn f 0x03 clsReply payload fun s => s.landWrite f payload)

/-- SIGNAL: no payload; one without FENCE_EN, or with an address, is malformed and discarded (R255, R263; log entry 33). -/
def execSignal (f : FrameHdr) (s : State) : Host.Outcome State Fault Refusal :=
  .next (s.streamIn f 0x04 clsData [] (fun s => s.landWrite f []) (fun _ => false) (!f.arg.msb || decide (f.arg.toNat % 2 ^ 48 ≠ 0)))

/-- Answer a read with READ_RESP frames at the requester's address; a fence rides on the last (R255). -/
def State.answerRead (s : State) (f : FrameHdr) (requester : W64) (n : Nat) : State :=
  let c := f.context.val
  let a := f.arg.toNat % 2 ^ 48
  s.guarded c ⟨8, 0⟩ (s.checkRead c a n) fun s =>
    let s := s.noteReads [(a, n)]
    let ps := cutPayload (s.mem.read a n)
    let top := requester.toNat / 2 ^ 48 * 2 ^ 48
    s.sendMessage c f.src.toNat clsReply 0x03 f.tc.toNat none (ps.zipIdx.map fun x =>
      (BitVec.ofNat 64 ((requester.toNat % 2 ^ 48 + x.1.1) % 2 ^ 48 + (if x.2 + 1 = ps.length then top else 0)), x.1.2))

/-- The 16 payload bytes of a READ_REQ (R255). -/
def readReqBytes (requester : W64) (length : ReqLength) : List Byte :=
  le 8 requester.toNat ++ le 4 length.bytes.toNat ++ le 4 length.rsvd.toNat

/-- READ_REQ (R255). -/
def execReadReq (f : FrameHdr) (requester : W64) (length : ReqLength) (s : State) : Host.Outcome State Fault Refusal :=
  .next (s.streamIn f 0x02 clsData (readReqBytes requester length) (fun s =>
    if !(s.ctx f.context.val).coversHbm f.arg.toNat length.bytes.toNat then
      (s.badFabricAddr f (((s.ctx f.context.val).gap f.arg.toNat length.bytes.toNat).getD f.arg.toNat), .plain f.last)
    else (s.answerRead f requester length.bytes.toNat, .plain f.last)) (fun _ => false) (decide (length.rsvd ≠ 0)))

/-- DISPATCH: entries go to their places in the source's list (R121, R242). -/
def execDispatch (f : FrameHdr) (payload : List Byte) (s : State) : Host.Outcome State Fault Refusal :=
  .next (s.streamIn f 0x05 clsData payload fun s =>
    let key := f.context.val * 2 ^ 15 + f.src.toNat
    let es := (List.range (payload.length / 8)).map fun i => (f.arg.toNat / 8 + i, BitVec.ofNat 64 (leNat (slice payload (8 * i) 8)))
    ({ s with fabric := { s.fabric with dispatch := Tab.modify [] s.fabric.dispatch key (· ++ es) } }, .plain f.last))

/-- DELTA: its offset is within the record (R154, R255). -/
def execDelta (f : FrameHdr) (payload : List Byte) (s : State) : Host.Outcome State Fault Refusal :=
  .next (s.streamIn f 0x06 clsData payload fun s => (s, .part 0x06 f.context.val f.first f.last (f.arg.toNat % 2 ^ 48) payload))

/-- PARITY: the payload is written at its offset in the parity region as it arrives, and a message that is whole is applied (R263, R378,
R379). Bytes beyond the region lie outside the context's memory (R286). -/
def State.landParity (s : State) (f : FrameHdr) (payload : List Byte) : State × RxItem :=
  let c := f.context.val
  let off := f.arg.toNat % 2 ^ 48
  let item := RxItem.part 0x07 c f.first f.last off payload
  match (s.ctx c).program.bind Program.parityOn with
  | none => (s, item)
  | some r =>
    if r.field 2 47 0 < off + payload.length then (s.badFabricAddr f (r.field 1 47 0 + off), .plain f.last)
    else (s.write (r.field 1 47 0 + off) payload, item)

def execParity (f : FrameHdr) (payload : List Byte) (s : State) : Host.Outcome State Fault Refusal :=
  .next (s.streamIn f 0x07 clsData payload (fun s => s.landParity f payload) Ctx.quiescing)

/-- E2E_ACK: what it acknowledges was read from its header (R262). -/
def execE2eAck (f : FrameHdr) (s : State) : Host.Outcome State Fault Refusal :=
  .next (s.frameIn f 0x20 clsReply [] fun s => s)

/-- Send frames again, before any new one (R262, R286). -/
def State.resend (s : State) (cls dst first last : Nat) : State :=
  let hit := fun (g : TxFrame) => decide ((g.seq - BitVec.ofNat 24 first).toNat ≤ (BitVec.ofNat 24 last - BitVec.ofNat 24 first).toNat)
  (((s.txStream cls dst).unacked.filter hit).foldl (fun s g => s.route { frame := { g with age := 0 }, retx := true }) s).inject cls dst

/-- E2E_NACK: the named frames are sent again with the same SEQ, ARG and payload (R262). -/
def execE2eNack (f : FrameHdr) (s : State) : Host.Outcome State Fault Refusal :=
  .next (s.frameIn f 0x21 clsReply [] fun s => s.resend (fieldOf f.arg 15 14) f.src.toNat (fieldOf f.arg 63 40) (fieldOf f.arg 39 16))

end Sys2Proof.Machine
end

