-- ==== Sys2Proof/Machine/Link.lean ====
section
/-!
DEFINITION. Ports and links: discovery (R267 to R271, R445), credits and replay (R257 to R259), lanes (R253), port loss and re-route
(R280 to R282, R381).
-/
namespace Sys2Proof.Machine

open Sys2Proof

/-! ### Discovery (R267 to R271, R445) -/

/-- The spare identifier of a module in a spare slot (R226, R442): the positions of the torus come before it. -/
def Boot.spareId (b : Boot) : Nat := (b.slot.lens.take b.slot.naxes).foldl (fun p n => p * max 1 n) 1 + b.slot.spareIndex

/-- The DISCOVER record that a port sends (R268): natural alignment gives its 32 bytes. Without a layout the CRC is a free value. -/
def State.sendDiscover (s : State) (p : Nat) : State :=
  let l := s.layout?
  let place := l.bind fun l => portPlace l p
  let pos := s.fabric.position.toNat + (if s.fabric.isSpare then 2 ^ 15 else 0)
  let spare := if s.fabric.isSpare || s.boot.slot.spare then s.boot.spareId else 0xFFFF
  let crc := match l with | some l => layoutCrc l | none => s.freeWord
  let body := le 2 pos ++ le 2 spare ++ [BitVec.ofNat 8 p, Config.axisByte (place.elim 5 (·.1)) (place.elim false fun x => !x.2.1)] ++ le 2 0 ++
    le 4 (s.boot.serial.toNat % 2 ^ 24) ++ le 4 crc.toNat ++ le 8 s.now.toNat ++ le 8 ((s.port p).record.elim 0 fun r => r.sent.toNat)
  ((s.onPort p fun x => { x with stamps := (s.power.ppsSteps, s.now) :: x.stamps }).sendLink p 0x32 0 body).drawn

/-- Read a DISCOVER record (R268). -/
def parseDiscover (bs : List Byte) : FarEnd :=
  { position := leNat (bs.take 2), spare := leNat (slice bs 2 2), port := leNat (slice bs 4 1), axis := BitVec.ofNat 8 (leNat (slice bs 5 1))
    tag := leNat (slice bs 8 3), crc := BitVec.ofNat 32 (leNat (slice bs 12 4)), sent := BitVec.ofNat 64 (leNat (slice bs 16 8))
    echoed := BitVec.ofNat 64 (leNat (slice bs 24 8)) }

/-- A DISCOVER record is 32 bytes, and the 8 reserved bits beside SERIAL_TAG are 0 (R11, R268). -/
def badDiscover (bs : List Byte) : Bool := decide (bs.length ≠ 32) || decide (leNat (slice bs 11 1) ≠ 0)

/-- Nanoseconds of a time-counter value (R417). -/
def stampNs (w : W64) : Nat := w.toNat / 2 ^ 30 * 1000000000 + w.toNat % 2 ^ 30

/-- Note a record: one that echoes an open timestamp of this port ends the exchange, whose round trip it measures (R271). An exchange that a
PPS step falls into is discarded, and the records that follow repeat it (R426): `steps` counts the PPS steps. -/
def Port.hear (x : Port) (r : FarEnd) (steps : Nat) (now : W64) : Port :=
  let x := { x with record := some r }
  if decide (r.echoed = 0) || !x.stamps.contains (steps, r.echoed) then x
  else { x with stamps := x.stamps.takeWhile (· ≠ (steps, r.echoed)), exchanges := x.exchanges + 1
                rttMax := max x.rttMax (stampNs now - stampNs r.echoed) }

/-- Shares for a round trip of `rtt` ns on a port whose collectives travel on VC `v` (R258, R260): the reset shares where they cover it at the
full rate, else as in R260's worked link: what the VC in use needs, 16 KiB for each other VC, the rest to VC 0 (log entry 106). -/
def sharesFor (rtt v : Nat) : W32 :=
  if 100 * rtt ≤ 32768 then 0x00444444 else
  let use := min 14 ((100 * rtt + 8191) / 8192)
  let rest := 24 - use - 10
  BitVec.ofNat 32 ((List.range 6).foldl (fun t i => t + (if i = v then use else if i = 0 then 2 + rest else 2) * 2 ^ (4 * i)) 0)

/-- VC of ring collectives over a port's link: VC 5 over the dateline, else VC 4 (R264). -/
def State.collVc (s : State) (l : Rec) (p : Nat) : Nat :=
  match portPlace l p with
  | some (a, plus, _) =>
    let n := max 1 (layoutAxis l a).len
    if crossesDateline n ((coordsOf (layoutAxes l) s.fabric.position.toNat).getD a 0) plus then 5 else 4
  | none => 4

/-- Cumulative credit counts that a port grants: the share of each VC and the units it has freed (R258, R259). -/
def Port.granted (x : Port) : List Byte :=
  (List.range 6).flatMap fun v => be 4 ((fieldOf x.vcShare (4 * v + 3) (4 * v) * 128 + Tab.get 0 x.freed v) % 2 ^ 32)
def State.sendCredit (s : State) (p : Nat) : State := s.sendLink p 0x31 0 (s.port p).granted

/-- A mismatch holds the port (R270). -/
def State.holdPort (s : State) (p : Nat) (r : FarEnd) (expected : Nat) : State :=
  (s.onPort p fun x => { x with state := .held }).raise 0x14 none (unitPort p) (BitVec.ofNat 64 (r.position % 2 ^ 15)) (BitVec.ofNat 32 expected)

/-- SERIAL_TAG check: an entry without TAG_SET takes the far end's tag (R270, R272). -/
def State.checkTag (s : State) (pos tag : Nat) : Option State :=
  let e := Tab.get 0 s.fabric.peers pos
  if e.getLsbD 56 then (if fieldOf e 55 32 = tag then some s else none)
  else
    let e' := peerEntry (fieldOf e 63 61) (fieldOf e 14 0) true tag
    some { s with fabric := { s.fabric with peers := Tab.put s.fabric.peers pos e' } }

/-- The port enters UP: RTT_NS takes the largest of three exchanges with 64 ns added, VC_SHARE is set for it (R271), and what waits for a
way is sent. -/
def State.bringUp (s : State) (l : Rec) (p : Nat) : State :=
  let v := s.collVc l p
  let s := s.onPort p fun x => { x with state := .up, rtt := BitVec.ofNat 16 (min 0xFFFF (x.rttMax + 64)), vcShare := sharesFor (x.rttMax + 64) v }
  (((s.sendDiscover p).sendCredit p).pumpOut p).injectAll

/-- The checks of a record: those of R445 before a layout is loaded, all of R270 after. After three exchanges that agree the port enters UP;
a mismatch holds it. -/
def State.checkRecord (s : State) (p : Nat) (r : FarEnd) : State :=
  match s.layout? with
  | none =>
    let b := s.boot.slot
    let near := (List.range b.naxes).flatMap fun a => [true, false].map fun plus =>
      let n := max 1 (b.lens.getD a 1)
      let x := b.coords.getD a 0
      let xs := b.coords.set a (if plus then (x + 1) % n else (x + n - 1) % n)
      (List.range b.naxes).reverse.foldl (fun t i => xs.getD i 0 + max 1 (b.lens.getD i 1) * t) 0
    if near.contains r.position then s.onPort p fun x => { x with state := .discovery } else s.holdPort p r s.fabric.position.toNat
  | some l =>
    match s.expectedPeer l p with
    | none => s
    | some e =>
      if r.position ≠ e.1 || r.port ≠ e.2 || r.crc ≠ layoutCrc l then s.holdPort p r e.1 else
      match s.checkTag e.1 r.tag with
      | none => s.holdPort p r e.1
      | some s => if 3 ≤ (s.port p).exchanges then s.bringUp l p else s.onPort p fun x => { x with state := .discovery }

/-- A port that no mask of the layout names stays down and carries no frame (R224). -/
def State.unnamed (s : State) (p : Nat) : Bool := s.layout?.any fun l => (portPlace l p).isNone

/-- A layout has been loaded: every named port that waits announces it and the checks of R270 run on what it has heard (R445); a port that no
mask names goes down (R224). -/
def State.announceLayout (s : State) : State :=
  match s.layout? with
  | none => s
  | some l => (List.range 32).foldl (fun s p =>
      let x := s.port p
      if (portPlace l p).isNone then
        (if x.state = .retired then s else s.onPort p fun x => { x with state := .down, lanes := 0 })
      else if x.state = .discovery || x.state = .held then
        match x.record with
        | some r => if r.crc = layoutCrc l then s.checkRecord p r else s.sendDiscover p
        | none => s.sendDiscover p
      else s) s

/-! ### Port loss and re-route (R280 to R282, R381) -/

def lineBit : Nat := 36

/-- Set or clear LINE of the group entries on an axis (R273, R281). -/
def State.setLine (s : State) (axis : Nat) (on : Bool) : State :=
  let f := fun (_ : Nat) (g : Rec) =>
    if g.field 0 60 58 = axis && g.field 0 63 61 = 0 then
      [BitVec.ofNat 64 ((g.word 0).toNat - (g.field 0 lineBit lineBit) * 2 ^ lineBit + (bit01 on) * 2 ^ lineBit), g.word 1]
    else g
  { s with fabric := { s.fabric with groups := Tab.mapAll s.fabric.groups f } }

/-- Positions of this module's ring on an axis, by coordinate. -/
def State.ringPosition (s : State) (l : Rec) (axis x : Nat) : Nat :=
  idOf (layoutAxes l) ((coordsOf (layoutAxes l) s.fabric.position.toNat).set axis x)
def State.ringCoord (s : State) (l : Rec) (axis : Nat) : Nat := (coordsOf (layoutAxes l) s.fabric.position.toNat).getD axis 0

/-- Ports that face a position, as a mask. -/
def State.facing (s : State) (l : Rec) (pos : Nat) : Nat :=
  (List.range 32).foldl (fun m p => if (s.expectedPeer l p).any fun e => e.1 = pos then m + 2 ^ p else m) 0

/-- Positions of the ring that no path reaches any more are FAILED; a neighbour raises MODULE_LOST (R281, R381). -/
def State.markFailed (s : State) (l : Rec) (axis : Nat) : State :=
  let n := max 1 (layoutAxis l axis).len
  let me := s.ringCoord l axis
  (List.range n).foldl (fun s x =>
    let pos := s.ringPosition l axis x
    let fwd := (x + n - me) % n
    if x = me || !(s.pathDown axis n me fwd true && s.pathDown axis n me (n - fwd) false) || s.peerState pos = 3 || s.peerState pos = 0 then s else
    let e := Tab.get 0 s.fabric.peers pos
    let e' := peerEntry 3 (fieldOf e 14 0) (e.getLsbD 56) (fieldOf e 55 32)
    let s := { s with fabric := { s.fabric with peers := Tab.put s.fabric.peers pos e' } }
    let s := s.groupLost pos
    let pm := s.facing l pos
    if pm = 0 then s else s.raise 0x18 none ⟨10, pos⟩ (BitVec.ofNat 64 pos) (BitVec.ofNat 32 pm)) s

/-- ARG of ROUTE_UPDATE (R255). -/
def routeArg (axis lower : Nat) (down : Bool) : W64 := BitVec.ofNat 64 (axis * 2 ^ 59 + lower * 2 ^ 52 + bit01 down * 2 ^ 51)

/-- Lower coordinate of this module's link in a direction. -/
def State.linkLower (s : State) (l : Rec) (axis : Nat) (plus : Bool) : Nat :=
  let n := max 1 (layoutAxis l axis).len
  let x := s.ringCoord l axis
  if plus then x else (x + n - 1) % n

/-- Send ROUTE_UPDATE one hop along the ring, if the link that way works. -/
def State.sendRoute (s : State) (l : Rec) (axis : Nat) (plus : Bool) (arg : W64) : State :=
  -- over the surviving links only: never over the link that it names
  if (s.workingPorts l axis plus).isEmpty || s.linkLower l axis plus = fieldOf arg 58 52 then s
  else s.sendControl (predicted l s.fabric.position.toNat axis plus) 0x22 3 arg none

/-- Install or remove a detour. -/
def State.setDetour (s : State) (l : Rec) (axis lower : Nat) (down : Bool) : State :=
  let ds := s.fabric.detours.filter fun d => d ≠ (axis, lower)
  let s := { s with fabric := { s.fabric with detours := if down then ds ++ [(axis, lower)] else ds } }
  let s := s.setLine axis (s.fabric.detours.any fun d => d.1 = axis)
  (if down then s.markFailed l axis else s).injectAll

/-- ARG of LINK_DOWN and LINK_UP events. -/
def linkArg (axis lower : Nat) : W64 := BitVec.ofNat 64 (axis * 2 ^ 61 + lower * 2 ^ 54)

/-- Frames held at a broken link: those of streams are discarded and their sources send them again, acknowledgements and route updates take
the detour (R281). -/
def State.dropHeld (s : State) (fs : List TxFrame) : State :=
  fs.foldl (fun s g =>
    let s := s.leaveBuffer g
    let g := { g with held := none, inPort := 32 }
    if 0x20 ≤ g.op.toNat then s.route { frame := g } else
    let cls := g.vc.toNat / 2
    if g.src = s.fabric.position then s.resend cls g.dst.toNat g.seq.toNat g.seq.toNat
    else s.sendControl g.src.toNat 0x21 3 (BitVec.ofNat 64 (g.seq.toNat * 2 ^ 40 + g.seq.toNat * 2 ^ 16 + cls * 2 ^ 14)) none) s

/-- The buffers of a port that has gone down hold nothing: frames that came in there owe it no credit any more. -/
def State.forgetBuffer (s : State) (p : Nat) : State :=
  let clear := fun (g : TxFrame) => if g.inPort = p then { g with held := none } else g
  { s with fabric := { s.fabric with
    ports := Tab.mapAll s.fabric.ports fun _ x => { x with waiting := x.waiting.map clear }
    parked := s.fabric.parked.map fun k => { k with frame := clear k.frame }
    early := s.fabric.early.map fun e => if e.port = p then { e with units := 0 } else e } }

/-- A port is lost (R280): its frames move in HOP_SEQ order to a sibling; with the last port of a direction the link is down (R281). -/
def State.losePort (s : State) (p : Nat) : State :=
  let x := s.port p
  if (x.state = .down && !x.lost) || x.state = .retired then s else
  let fs := x.replay ++ x.waiting
  let s := s.setPort p { x with state := .down, lost := false, lanes := 0, replay := [], waiting := [], fails := 0, nakOut := false, ackOwed := false }
  let s := s.forgetBuffer p
  match s.layout?.bind fun l => (portPlace l p).map fun y => (l, y) with
  | none => (s.raise 0x11 none (unitPort p) 0 0).dropHeld fs
  | some (l, axis, plus, _) =>
    let ps := s.workingPorts l axis plus
    let s := s.raise 0x11 none (unitPort p) (BitVec.ofNat 64 ps.length) 0
    if x.state ≠ .up && !x.lost then s else
    if ps.isEmpty then
      let lower := s.linkLower l axis plus
      let s := s.raise 0x12 none (unitPort p) (linkArg axis lower) 0
      let s := s.setDetour l axis lower true
      let s := (s.sendRoute l axis true (routeArg axis lower true)).sendRoute l axis false (routeArg axis lower true)
      s.dropHeld fs
    else
      fs.foldl (fun s g =>
        let q := ps.getD (g.stripe.toNat % ps.length) 0
        (s.onPort q fun y => { y with waiting := y.waiting ++ [g] }).pumpOut q) s

/-- Handle the loss of every port that went down with its die (R280, R367). -/
def State.handleLost (s : State) : State :=
  (List.range 32).foldl (fun s p => if (s.port p).lost then s.losePort p else s) s

/-- PORT_LINK_UP: a medium that is not supported holds the port down (R267), as does a layout that does not name it (R224). -/
def execPortLinkUp (port : Fin 32) (media : Media) (s : State) : Host.Outcome State Fault Refusal :=
  .next (onlyIf (s.powered && decide (9 ≤ s.boot.stage) && (s.port port.val).state = .down && !s.unnamed port.val) (fun s =>
    let s := (s.onPort port fun x => { x with media := some media }).handleLost
    if media.kind = .other then s.onPort port fun x => { x with mediaBad := true }
    else ((s.forgetBuffer port).onPort port fun x => { x with
        state := .discovery, lanes := 0xF, good := 0xF, farGood := 0xF, mediaBad := false, hopTx := 0, hopRx := 0, nakOut := false, replay := []
        fails := 0, credits := [], usedTx := [], freed := [], waiting := [], record := none, rtt := 0, rttMax := 0, exchanges := 0, stamps := [] }).sendDiscover
      port) s)

/-- DISCOVER: the record, which ends in its two timestamps, is noted and checked (R268 to R271). -/
def execDiscover (f : FrameHdr) (record stamps : List Byte) (s : State) : Host.Outcome State Fault Refusal :=
  .next (s.linkReceive f [.discovery, .held, .up] fun s =>
    let p := f.port.val
    if badDiscover (record ++ stamps) then s.hdrErr p else
    if (s.port p).state = .up then s else
    let r := parseDiscover (record ++ stamps)
    let s := (s.onPort p fun x => x.hear r s.power.ppsSteps s.now).checkRecord p r
    if (s.port p).state = .up then s else s.sendDiscover p)

/-- FAR_END_SILENT and PORT_LOST (R280). -/
def execFarEndSilent (port : Fin 32) (s : State) : Host.Outcome State Fault Refusal := .next (s.losePort port.val)
def execPortLost (port : Fin 32) (s : State) : Host.Outcome State Fault Refusal := .next (s.losePort port.val)

/-- ROUTE_UPDATE: installed, and passed on away from the side it came from, to the end of the line (R281). -/
def execRouteUpdate (f : FrameHdr) (s : State) : Host.Outcome State Fault Refusal :=
  .next (s.frameIn f 0x22 clsReply [] fun s =>
    let axis := fieldOf f.arg 63 59
    let lower := fieldOf f.arg 58 52
    match s.layout? with
    | none => s
    | some l =>
      match portPlace l f.port.val with
      | none => s
      | some (a, plus, _) => if a ≠ axis then s else (s.setDetour l axis lower (f.arg.getLsbD 51)).sendRoute l axis (!plus) f.arg)

/-- LINK_UP at an end of a link that was down (R281). -/
def execLinkUp (axis : Fin 5) (lower : Fin 64) (s : State) : Host.Outcome State Fault Refusal :=
  .next (match s.layout? with
  | none => s
  | some l =>
    let ends := [true, false].any fun plus => s.linkLower l axis plus = lower.val && !(s.workingPorts l axis plus).isEmpty
    if !(ends && s.fabric.detours.contains (axis.val, lower.val)) then s else
    let s := (s.raise 0x13 none unitModule (linkArg axis lower) 0).setDetour l axis lower false
    (s.sendRoute l axis true (routeArg axis lower false)).sendRoute l axis false (routeArg axis lower false))

/-! ### Credits, replay and errors (R256 to R259) -/

/-- Send again the frames of the replay buffer from one on, in HOP_SEQ order (R257). -/
def State.replayFrom (s : State) (p : Nat) (fs : List TxFrame) : State :=
  fs.foldl (fun s g => (s.countPort p 4 1).emit (.frame (BitVec.ofNat 5 p).toFin { g with hopAck := (s.port p).hopRx })) s

/-- HOP_NAK: replay; a frame whose replay fails 16 times in succession loses the port (R257, R280). -/
def execHopNak (f : FrameHdr) (s : State) : Host.Outcome State Fault Refusal :=
  .next (s.linkReceive f [.up] fun s =>
    let p := f.port.val
    if 2 ^ 16 ≤ f.arg.toNat then s.hdrErr p else
    let s := s.hopAcked p (f.arg.setWidth 16)
    let s := s.onPort p fun x => { x with fails := x.fails + 1 }
    -- the first HOP_NAK asks for a replay; each later one says that a replay has failed
    if 17 ≤ (s.port p).fails then s.losePort p else s.replayFrom p (s.port p).replay)

/-- CREDIT (R259). -/
def execCredit (f : FrameHdr) (counts : List W32) (s : State) : Host.Outcome State Fault Refusal :=
  .next (s.linkReceive f [.discovery, .up] fun s =>
    let p := f.port.val
    if counts.length ≠ 6 then s.hdrErr p else (s.onPort p fun x => { x with credits := counts }).pumpOut p)

/-- Ask for the first sequence not received. -/
def State.askReplay (s : State) (p : Nat) : State :=
  let x := s.port p
  if x.state ≠ .up then s
  else (s.onPort p fun x => { x with nakOut := true }).sendLink p 0x30 (x.hopRx.setWidth 64) []

/-- FCS_ERROR_FRAME: each frame that fails its FCS causes a HOP_NAK (R256, R284). -/
def execFcsErrorFrame (port : Fin 32) (s : State) : Host.Outcome State Fault Refusal :=
  .next (onlyIf ((s.port port.val).state ≠ .down && (s.port port.val).state ≠ .retired) (fun s =>
    let n := (s.port port).fcsErr
    (((s.onPort port fun x => { x with fcsErr := stick n }).stuck n (portRegs port + 0x0C) 16).askReplay port)) s)

/-- DISCARDED_FRAME: PAUSE is counted in PAUSE_IGNORED, tags and other EtherTypes in ETYPE_DROPS (R250, R252); a frame with a reserved OP takes
its place in HOP_SEQ order and is counted in HDR_ERR (R255). -/
def execDiscardedFrame (port : Fin 32) (kind : ForeignFrame) (s : State) : Host.Outcome State Fault Refusal :=
  .next (onlyIf ((s.port port.val).state ≠ .down && (s.port port.val).state ≠ .retired)
    (fun s => match kind with
      | .pause => s.countPort port 7 1
      | .tagged | .etype => s.countPort port 8 1
      | .badOp f n => ({ f with port := port } : FrameHdr) |> fun f => s.hopReceive f n fun s =>
          (s.freeUnitsAt port f.vc.toNat (rxUnits n)).hdrErr port) s)

/-- VC_SHARE: six fields of 2 to 14 that total 24, written while the port is down or holds no frame; else the old value stays and
CFG_ERR is set (R258). -/
def execVcShare (port : Fin 32) (value : W32) (s : State) : Host.Outcome State Fault Refusal :=
  let x := s.port port.val
  .next (onlyIf (x.state = .down || (x.replay.isEmpty && x.waiting.isEmpty && !s.fabric.early.any fun e => e.port = port.val)) (fun s =>
    let fs := (List.range 6).map fun v => fieldOf value (4 * v + 3) (4 * v)
    let ok := fs.all (fun n => decide (2 ≤ n) && decide (n ≤ 14)) && fs.foldl (· + ·) 0 = 24
    s.onPort port fun x => if ok then { x with vcShare := value &&& 0xFFFFFF } else { x with cfgErr := true }) s)

/-! ### Lanes (R253) -/

def lanesIn (m : BitVec 4) : Nat := (List.range 4).foldl (fun n i => n + bit01 (m.getLsbD i)) 0

/-- Restripe over the lanes that both ends report good and replay what the other end has not acknowledged; fewer than 2 lanes lose the
port. -/
def State.restripe (s : State) (p : Nat) (m : BitVec 4) : State :=
  let s := s.onPort p fun x => { x with lanes := m }
  if lanesIn m < 2 then s.losePort p else (s.replayFrom p (s.port p).replay).pumpOut p

/-- Drop lanes: counted, reported. -/
def State.dropLanes (s : State) (p : Nat) (m : BitVec 4) : State :=
  let x := s.port p
  let s := (List.range (lanesIn x.lanes - lanesIn m)).foldl (fun s _ =>
    let n := (s.port p).laneDrops
    (s.onPort p fun x => { x with laneDrops := stick n }).stuck n (portRegs p + 0x10) 16) s
  (s.raise 0x10 none (unitPort p) (m.setWidth 64) 0).restripe p m

/-- Restripe over the lanes that both ends report good; lanes that leave are dropped. -/
def State.restripeCommon (s : State) (p : Nat) : State :=
  let x := s.port p
  let m := x.good &&& x.farGood
  if lanesIn m < lanesIn x.lanes then s.dropLanes p m else s.restripe p m

/-- LANE_DROP (R253): LINK_STATE names the surviving lanes, and the port goes on over the lanes known to be good at both ends. -/
def execLaneDrop (port : Fin 32) (lane : Fin 4) (s : State) : Host.Outcome State Fault Refusal :=
  let x := s.port port.val
  let m := x.good &&& ~~~(1#4 <<< lane.val)
  .next (onlyIf (x.state = .up && x.good.getLsbD lane) (fun s =>
    ((s.onPort port fun x => { x with good := m }).sendLink port 0x33 (m.setWidth 64) []).restripeCommon port) s)

/-- LINK_STATE: the lanes that the far end reports good. A report that changes what is known is answered with this end's own; then both ends
restripe over the common lanes (R253). -/
def execLinkState (f : FrameHdr) (s : State) : Host.Outcome State Fault Refusal :=
  .next (s.linkReceive f [.up] fun s =>
    let p := f.port.val
    if 16 ≤ f.arg.toNat then s.hdrErr p else
    let far := f.arg.setWidth 4
    let news := decide (far ≠ (s.port p).farGood)
    let s := s.onPort p fun x => { x with farGood := far }
    (if news then s.sendLink p 0x33 ((s.port p).good.setWidth 64) [] else s).restripeCommon p)

/-- LANE_READMIT: at most once per second per port. The lane is reported good; it carries traffic once the far end's LINK_STATE has come
(R253). -/
def execLaneReadmit (port : Fin 32) (lane : Fin 4) (s : State) : Host.Outcome State Fault Refusal :=
  let x := s.port port.val
  let m := x.good ||| 1#4 <<< lane.val
  .next (onlyIf (x.state = .up && !x.good.getLsbD lane && x.readmit.all fun t => decide (t + 1000000000 ≤ s.upNs)) (fun s =>
    (s.onPort port fun x => { x with readmit := some s.upNs, good := m }).sendLink port 0x33 (m.setWidth 64) []) s)

end Sys2Proof.Machine
end

