-- ==== Sys2Proof/Machine/Vxu.lean ====
section
/-!
DEFINITION. The Vector Units: the iteration space of a task (R107), an issue group (R103, R104, R109), the ends of a run and of a
task (R98, R107, R111, R116, R117, R119 to R121), and VXU_ISSUE_GROUP.
-/
namespace Sys2Proof.Machine

open Sys2Proof

/-! ### The iteration space (R107) -/

/-- Where a task's groups lie: elements of dimension 0, runs, the fed rows of a tile, extents of a memory-sourced task. -/
structure VxShape where
  n    : Nat
  rows : Nat
  fed  : Option (List Nat)
  ext  : List Nat
  b    : Nat

/-- Index in dimensions 1 to 3 of a run. -/
def VxShape.at (x : VxShape) (row : Nat) : Nat × Nat × Nat :=
  match x.fed with
  | some rs => (rs.getD row 0, 0, 0)
  | none =>
    let e1 := max 1 (x.ext.getD 1 1)
    let e2 := max 1 (x.ext.getD 2 1)
    (row % e1, row / e1 % e2, row / e1 / e2)

/-- Linear place of a run: its record and, in a top-k task, its token (R111, R121). -/
def VxShape.linear (x : VxShape) (row : Nat) : Nat :=
  let i := x.at row
  (i.2.2 * x.ext.getD 2 1 + i.2.1) * x.ext.getD 1 1 + i.1

/-- The MXA task that finished a tile. -/
def State.sluiceTask (s : State) (e : SluiceSlot) : Option Rec := ((s.ctx e.ctx).grid? e.slot).map fun g => s.mem.task g.desc e.task

def State.vxShape (s : State) (r : VxuRun) (v : VxTask) : VxShape :=
  match r.tile with
  | none =>
    let sp := v.space
    { n := sp.getD 0 1, rows := sp.getD 1 1 * sp.getD 2 1 * sp.getD 3 1, fed := none, ext := sp, b := 0 }
  | some e =>
    match s.sluiceTask e with
    | none => { n := 0, rows := 0, fed := some [], ext := [0, 128, 1, 1], b := e.pos }
    | some t =>
      let rs := fedRows s.mem t e.pos
      { n := (taskCtl t).cols, rows := rs.length, fed := some rs, ext := [(taskCtl t).cols, 128, 1, 1], b := e.pos }

/-- A task with its descriptors moved to a tile's position. -/
def VxTask.atTile (v : VxTask) (b : Nat) : VxTask :=
  { v with srcs := v.srcs.map fun t => t.atTile b, dsts := v.dsts.map fun t => t.atTile b, mask := v.mask.atTile b }

/-! ### An issue group (R103, R109) -/

/-- A register: its elements and, straight after the load of reduction records, those records (R115). -/
structure VxReg where
  vals : List W32
  recs : List (List W32) := []

/-- What a group works on: the task at the tile's position `b`, the tile, the run's index and the group's elements. -/
structure VxGroup where
  v    : VxTask
  b    : Nat := 0
  tile : Option Tile
  i    : Nat × Nat × Nat
  j0   : Nat
  cnt  : Nat

/-- What a group changes. -/
structure VxState where
  mem   : Mem
  regs  : Tab VxReg := []
  flags : Nat := 0
  lanes : List Nat := []
  reds  : Tab (List Partial)

def VxGroup.idx (g : VxGroup) (j : Nat) : Idx := (g.j0 + j, g.i)
def VxGroup.coord (g : VxGroup) (j d : Nat) : Nat :=
  match d with | 0 => g.j0 + j | 1 => g.i.1 | 2 => g.i.2.1 | _ => g.i.2.2

/-- Registers read +0 until the group writes them. -/
def VxState.reg (x : VxState) (g : VxGroup) (r : Nat) : VxReg := Tab.get { vals := List.replicate g.cnt 0 } x.regs r

/-- Mask bit of an element of a softmax row: it is masked (R116). -/
def VxGroup.masked (g : VxGroup) (m : Mem) (j : Nat) : Bool :=
  if g.v.kind ≠ 1 then false
  else if g.v.maskMode = 1 then
    let a := g.v.mask.base + g.i.1 * g.v.mask.s 1 + g.i.2.1 * g.v.mask.s 2 + g.i.2.2 * g.v.mask.s 3
    !((m.byte (a + (g.j0 + j) / 8)).toNat.testBit ((g.j0 + j) % 8))
  else if g.v.maskMode = 2 then decide (((g.i.1 + 128 * g.b : Nat) : Int) + g.v.offset < ((g.j0 + j : Nat) : Int))
  else false

/-- Note the flags of a group's elements with their lanes; a masked position raises none (R116). -/
def VxState.note (x : VxState) (g : VxGroup) (fs : List Nat) : VxState :=
  let hit := fs.zipIdx.filter fun y => y.1 ≠ 0 && !g.masked x.mem y.2
  { x with flags := hit.foldl (fun f y => f ||| y.1) x.flags, lanes := x.lanes ++ hit.map fun y => vxLane g.v.pk y.2 }

/-- One element of source slot `a`. -/
def VxGroup.load (g : VxGroup) (m : Mem) (a j : Nat) : Flagged W32 :=
  match g.tile, decide (a = 0) && g.v.tileSrc with
  | some t, true =>
    let w := Tab.get 0 t.elems (256 * g.i.1 + g.j0 + j)
    if t.int then vxWidenInt g.v.pk w.toInt else vxWiden g.v.pk (val w)
  | _, _ =>
    let d := g.v.src a
    match eFmt d.fmt with
    | some (.int b) => vxWidenInt g.v.pk (sext b (m.rawElem d (g.idx j)))
    | _ => vxWiden g.v.pk (m.elem d (g.idx j))

/-- The records that a load of format 0xB brings. -/
def VxGroup.records (g : VxGroup) (m : Mem) (a : Nat) : List (List W32) :=
  let d := g.v.src a
  if d.fmt = 0xB && !(a = 0 && g.v.tileSrc) then (List.range g.cnt).map fun j => m.words32 (d.addr (g.idx j)) 4 else []

/-- Flags of a store, element by element; those of a whole MX block belong to each of its elements. -/
def storeFlags (d : Tensor) (xs : List Num) : List Nat :=
  match eFmt d.fmt with
  | some (.mx f _) => (List.range ((xs.length + 31) / 32)).flatMap fun k =>
      let e := mxElements f ((xs.drop (32 * k)).take 32)
      e.2.1.map fun x => x.2 ||| e.2.2
  | _ => xs.map fun x => (d.code x).2

/-- One operation of the program over the group's elements. -/
def VxGroup.op (g : VxGroup) (x : VxState) (o : VxOp) : VxState :=
  match o.op with
  | 0x00 => x
  | 0x01 =>
    let r : List (W32 × Nat) := (List.range g.cnt).map fun j => g.load x.mem o.a j
    VxState.note { x with regs := Tab.put x.regs o.d { vals := r.map Prod.fst, recs := g.records x.mem o.a } } g (r.map Prod.snd)
  | 0x02 =>
    let xs := (x.reg g o.a).vals.map val
    VxState.note { x with mem := (x.mem.storeRun (g.v.dst o.b) (g.idx 0) xs).1 } g (storeFlags (g.v.dst o.b) xs)
  | 0x1C =>
    let r := x.reg g o.a
    let op := (g.v.red o.b).field 0 63 61
    let old := Tab.get emptyLanes x.reds o.b
    let new := r.vals.zipIdx.foldl (fun (ls : List Partial) y =>
      ls.modify (vxLane g.v.pk y.2) fun p =>
        match r.recs[y.2]? with
        | some w => p.record op w
        | none => p.absorb op y.1) old
    let fs := r.vals.zipIdx.map fun y =>
      let p := old.getD (vxLane g.v.pk y.2) {}
      match r.recs[y.2]? with
      | some w => ({ p with flags := 0 }.record op w).flags % 32
      | none => p.raises op y.1
    VxState.note { x with reds := Tab.put x.reds o.b new } g fs
  | op =>
    let a := (x.reg g o.a).vals
    let b := (x.reg g o.b).vals
    let c := (x.reg g o.c).vals
    let r : List (W32 × Nat) := (List.range g.cnt).map fun j =>
      vxAlu g.v.pk op o.c (a.getD j 0) (b.getD j 0) (c.getD j 0) (g.v.consts.getD o.a 0) (g.coord j o.c)
    VxState.note { x with regs := Tab.put x.regs o.d { vals := r.map Prod.fst } } g (r.map Prod.snd)

/-- Run the program on a group. -/
def VxGroup.run (g : VxGroup) (m : Mem) (reds : Tab (List Partial)) : VxState := g.v.program.foldl g.op { mem := m, reds := reds }

/-- Bytes that a group reads: source elements that the program loads, and mask bits. -/
def VxGroup.reads (g : VxGroup) : List (Nat × Nat) :=
  (g.v.program.flatMap fun o =>
    if o.op = 0x01 && !(o.a = 0 && g.v.tileSrc) then (List.range g.cnt).flatMap fun j => (g.v.src o.a).touched (g.idx j) else []) ++
  (if g.v.kind = 1 && g.v.maskMode = 1 then
    [(g.v.mask.base + g.i.1 * g.v.mask.s 1 + g.i.2.1 * g.v.mask.s 2 + g.i.2.2 * g.v.mask.s 3 + g.j0 / 8, (g.j0 % 8 + g.cnt + 7) / 8)]
   else [])

/-- Bytes that a group's stores touch. -/
def VxGroup.writes (g : VxGroup) : List (Nat × Nat) :=
  let ds := if g.v.kind = 0 then (g.v.program.filter fun o => o.op = 0x02).map (·.b) else if g.v.kind = 1 then [0] else []
  ds.flatMap fun d => (List.range g.cnt).flatMap fun j => (g.v.dst d).touched (g.idx j)

/-- Issue cycles of a group (R109, R118, R121): the program's cost with that of its row operation, and at least 512 bytes read and
written each cycle. `long` says that the row is read twice, `last` that the group ends its row. -/
def VxGroup.cost (g : VxGroup) (long last : Bool) : Nat :=
  let p := g.v.program.foldl (fun n o => n + o.cost) 0
  let own :=
    if g.v.kind = 1 then p + (if long then 10 else 11)
    else if g.v.kind = 2 then p + (if g.v.sigmoid then 9 else 11) + g.v.k + (if last then 2 * g.v.k else 0)
    else p
  let port := fun (rs : List (Nat × Nat)) => ((rs.eraseDups.map (·.2)).sum + 511) / 512
  max own (max (port g.reads) (port g.writes))

/-! ### Ends of runs and of a task -/

/-- Note flags against the run: the first group that raised one is kept (R57). EMPTY_ROW is no flag of R52. -/
def VxuRun.note (r : VxuRun) (i1 f : Nat) (lanes : List Nat) : VxuRun :=
  { r with flags := r.flags ||| f, capIdx := if r.capIdx.isNone && flagBits f ≠ 0 then some i1 else r.capIdx
           laneLo := lanes.foldl min r.laneLo, laneHi := lanes.foldl max r.laneHi }

/-- Write the record of reduction slot `k` and empty the slot (R111); `i1` is the group that ends it. -/
def State.putRecord (s : State) (r : VxuRun) (v : VxTask) (b i1 off k : Nat) : State × VxuRun :=
  let d := v.red k
  let op := d.field 0 63 61
  let w := (reduceTree op (Tab.get emptyLanes r.reds k)).words op
  (s.write (d.field 0 47 0 + 2048 * b + off) (w.flatMap fun x => le 4 x.toNat),
   { r with reds := Tab.drop r.reds k }.note i1 (fieldOf (w.getD 3 0) 4 0) [])

/-- Reduction slots of one axis setting. -/
def VxTask.redsOf (v : VxTask) (axis : Nat) : List Nat := (List.range v.nred).filter fun k => (v.red k).field 0 60 60 = axis

/-- The records of one axis setting. -/
def State.putRecords (s : State) (r : VxuRun) (v : VxTask) (b i1 axis off : Nat) : State × VxuRun :=
  (v.redsOf axis).foldl (fun x k => x.1.putRecord x.2 v b i1 off k) (s, r)

/-- Store outputs of a softmax row from element `j0` on. -/
def State.putOutputs (s : State) (r : VxuRun) (g : VxGroup) (ys : List W32) : State × VxuRun :=
  let xs := ys.map val
  let m := s.mem.storeRun (g.v.dst 0) (g.j0, g.i) xs
  let fs := storeFlags (g.v.dst 0) xs
  ({ s with mem := m.1 }, r.note g.i.1 m.2 ((fs.zipIdx.filter fun y => y.1 ≠ 0).map fun y => vxLane g.v.pk y.2))

/-- Module that the Expert Table names for an expert, seen from this module: DEST gives its E coordinate, in Uniform mode as the logical
rank whose other coordinates are 0 (R229, R241). -/
def State.expertHome (s : State) (c expert : Nat) : Nat :=
  match (s.ctx c).program with
  | none => 0
  | some p =>
    let dest := fieldOf (p.experts.getD expert 0) 14 0
    withCut s.mem p.layout s.fabric.position.toNat 3
      (if layoutUniform p.layout then dest / max 1 (layoutLog p.layout 4) else cutCoord s.mem p.layout dest 3)

/-- Modules that hold experts of the context, in expert order, once each. -/
def State.expertHomes (s : State) (c : Nat) : List Nat :=
  match (s.ctx c).program with
  | none => []
  | some p => (((List.range p.experts.length).filter fun e => fieldOf (p.experts.getD e 0) 31 31 = 1).map (s.expertHome c)).eraseDups

/-- Lanes of the elements of a row that satisfy a condition. -/
def lanesOf {α : Type} (p : α → Bool) (xs : List α) : List Nat := (xs.zipIdx.filter fun x => p x.1).map fun x => vxLane false x.2

/-- The combine entries and dispatch of one token (R119 to R121). The EXPERT of a token without a route is a free value. -/
def State.topkRow (s : State) (r : VxuRun) (v : VxTask) (i1 token : Nat) (base : Nat) : State × VxuRun :=
  let xs := r.logits.map (·.1)
  if xs.any f32isNan then
    let s := s.countCtx r.ctx cGateNanRows 1
    let es := (List.range v.k).map fun k => dispatchEntry 0 false k (Config.freeValue (s.free + k)).toNat token
    ({ (s.write base (es.flatMap fun e => le 8 e.toNat)) with free := s.free + v.k },
     r.note i1 fNan (lanesOf f32isNan xs))
  else
    let sc := topkScores v.sigmoid xs
    let scores := sc.1.map (·.1)
    let sel := topkSelect scores v.k
    let ws := topkWeights v.renorm (sel.map fun e => scores.getD e 0)
    let r := r.note i1 (sc.1.foldl (fun f x => f ||| x.2) 0) (lanesOf (fun x : Flagged W32 => decide (x.2 ≠ 0)) sc.1)
    let z := (sel.zip ws.1).zipIdx.foldl (fun (z : List W64 × VxuRun × Nat) x =>
      let e := x.1.1
      let n := Tab.get 0 z.2.1.counts e
      if v.cap ≠ 0 && decide (v.cap ≤ n) then (z.1 ++ [dispatchEntry 0 false x.2 e token], z.2.1, z.2.2 + 1)
      else
        let w := dispatchEntry x.1.2 true x.2 e token
        let home := s.expertHome r.ctx e
        (z.1 ++ [w], { z.2.1 with counts := Tab.put z.2.1.counts e (n + 1), queue := z.2.1.queue ++ [(home, w)]
                                  lists := Tab.modify 0 z.2.1.lists home (· + 1) }, z.2.2)) ([], r, 0)
    ((s.write base (z.1.flatMap fun e => le 8 e.toNat)).countCtx r.ctx cDispatchDrops z.2.2, z.2.1.note i1 (sc.2 ||| ws.2) [])

/-- End of a dimension-0 run. -/
def State.endRow (s : State) (r : VxuRun) (g : VxGroup) (x : VxShape) : State × VxuRun :=
  let k := x.linear r.row
  let z := if g.v.kind = 2 then
      s.topkRow r g.v g.i.1 ((k + 128 * x.b) % 2 ^ 16) ((g.v.dst 0).base + 8 * g.v.k * k)
    else if g.v.kind = 1 && !r.second then
      let rule := rowRule g.v.pk r.logits
      let bad := (r.logits.zipIdx.filter fun y => !y.1.2 && f32isNan y.1.1).map fun y => vxLane g.v.pk y.2
      s.putOutputs (r.note g.i.1 rule.flags bad) { g with j0 := 0 } (r.logits.map fun y => rule.output g.v.pk y.1 y.2)
    else (s, r)
  let z := z.1.putRecords z.2 g.v x.b g.i.1 1 (16 * k)
  (z.1, { z.2 with row := r.row + 1, group := 0, second := false, logits := [], rowNan := false, rowInf := 0, pairs := [] })

/-- The tile's slot is freed and the tile goes back to LEASED; with ZREL the clear port zeroes it (R98). -/
def State.releaseTile (s : State) (a : Nat) (e : SluiceSlot) (zrel : Bool) : State :=
  (s.onTile a e.tile fun t => { t with st := .leased, clearing := zrel }).onArray a fun x =>
    { x with slots := x.slots.filter fun y => y ≠ e }

/-- After its last store the task's flags are offered for capture and counted, and its status word is written (R54 to R57, R107).
A task of a tile adds the tile's own word. Flags of the DMA engine's conversions on the store path are reported under the VXU's
UNIT_KIND, 1 (DESIGN CHOICE, log entry 115). -/
def State.vxStatus (s : State) (a : Nat) (r : VxuRun) (v : VxTask) (b : Nat) : State :=
  let lo := if r.laneLo ≤ r.laneHi then r.laneLo else 0
  let hi := if r.laneLo ≤ r.laneHi then r.laneHi else 0
  let base : FlagSite := { unitKind := 1, unitIndex := a, grid := r.slot, task := r.task, colFirst := lo, colLast := hi }
  let site := match r.tile with
    | none => { base with row := r.capIdx.getD 0 / 2 ^ 16, col := r.capIdx.getD 0 % 2 ^ 16 }
    | some e =>
      match s.sluiceTask e with
      | none => base
      | some t => { base with row := (taskStream t + 128 * e.pos) / 128, col := taskStat t / 256 }
  let own := (match r.tile with | some e => e.status.toNat | none => 0) ||| r.flags
  let word := own ||| (if s.wouldCapture r.ctx r.flags then fCaptured else 0)
  let s := (s.captureFlags r.ctx r.flags site).countFlags r.ctx own
  let at' := (v.dst 0).status
  if v.ndst = 0 || at' = 0 then s else { s with mem := s.mem.putStatus (at' + 4 * b) word }

/-- Two states of one run: the same task on the same tile. -/
def VxuRun.same (r q : VxuRun) : Bool := r.ctx = q.ctx && r.slot = q.slot && r.task = q.task && r.tile = q.tile

/-- Place of a run among its MXA task's tiles. -/
def VxuRun.pos (r : VxuRun) : Nat := match r.tile with | some e => e.pos | none => 0

/-- The task is done once the collective engine has taken its last entry. -/
def State.closeRun (s : State) (a : Nat) (r : VxuRun) : State :=
  (s.onTask r.ctx r.slot r.task fun t => match r.tile with
    | some _ => { t with vxuDone := t.vxuDone + 1, accepted := Tab.drop t.accepted r.pos }
    | none => { t with finished := true, accepted := Tab.drop t.accepted r.pos }).onArray a fun x =>
  { x with runs := x.runs.filter fun q => !r.same q }

/-- Keep a run that goes on, in its place. -/
def State.keepRun (s : State) (a : Nat) (r : VxuRun) : State :=
  s.onArray a fun x => { x with runs := if x.runs.any r.same then x.runs.map fun q => if r.same q then r else q else x.runs ++ [r] }

/-- End of a task: records, end markers (R121), status, release. -/
def State.endTask (s : State) (a : Nat) (r : VxuRun) (v : VxTask) (x : VxShape) : State :=
  let z := s.putRecords r v x.b (x.at (x.rows - 1)).1 0 0
  let r := if v.kind = 2 then
      { z.2 with queue := z.2.queue ++ (z.1.expertHomes r.ctx).map fun d => (d, endMarker (Tab.get 0 z.2.lists d)) }
    else z.2
  let s := z.1.vxStatus a r v x.b
  let s := match r.tile with | some e => s.releaseTile a e v.zrel | none => s
  if r.queue.isEmpty then s.closeRun a r else s.keepRun a r

/-- Execute the next group of a run whose reads have been checked. -/
def State.runGroup (s : State) (a : Nat) (r : VxuRun) (g : VxGroup) (x : VxShape) : State :=
  let y := g.run s.mem r.reds
  let s := { s with mem := y.mem }
  let r := { r.note g.i.1 y.flags y.lanes with reds := y.reds }
  let last := decide (x.n ≤ g.j0 + g.cnt)
  let score := (y.reg g g.v.score).vals
  let long := g.v.kind = 1 && decide (4096 < x.n) && !g.v.pk
  let z :=
    if long && r.second then
      let rule := longRule r.rowNan r.rowInf r.pairs
      let z := s.putOutputs r g (score.zipIdx.map fun w => rule.output false w.1 (g.masked s.mem w.2))
      if last then z.1.endRow (z.2.note g.i.1 rule.flags []) g x else (z.1, { z.2 with group := r.group + 1 })
    else if long then
      let r := score.zipIdx.foldl (fun (r : VxuRun) w =>
        if g.masked s.mem w.2 then r
        else if f32isNan w.1 then { r with rowNan := true }
        else if w.1 = f32inf false then { r with rowInf := r.rowInf + 1 }
        else { r with pairs := Tab.put r.pairs (vxLane false w.2) (pairTake (Tab.find? r.pairs (vxLane false w.2)) w.1) }) r
      (s, if last then { r with second := true, group := 0 } else { r with group := r.group + 1 })
    else
      let r := if g.v.kind = 0 then r else
        { r with logits := r.logits ++ score.zipIdx.map fun w => (w.1, g.masked s.mem w.2) }
      if last then s.endRow r g x else (s, { r with group := r.group + 1 })
  if x.rows ≤ z.2.row then z.1.endTask a z.2 g.v x else z.1.keepRun a z.2

/-- Bytes that the end of a group's run or task writes: records, combine list and status word (R107, R111, R121). -/
def VxGroup.endWrites (g : VxGroup) (x : VxShape) (row : Nat) : List (Nat × Nat) :=
  if g.j0 + g.cnt < x.n then [] else
  let k := x.linear row
  (g.v.redsOf 1).map (fun r => ((g.v.red r).field 0 47 0 + 2048 * x.b + 16 * k, 16)) ++
  (if g.v.kind = 2 then [((g.v.dst 0).base + 8 * g.v.k * k, 8 * g.v.k)] else []) ++
  (if row + 1 < x.rows then [] else
    (g.v.redsOf 0).map (fun r => ((g.v.red r).field 0 47 0 + 2048 * x.b, 16)) ++
    (if g.v.ndst = 0 || (g.v.dst 0).status = 0 then [] else [((g.v.dst 0).status + 4 * x.b, 4)]))

/-- Execute the next group of a run: its addresses lie in the context's memory and it consumes no poison (R288, R300). -/
def State.issueGroup (s : State) (a : Nat) (r : VxuRun) : State :=
  let v0 := vxTask r.words
  let x := s.vxShape r v0
  let v := v0.atTile x.b
  if x.rows = 0 || x.n = 0 then s.endTask a r v x else
  let tile := r.tile.map fun e => Tab.get {} (s.array a).tiles e.tile
  let size := if v.pk then 256 else 128
  let g : VxGroup := { v := v, b := x.b, tile := tile, i := x.at r.row, j0 := r.group * size, cnt := min size (x.n - r.group * size) }
  let out := g.writes ++ g.endWrites x r.row
  s.guarded r.ctx ⟨1, a⟩ ((s.checkReads r.ctx g.reads).orElse (s.checkWrites r.ctx out)) fun s =>
    (((s.engineReads r.ctx false g.reads).takeTokens r.ctx false out).countVxu a 0
      (g.cost (v.kind = 1 && decide (4096 < x.n) && !v.pk) (decide (x.n ≤ g.j0 + g.cnt)))).runGroup a r g x

/-! ### Choosing a group (R104) -/

/-- Start a run on the VXU task at an address: its 768 bytes are read. A TOPK task that reads tiles starts its capacity counts, lists and end
markers anew for each tile (DESIGN CHOICE, log entry 77). -/
def State.startVx (s : State) (a c slot task addr : Nat) (tile : Option SluiceSlot) : State :=
  s.guarded c ⟨1, a⟩ (s.checkReads c [(addr, 768)]) fun s =>
    let s := s.engineReads c false [(addr, 768)]
    let r : VxuRun := { ctx := c, slot := slot, task := task, tile := tile, addr := addr, words := s.mem.record addr 96 }
    s.issueGroup a r

/-- A task waits for its collective engine (R121). -/
def VxuRun.stalls (r : VxuRun) : Bool := !r.queue.isEmpty

/-- A context whose VXU work goes on: it is not being purged (R102) and no earlier access of its partition waits for tokens (R297). -/
def State.vxGoes (s : State) (c : Nat) : Bool := (s.ctx c).state ≠ .purging && (s.ctx c).state ≠ .faulted && s.paid c

/-- The slot whose group comes next: the oldest whose context's work goes on and whose task does not wait for its collective engine. -/
def State.sluiceHead (s : State) (a : Nat) : Option SluiceSlot :=
  (s.array a).slots.find? fun e => s.vxGoes e.ctx && !((s.array a).runs.any fun r => r.tile = some e && r.stalls)

/-- A run is that of a memory-sourced task. -/
def VxuRun.isMem (r : VxuRun) (c slot t : Nat) : Bool := r.tile.isNone && r.ctx = c && r.slot = slot && r.task = t

/-- A memory-sourced task runs on a VXU. -/
def State.vxTaken (s : State) (c slot t : Nat) : Bool := s.arrays.any fun e => e.2.runs.any fun r => r.isMem c slot t

/-- A context's first memory-sourced task that this VXU can go on with, in issue order (R74): one that runs on it, or one that is ready and
that no VXU has taken. Its slot, task and address. -/
def State.vxOffer (s : State) (a c : Nat) : Option (Nat × Nat × Nat) :=
  if !s.vxGoes c then none else
  (s.ctx c).grids.findSome? fun g =>
    if g.kind ≠ some .vxu then none else
    ((List.range (gridTasks g.desc)).find? fun t =>
      ((s.array a).runs.any fun r => r.isMem c g.slot t && !r.stalls) ||
      (s.eligible c g t && !(g.task t).finished && !s.vxTaken c g.slot t)).map fun t => (g.slot, t, (s.mem.task g.desc t).field 1 47 0)

/-- The memory-sourced task whose group comes next at an issue-group boundary: by context priority, then by issue order (R104, R335). -/
def State.vxPick (s : State) (a : Nat) : Option (Nat × Nat × Nat × Nat) :=
  s.choose (s.array a).vxuCtx (s.ctxs.filterMap fun e => (s.vxOffer a e.1).map fun x => (e.1, x))

/-- A memory-sourced group is ready. -/
def State.memReady (s : State) (a : Nat) : Bool := (s.vxPick a).isSome

/-- Issue a memory-sourced group. -/
def State.memGroup (s : State) (a : Nat) : State :=
  match s.vxPick a with
  | none => s
  | some (c, slot, t, addr) =>
    let s := s.onArray a fun x => { x with memWaited := 0, vxuCtx := c }
    match (s.array a).runs.find? fun r => r.isMem c slot t with
    | some r => s.issueGroup a r
    | none => s.startVx a c slot t addr none

/-- Issue a group of a slot. An error that the bank's code corrects on its read is counted, one that it cannot correct poisons the tile (R96). -/
def State.sluiceGroup (s : State) (a : Nat) (e : SluiceSlot) (ecc : BankEcc) : State :=
  let s := (s.onArray a fun x => { x with memWaited := if s.memReady a then x.memWaited + 1 else 0 }).countArray a 2 ecc.corrected
  if ecc.uncorrectable || (Tab.get {} (s.array a).tiles e.tile).poisoned then s.bankUe a e.ctx e.tile else
  match (s.array a).runs.find? fun r => r.tile = some e with
  | some r => s.issueGroup a r
  | none => s.startVx a e.ctx e.slot e.task e.vxu (some e)

/-- VXU_ISSUE_GROUP at an issue-group boundary (R104). While a task waits for its collective engine the VXU takes no other group for
16 cycles, then serves the Sluice (R121). -/
def execVxuIssueGroup (vxu : Fin 192) (ecc : BankEcc) (parityErrors : List ChannelRepeats) (s : State) : Host.Outcome State Fault Refusal :=
  .next (onlyIf (s.arrayOn vxu) (fun s =>
    let s := s.parityErrors parityErrors
    let x := s.array vxu
    if x.runs.any VxuRun.stalls then
      if x.stalled < 16 then s.onArray vxu fun x => { x with stalled := x.stalled + 1 }
      else match s.sluiceHead vxu with
        | some e => s.sluiceGroup vxu e ecc
        | none => s
    else
      match s.sluiceHead vxu with
      | some e => if s.memReady vxu && decide (15 ≤ x.memWaited) then s.memGroup vxu else s.sluiceGroup vxu e ecc
      | none => s.memGroup vxu) s)

end Sys2Proof.Machine
end

