-- ==== Sys2Proof/Machine/Collective.lean ====
section
/-!
DEFINITION. The collective engines: ring collectives (R275 to R278, R282), the all-to-all of expert dispatch (R242, R279), transfers
(R255, R341), the dispatch entries that VXUs hand over (R121), and the acknowledgement interval of a port (R255).
-/
namespace Sys2Proof.Machine

open Sys2Proof

/-! ### Regions, units and segments (R236, R276) -/

/-- Slice element numbers of an update block, in storage order (R123, R194, R211). -/
def Plan.blockPlaces (q : Plan) (m : Mem) (u : Rec) (b : Nat) : List Nat :=
  match (if uPre u then statFor q.p.stats (uLayer u) (uExpert u) else none) with
  | some d =>
    let side := fun (k pos : Nat) =>
      let xs := (List.range (sBlockLen d k pos)).map fun i => permAt m d k (pos * sBlock d k + i)
      (List.range (sDim d k)).filter fun x => xs.contains x
    (side 0 (b / max 1 (sBlocks d 1))).flatMap fun r => (side 1 (b % max 1 (sBlocks d 1))).map fun c => r * sDim d 1 + c
  | none => (List.range (blockElems q.p.stats u b)).map fun j => 65536 * b + j

/-- Blocks that a shard index owns of a layer. -/
def Plan.blocksOf (q : Plan) (u : Rec) (o : Nat) : List Nat :=
  ((layerRuns q.p.layout q.p.stats q.p.shardMap u).filter fun r => r.1 = o).flatMap fun r => (List.range r.2.2).map fun i => r.2.1 + i

/-- Cut a list into pieces of at most `k`. -/
def chunks (fuel k : Nat) (xs : List Nat) : List (List Nat) :=
  match fuel with
  | 0 => []
  | n + 1 => if xs.isEmpty then [] else xs.take k :: chunks n k (xs.drop k)
def pieces (k : Nat) (xs : List Nat) : List (List Nat) := chunks (xs.length + 1) (max 1 k) xs

/-- Units of an owner's region of a layer whose elements take `w` bytes: rows in the accumulation buffer's row order, or 4 KiB segments in
storage order. -/
def Plan.unitsOf (q : Plan) (m : Mem) (u : Rec) (o w : Nat) : List (List Nat) :=
  let all := (q.blocksOf u o).flatMap fun b => q.blockPlaces m u b
  match (if uPre u then statFor q.p.stats (uLayer u) (uExpert u) else none) with
  | some d => ((List.range (sDim d 0)).map fun r => ((List.range (sDim d 1)).map fun c => r * sDim d 1 + c).filter fun i => all.contains i).filter
      fun r => !r.isEmpty
  | none => pieces (4096 / max 1 w) all

/-- `n` parts of a buffer's units, the first ones one unit longer. -/
def evenParts (n : Nat) (us : List (List Nat)) : List (List (List Nat)) :=
  (List.range n).map fun i =>
    let len := us.length / n
    let more := us.length % n
    (us.drop (i * len + min i more)).take (len + if i < more then 1 else 0)

/-- A segment: owner, ring half, byte offset in the regions laid end to end, and cells. -/
structure Seg where
  owner : Nat
  plus  : Bool
  off   : Nat
  cells : List Nat

/-- Segments of the regions: the first half of a region's units travels the + ring (R276, log entry 40). -/
def ringSegs (w : Nat) (regions : List (List (List Nat))) : List Seg :=
  (regions.zipIdx.foldl (fun (r : List Seg × Nat) x =>
    x.1.zipIdx.foldl (fun (r : List Seg × Nat) y =>
      (pieces (8192 / max 1 w) y.1).foldl (fun (r : List Seg × Nat) z =>
        (r.1 ++ [{ owner := x.2, plus := decide (2 * y.2 < x.1.length), off := r.2, cells := z }], r.2 + w * z.length)) r) r) ([], 0)).1

/-- What a collective does on this member. -/
structure CollPlan where
  n       : Nat
  me      : Nat
  members : List Nat
  w       : Nat
  segs    : List Seg
  src     : Nat → Nat
  dst     : Nat → Option Nat
  land    : Option (Plan × Rec)     -- results go to the arrival buffers of this layer (R22, R210)

/-- Addresses of a tensor's stored bytes in order: its element plane row by row, then its scale plane. -/
def Tensor.storedBytes (t : Tensor) : List Nat :=
  let outer := (List.range (t.e 3)).flatMap fun k => (List.range (t.e 2)).flatMap fun j => (List.range (t.e 1)).map fun i => (i, j, k)
  (outer.flatMap fun i => (List.range (((if t.bcast then 1 else t.e 0) * t.bits + 7) / 8)).map fun b => t.addr (0, i) + b) ++
  if fmtIsMx t.fmt then (List.range (t.blocks0 * t.e 1 * t.e 2 * t.e 3)).map fun b => t.scale + b else []

/-- Addresses of a tensor's elements in order. -/
def Tensor.elements (t : Tensor) : List Nat :=
  (List.range (t.e 0 * t.e 1 * t.e 2 * t.e 3)).map fun i =>
    t.addr (i % t.e 0, i / t.e 0 % t.e 1, i / (t.e 0 * t.e 1) % t.e 2, i / (t.e 0 * t.e 1 * t.e 2))

/-- The plan of a collective. A reduction over the D ring whose source begins at ACC_BASE of a layer reduces its weight gradient (R211,
R236): over the shard group each owner takes its shards, over the replica group the owned elements are shared. A gather over the shard
group whose source begins at WC_BASE gathers the layer's working copy (R235). Other collectives use their tensors alone. -/
def State.collPlan (s : State) (k : Collective) : Option CollPlan :=
  match s.plan k.ctx, s.groupCut k.ctx k.group, Tab.find? s.fabric.groups k.group with
  | some q, some cut, some e =>
    let n := max 1 (e.field 0 57 51)
    let me := e.field 0 50 44
    let members := (List.range n).map fun i => s.cutMember q.p.layout cut i
    let src := s.mem.tensor k.src
    let dst := s.mem.tensor k.dst
    let acc := if cut.1 = 0 then q.p.layers.find? fun u => uAcc u = src.base else none
    let wc := if cut = (0, false) then q.p.layers.find? fun u => uWc u = src.base else none
    let replicated := decide (layoutH q.p.layout < layoutLog q.p.layout 0)
    let plan := fun (w : Nat) (regions : List (List (List Nat))) (f : Nat → Nat) (g : Nat → Option Nat) (l : Option (Plan × Rec)) =>
      some { n := n, me := me, members := members, w := w, segs := ringSegs w regions, src := f, dst := g, land := l : CollPlan }
    let parts := evenParts n (pieces 1024 (List.range src.elements.length))
    let first := ((parts.getD me []).flatMap id).headD 0
    let reduce := plan 4 parts (fun i => src.elements.getD i 0) (fun i => dst.elements[i - first]?) none
    let all := plan 4 parts (fun i => src.elements.getD i 0) (fun i => dst.elements[i]?) none
    match k.op, acc, wc with
    | 0, some u, _ =>
      if cut.2 then reduce else
      plan 4 ((List.range n).map fun o => q.unitsOf s.mem u o 4) (fun i => uAcc u + 4 * i) (fun i => some (uAcc u + 4 * i))
        (if replicated then none else some (q, u))
    | 2, some u, _ =>
      if !cut.2 then all else
      plan 4 (evenParts n (q.unitsOf s.mem u q.me 4)) (fun i => uAcc u + 4 * i) (fun i => some (uAcc u + 4 * i)) (some (q, u))
    | 1, _, some u =>
      let w := wcBytes q.p.update
      let own := (q.blocksOf u q.me).flatMap fun b =>
        let step := ((s.ctx k.ctx).shards.find? fun t => t.layer = uLayer u && t.expert = uExpert u && t.first ≤ b && b < t.first + t.count).elim 0
          fun t => (Tab.get {} t.blocks b).step
        -- the generation that the step reads, or the newest one where the block is behind (R21, R215)
        (q.blockPlaces s.mem u b).zipIdx.map fun x => (x.1, q.wcAt u b (min k.step (step + 1)) + w * x.2)
      plan w ((List.range n).map fun o => q.unitsOf s.mem u o w) (fun i => (own.lookup i).getD 0) (fun i => some (dst.base + w * i)) none
    | 1, _, none =>
      let a := src.storedBytes
      let d := dst.storedBytes
      plan 1 ((List.range n).map fun o => pieces 4096 ((List.range a.length).map fun i => o * a.length + i))
        (fun i => a.getD (i - me * a.length) 0) (fun i => d[i]?) none
    | 0, none, _ => reduce
    | 2, none, _ => all
    | _, _, _ => none
  | _, _, _ => none

/-! ### One segment (R277) -/

def CollPlan.next (p : CollPlan) (g : Seg) : Nat := if g.plus then (p.me + 1) % p.n else (p.me + p.n - 1) % p.n
/-- The member whose value starts a segment's partial sum: the owner's successor on the ring half. -/
def CollPlan.starter (p : CollPlan) (g : Seg) : Nat := if g.plus then (g.owner + 1) % p.n else (g.owner + p.n - 1) % p.n
def CollPlan.region (p : CollPlan) (g : Seg) : List (Nat × Nat) := g.cells.map fun i => (p.src i, p.w)
def CollPlan.localBytes (p : CollPlan) (m : Mem) (g : Seg) : List Byte := g.cells.flatMap fun i => m.read (p.src i) p.w

/-- Send a segment to the next member: half 0 reduces, half 1 gathers; COLL_OP says which (log entry 40). -/
def State.sendSeg (s : State) (k : Collective) (p : CollPlan) (half : Nat) (g : Seg) (bs : List Byte) : State :=
  s.sendMessage k.ctx (p.members.getD (p.next g) 0) clsColl 0x10 2 (some (g.off / 8192))
    [(BitVec.ofNat 64 (k.group * 2 ^ 52 + half * 2 ^ 48 + g.off), bs)]

def wordsIn (bs : List Byte) : List W32 := (List.range (bs.length / 4)).map fun i => BitVec.ofNat 32 (leNat (slice bs (4 * i) 4))
def bytesOf (ws : List W32) : List Byte := ws.flatMap fun w => le 4 w.toNat

/-- Owned shard, block and place in it of a slice element. -/
def State.ownerPlace (s : State) (c : Nat) (q : Plan) (u : Rec) (i : Nat) : Option (Nat × Nat × Nat) :=
  (s.ctx c).shards.zipIdx.findSome? fun t =>
    if t.1.layer ≠ uLayer u || t.1.expert ≠ uExpert u then none else
    (List.range t.1.count).findSome? fun j => ((q.blockPlaces s.mem u (t.1.first + j)).idxOf? i).map fun e => (t.2, t.1.first + j, e)

/-- Shards and blocks that a segment of a layer's gradient lands in. -/
def State.segBlocks (s : State) (c : Nat) (q : Plan) (u : Rec) (g : Seg) : List (Nat × Nat) :=
  (g.cells.filterMap fun i => (s.ownerPlace c q u i).map fun x => (x.1, x.2.1)).eraseDups

/-- The owner can take a segment of the gradient of step `k`: each block has consumed the one before it, and the unit's arrival buffer has
room (R210, R214). -/
def State.canLandSeg (s : State) (c k : Nat) (q : Plan) (u : Rec) (g : Seg) : Bool :=
  let bs := s.segBlocks c q u g
  bs.all (fun b => ((s.ctx c).shards[b.1]?).all fun t => t.canLand b.2 k) && s.arrivalRoom c k q u bs

/-- Deliver final values of cells: to the arrival buffers, or to the destination. -/
def State.deliver (s : State) (k : Collective) (p : CollPlan) (g : Seg) (bs : List Byte) : State :=
  match p.land with
  | some (q, u) => (g.cells.zip (wordsIn bs)).foldl (fun s x =>
      match s.ownerPlace k.ctx q u x.1 with
      | some y => s.landGradient k.ctx y.1 y.2.1 k.step y.2.2 [x.2]
      | none => s) s
  | none => g.cells.zipIdx.foldl (fun s x =>
      match p.dst x.1 with
      | some a => s.write a (slice bs (p.w * x.2) p.w)
      | none => s) s

/-- A result at its owner: delivered, and in an ALL_REDUCE gathered to the others. -/
def State.finishSeg (s : State) (k : Collective) (p : CollPlan) (g : Seg) (bs : List Byte) : State :=
  let s := s.deliver k p g bs
  if k.op = 2 && decide (1 < p.n) then s.sendSeg k p 1 g bs else s

/-- Take an arriving segment: in the reducing half the incoming partial comes first and the local value second. -/
def State.takeSeg (s : State) (k : Collective) (p : CollPlan) (half : Nat) (g : Seg) (bs : List Byte) : State :=
  if half = 0 then
    let new := bytesOf (((wordsIn bs).zip (wordsIn (p.localBytes s.mem g))).map fun x => (f32add x.1 x.2).1)
    if p.me = g.owner then s.finishSeg k p g new else s.sendSeg k p 0 g new
  else
    let s := s.deliver k p g bs
    if p.next g = g.owner then s else s.sendSeg k p 1 g bs

/-- The member waits for this segment. -/
def CollPlan.expects (p : CollPlan) (op half : Nat) (g : Seg) : Bool :=
  decide (1 < p.n) && (if half = 0 then (op = 0 || op = 2) && p.me ≠ p.starter g else (op = 1 || op = 2) && p.me ≠ g.owner)

/-- The destination region is written (R278); every segment has been taken. -/
def Collective.written (k : Collective) (p : CollPlan) : Bool :=
  p.segs.all fun g => !((p.expects k.op 0 g && g.owner = p.me && !k.seen.contains (0, g.off)) || (p.expects k.op 1 g && !k.seen.contains (1, g.off)))
def Collective.complete (k : Collective) (p : CollPlan) : Bool :=
  p.segs.all fun g => [0, 1].all fun h => !p.expects k.op h g || k.seen.contains (h, g.off)

def Collective.same (k j : Collective) : Bool := k.ctx = j.ctx && k.group = j.group

/-- Put a collective's new progress back, note its completion (R278) and drop it once it owes nothing. -/
def State.settleColl (s : State) (k : Collective) (p : CollPlan) : State :=
  let fin := k.written p
  let s := if fin && !k.finished then s.onTask k.ctx k.slot k.task fun t => { t with finished := true } else s
  let rest := s.fabric.colls.filter fun j => !k.same j
  { s with fabric := { s.fabric with colls := if k.complete p then rest else rest ++ [{ k with finished := fin }] } }

/-- Consume a held segment if its collective runs here, waits for it, and has room for it; its credit returns (R210, R259, R278). -/
def State.tryEarly (s : State) (x : EarlySeg) : State :=
  match s.fabric.colls.find? fun k => k.ctx = x.ctx && k.group = x.group with
  | none => s
  | some k =>
    match s.collPlan k with
    | none => s
    | some p =>
      match p.segs.find? fun g => g.off = x.offset with
      | none => s
      | some g =>
        let room := match p.land with | some (q, u) => s.canLandSeg k.ctx k.step q u g | none => true
        let lands := x.op = 1 || p.me = g.owner
        if !p.expects k.op x.op g || k.seen.contains (x.op, g.off) || x.data.length ≠ p.w * g.cells.length || (lands && !room) then s else
        let s := { s with fabric := { s.fabric with early := s.fabric.early.erase x, ports := freeUnits s.fabric.ports x } }
        let rs := if x.op = 0 then p.region g else []
        s.guarded k.ctx ⟨8, 0⟩ (s.checkReads k.ctx rs) fun s =>
          ((s.noteReads rs).takeSeg k p x.op g x.data).settleColl { k with seen := k.seen ++ [(x.op, g.off)] } p

/-- Try every held segment once, in order of arrival. -/
def State.drainEarly (s : State) : State := s.fabric.early.foldl State.tryEarly s

/-- Ring collectives of a group that the context's grids name, as they would run in the step in progress. -/
def State.groupColls (s : State) (c group : Nat) : List Collective :=
  match (s.ctx c).program with
  | none => []
  | some p =>
    let tasks := fun (g : Rec) => if g.field 0 63 60 ≠ 3 then [] else (List.range (gridTasks g)).map fun t => s.mem.task g t
    ((p.grids ++ (s.ctx c).grids.map (·.desc)).flatMap tasks).filterMap fun t =>
      if t.field 1 63 52 = group && t.field 1 51 48 ≠ 3 then
        some { ctx := c, slot := 0, task := 0, group := group, op := t.field 1 51 48, src := t.field 1 47 0, dst := t.field 2 47 0
               step := (s.ctx c).step.toNat + 1 }
      else none

/-- No collective of the group that the context's grids name has this segment: its offset lies outside their regions (R286). Where none is
named yet and one-shot grids may still come, the segment waits for its collective. -/
def State.strangeSeg (s : State) (x : EarlySeg) : Bool :=
  let ks := s.groupColls x.ctx x.group
  if ks.isEmpty then ((s.ctx x.ctx).program.elim true fun p => p.oneShot = 0)
  else !ks.any fun k => (s.collPlan k).any fun p => p.segs.any fun g => g.off = x.offset && x.data.length = p.w * g.cells.length

/-- COLL (R277, R278): a segment is held until its collective takes it, and its credit with it. -/
def execColl (f : FrameHdr) (payload : List Byte) (s : State) : Host.Outcome State Fault Refusal :=
  .next (s.streamIn f 0x10 clsColl payload fun s =>
    let c := f.context.val
    let group := fieldOf f.arg 63 52
    let units := rxUnits payload.length
    let e : EarlySeg := { ctx := c, group := group, op := fieldOf f.arg 51 48, offset := f.arg.toNat % 2 ^ 48, data := payload
                          port := f.port, vc := f.vc.toNat, units := units }
    if (s.groupCut c group).isNone || s.strangeSeg e then (s.badFabricAddr f (f.arg.toNat % 2 ^ 48), .plain f.last) else
    if 2 ≤ fieldOf f.arg 51 48 then (s.hdrErr f.port.val, .plain f.last) else
    let s := s.onPort f.port fun x => { x with freed := Tab.modify 0 x.freed f.vc.toNat (· - units) }
    (({ s with fabric := { s.fabric with early := s.fabric.early ++ [e] } }).drainEarly, .plain f.last))

/-! ### The all-to-all of expert dispatch (R242, R279; log entry 40) -/

/-- Entries of a received list in list order. -/
def State.listFrom (s : State) (c src : Nat) : List W64 :=
  let es := Tab.get [] s.fabric.dispatch (c * 2 ^ 15 + src)
  (List.range es.length).filterMap fun i => es.lookup i

def entryValid (w : W64) : Bool := w.getLsbD 31
def entryRank (w : W64) : Nat := fieldOf w 30 28
def entryExpert (w : W64) : Nat := fieldOf w 27 16
def entryToken (w : W64) : Nat := fieldOf w 15 0
def hasEnd (ws : List W64) : Bool := ws.any fun w => !entryValid w

/-- Members of the context's E ring in ascending coordinate. -/
def State.expertRing (s : State) (c : Nat) : List Nat :=
  match (s.ctx c).program with
  | none => []
  | some p => (List.range (max 1 (layoutLog p.layout 3))).map fun k => s.cutMember p.layout (3, false) k

/-- Experts that a module of the context's E ring holds, in SLOT order (R240). -/
def State.heldBy (s : State) (c pos : Nat) : List Nat :=
  match (s.ctx c).program with
  | none => []
  | some p =>
    let slot := fun (x : Nat) => fieldOf (p.experts.getD x 0) 27 16
    let its := (List.range p.experts.length).filter fun x => fieldOf (p.experts.getD x 0) 31 31 = 1 && s.expertHome c x = pos
    (List.range 4096).filterMap fun k => its.find? fun x => slot x = k

/-- Pairs that this module receives, with their sources, as its engine hands them on: ascending source E coordinate, list order; by expert
in SLOT order. The place in this list is the pair's row. -/
def State.expertRows (s : State) (c : Nat) : List (Nat × W64) :=
  let all := (s.expertRing c).flatMap fun src => ((s.listFrom c src).filter entryValid).map fun w => (src, w)
  (s.heldBy c s.fabric.position.toNat).flatMap fun x => all.filter fun e => entryExpert e.2 = x

/-- Every list for this module has ended. -/
def State.listsIn (s : State) (c : Nat) : Bool :=
  !(s.expertHomes c).contains s.fabric.position.toNat || (s.expertRing c).all fun src => hasEnd (s.listFrom c src)
/-- Every list that this module sends has ended. -/
def State.listsOut (s : State) (c : Nat) : Bool :=
  (s.expertHomes c).all fun d => hasEnd (Tab.get [] s.fabric.listed (c * 2 ^ 15 + d))

/-- Spans of a tensor's row. -/
def Tensor.rowSpans (t : Tensor) (i : Nat × Nat × Nat) : List (Nat × Nat) :=
  (t.addr (0, i), (t.e 0 * t.bits + 7) / 8) :: if fmtIsMx t.fmt then [(t.scaleAddr (0, i), t.blocks0)] else []

/-- Send or copy one row. -/
def State.moveRow (s : State) (c dst : Nat) (src tgt : List (Nat × Nat)) : State :=
  (src.zip tgt).foldl (fun s x =>
    let bs := s.mem.read x.1.1 x.1.2
    if dst = s.fabric.position.toNat then s.write x.2.1 bs
    else s.sendMessage c dst clsData 0x01 2 none ((cutPayload bs).map fun y => (BitVec.ofNat 64 (x.2.1 + y.1), y.2))) s

/-- Bytes of received rows in a span. -/
def State.rowBytes (s : State) (c : Nat) (x : Nat × Nat) : Nat :=
  s.fabric.rows.foldl (fun n e => if e.1 / 2 ^ 48 = c && x.1 ≤ e.1 % 2 ^ 48 && e.1 % 2 ^ 48 < x.1 + x.2 then n + e.2 else n) 0

/-- The combine half is next. -/
def State.combining (s : State) (c : Nat) : Bool := Tab.get false s.fabric.combine c

/-- Send the rows of one half: in the dispatch the input rows of the sent lists, in the combine the output rows of the received ones. -/
def State.sendRows (s : State) (k : Collective) : State :=
  let c := k.ctx
  let src := s.mem.tensor k.src
  let dst := s.mem.tensor k.dst
  let me := s.fabric.position.toNat
  if s.combining c then
    (s.expertRows c).zipIdx.foldl (fun s e => s.moveRow c e.1.1 (src.rowSpans (e.2, 0, 0)) (dst.rowSpans (entryRank e.1.2, entryToken e.1.2, 0))) s
  else
    let first := (s.expertRing c).head? = some me
    ((s.expertHomes c).filter fun d => d ≠ me).foldl (fun s d =>
      let ws := (Tab.get [] s.fabric.listed (c * 2 ^ 15 + d)).filter entryValid
      let xs := s.heldBy c d
      xs.zipIdx.foldl (fun s y =>
        let x := y.1
        -- rows before this module's: its own for experts in lower slots, and the pairs of other modules that come before (log entry 40)
        let own := ((xs.take y.2).map fun z => (ws.filter fun w => entryExpert w = z).length).foldl (· + ·) 0
        let base := own + (if y.2 = 0 && first then 0 else Config.peerRow s.free)
        ((ws.filter fun w => entryExpert w = x).zipIdx.foldl (fun s w =>
          s.moveRow c d (src.rowSpans (entryToken w.1, 0, 0)) (dst.rowSpans (base + w.2, 0, 0))) s.drawn)) s) s

/-- Rows that this half brings from other modules: their spans; and the local ones as source and target. -/
def State.rowsDue (s : State) (k : Collective) : List (Nat × Nat) :=
  let c := k.ctx
  let dst := s.mem.tensor k.dst
  let me := s.fabric.position.toNat
  if s.combining c then
    ((s.expertHomes c).filter fun d => d ≠ me).flatMap fun d => ((Tab.get [] s.fabric.listed (c * 2 ^ 15 + d)).filter entryValid).flatMap fun w =>
      dst.rowSpans (entryRank w, entryToken w, 0)
  else (s.expertRows c).zipIdx.flatMap fun e => if e.1.1 = me then [] else dst.rowSpans (e.2, 0, 0)

/-- The all-to-all of a context completes here: every list is in and every row has arrived; local rows are then laid out. -/
def State.tryExchange (s : State) (k : Collective) : State :=
  let c := k.ctx
  let due := s.rowsDue k
  if !s.listsIn c || !due.all (fun x => decide (x.2 ≤ s.rowBytes c x)) then s else
  let src := s.mem.tensor k.src
  let dst := s.mem.tensor k.dst
  let me := s.fabric.position.toNat
  let s := if s.combining c then s else (s.expertRows c).zipIdx.foldl (fun s e =>
    if e.1.1 = me then s.moveRow c me (src.rowSpans (entryToken e.1.2, 0, 0)) (dst.rowSpans (e.2, 0, 0)) else s) s
  let taken := fun (e : Nat × Nat) => e.1 / 2 ^ 48 = c && due.any fun x => x.1 ≤ e.1 % 2 ^ 48 && e.1 % 2 ^ 48 < x.1 + x.2
  let f := { s.fabric with
    colls := s.fabric.colls.filter fun j => !k.same j
    rows := s.fabric.rows.filter fun e => !taken e
    combine := Tab.put s.fabric.combine c (!s.combining c) }
  let f := if s.combining c then
      { f with dispatch := f.dispatch.filter fun d => d.1 / 2 ^ 15 ≠ c, listed := f.listed.filter fun d => d.1 / 2 ^ 15 ≠ c }
    else f
  ({ s with fabric := f }).onTask c k.slot k.task fun t => { t with finished := true }

/-- Every collective that can move does. -/
def State.pollColls (s : State) : State :=
  (s.fabric.colls.filter fun k => k.op = 3).foldl State.tryExchange s.drainEarly

/-! ### Starting (R255, R278, R341) -/

/-- Count the bytes of a working copy gathered again in a step (R237). -/
def State.countGather (s : State) (k : Collective) (p : CollPlan) : State :=
  match s.plan k.ctx with
  | none => s
  | some q =>
    if k.op ≠ 1 then s else
    match q.p.layers.find? fun u => uWc u = (s.mem.tensor k.src).base with
    | none => s
    | some u =>
      let key := uLayer u * 4096 + uExpert u
      let again := Tab.get 0 (s.ctx k.ctx).gathered key = k.step && !q.p.keep.contains key
      let s := s.onCtx k.ctx fun x => { x with gathered := Tab.put x.gathered key k.step }
      if again then s.countCtx k.ctx cRegather (p.segs.foldl (fun n g => n + p.w * g.cells.length) 0) else s

/-- Cells of the destination that a collective writes on this member: of a reduction its own, else every one (R288). -/
def CollPlan.writes (p : CollPlan) (op : Nat) : List (Nat × Nat) :=
  if p.land.isSome then [] else (p.segs.filter fun g => op ≠ 0 || g.owner = p.me).flatMap fun g => g.cells.filterMap fun i => (p.dst i).map fun a => (a, p.w)

/-- A ring collective starts: the member sends the partial sums that it starts and, in a gather, its own region. -/
def State.startRing (s : State) (k : Collective) (p : CollPlan) : State :=
  let reduces := k.op = 0 || k.op = 2
  let mine := p.segs.filter fun g => if reduces then p.n = 1 || p.starter g = p.me else g.owner = p.me
  let rs := mine.flatMap p.region
  s.guarded k.ctx ⟨8, 0⟩ ((s.checkReads k.ctx rs).orElse (s.checkWrites k.ctx (p.writes k.op))) fun s =>
    let s := s.noteReads rs
    let s := { s with fabric := { s.fabric with colls := s.fabric.colls ++ [k] } }
    let s := (s.onTask k.ctx k.slot k.task fun t => { t with joined := true }).countGather k p
    let s := mine.foldl (fun s g =>
      let bs := p.localBytes s.mem g
      if p.n = 1 then s.deliver k p g bs
      else if reduces then s.sendSeg k p 0 g bs
      else (s.deliver k p g bs).sendSeg k p 1 g bs) s
    (s.settleColl k p).drainEarly

/-- A transfer: its source's bytes as WRITE frames, the remote fence on the last (R341). -/
def State.startXfer (s : State) (c slot t : Nat) (r : Rec) : State :=
  let src := s.mem.tensor (r.field 1 47 0)
  let dst := r.field 1 62 48
  let base := r.field 2 47 0
  let rs := src.storedBytes.map fun a => (a, 1)
  s.guarded c ⟨8, 0⟩ (s.checkReads c rs) fun s =>
    let s := s.noteReads rs
    let bs := src.storedBytes.map s.mem.byte
    let fence := if r.field 3 63 63 = 1 then 2 ^ 63 + r.field 3 62 49 * 2 ^ 49 else 0
    let ps := cutPayload bs
    if dst = s.fabric.position.toNat then
      let s := s.guarded c ⟨8, 0⟩ (s.checkWrite c base bs.length) fun s => s.write base bs
      let f := r.field 3 62 49
      let s := if r.field 3 63 63 = 1 && s.holds c f then s.signal f 1 else s
      s.onTask c slot t fun x => { x with joined := true, finished := true }
    else
      let s := s.sendMessage c dst clsData 0x01 1 none (ps.zipIdx.map fun x =>
        (BitVec.ofNat 64 (base + x.1.1 + if x.2 + 1 = ps.length then fence else 0), x.1.2))
      let last := (s.txStream clsData dst).next - 1
      (s.setTx clsData dst { s.txStream clsData dst with tasks := (s.txStream clsData dst).tasks ++ [(last, c, slot, t)] }).onTask c slot t
        fun x => { x with joined := true }

/-- An ALL_TO_ALL starts: its rows go out once its own lists have ended. -/
def State.startExchange (s : State) (k : Collective) : State :=
  if !s.listsOut k.ctx then s else
  let src := s.mem.tensor k.src
  s.guarded k.ctx ⟨8, 0⟩ ((s.checkReads k.ctx src.hull).orElse (s.checkWrites k.ctx (s.mem.tensor k.dst).hull)) fun s =>
    let s := s.noteReads src.hull
    let s := { s with fabric := { s.fabric with colls := s.fabric.colls ++ [k] } }
    ((s.onTask k.ctx k.slot k.task fun t => { t with joined := true }).sendRows k).tryExchange k

/-- The layer whose working copy a collective gathers: a gather over the shard group whose source begins at WC_BASE (R235). -/
def State.gatherOf (s : State) (k : Collective) : Option (Plan × Rec) :=
  if k.op ≠ 1 || s.groupCut k.ctx k.group ≠ some (0, false) then none else
  (s.plan k.ctx).bind fun q => (q.p.layers.find? fun u => uWc u = (s.mem.tensor k.src).base).map fun u => (q, u)

/-- Every owner of a shard of the layer has signalled its update-complete fence for step `n` (R21). -/
def State.ownersDone (s : State) (c : Nat) (q : Plan) (u : Rec) (n : Nat) : Bool :=
  ((layerRuns q.p.layout q.p.stats q.p.shardMap u).map (·.1)).eraseDups.all fun o =>
    decide (n ≤ if o = q.me then Tab.get 0 (s.ctx c).signalled (uLayer u)
      else Tab.get 0 (s.ctx c).ownerDone (uLayer u * 2 ^ 15 + s.cutMember q.p.layout (0, false) o))

/-- Place in forward order of the layer that the arrays work on: the one whose gathered copy the oldest task not yet fed reads (R237). -/
def State.workPlace (s : State) (c : Nat) (p : Program) : Option Nat :=
  let gathers := (p.grids.flatMap fun g => if g.field 0 63 60 ≠ 3 then [] else (List.range (gridTasks g)).map fun t => s.mem.task g t).filter
    fun t => t.field 1 51 48 = 1
  (s.unfed c).bind fun x =>
    let spans := (s.mem.tensor (gridArgA x.1.desc)).hull ++ (s.mem.tensor (gridArgB x.1.desc)).hull
    let hit := gathers.find? fun t => (s.mem.tensor (t.field 2 47 0)).hull.any fun a => spans.any fun b => overlaps a.1 a.2 b.1 b.2
    hit.bind fun t => (stageOrder p).findIdx? fun u => uWc u = (s.mem.tensor (t.field 1 47 0)).base

/-- A gather may start: its layer's owners have signalled the step before, and the layer lies at most GATHER_AHEAD layers ahead of the one
that the arrays work on; with interleaved virtual stages it starts at its first use (R21, R237). -/
def State.mayGather (s : State) (k : Collective) : Bool :=
  match s.gatherOf k with
  | none => true
  | some (q, u) =>
    let ahead := if q.p.placement.field 0 63 62 = 2 && q.p.placement.field 0 61 58 ≠ 0 then 0 else q.p.placement.field 0 51 48
    s.ownersDone k.ctx q u (k.step - 1) &&
    match s.workPlace k.ctx q.p, (stageOrder q.p).findIdx? fun v => uLayer v = uLayer u && uExpert v = uExpert u with
    | some w, some i => decide (i ≤ w + ahead)
    | _, _ => true

/-- Ranges that a task stores to. -/
def Mem.taskStores (m : Mem) (g : Rec) (t : Nat) : List (Nat × Nat) :=
  let r := m.task g t
  let chain := fun (a : Nat) => let v := m.vx a; (v.dsts.take v.ndst).flatMap Tensor.hull
  match gridKind (g.field 0 63 60) with
  | some .mxa => if (taskCtl r).fin then chain (r.field 6 47 0) else []
  | some .vxu => chain (r.field 1 47 0)
  | some .copy => (m.tensor ((m.record (r.field 1 47 0) 8).field 2 47 0)).hull
  | _ => []

/-- A task of the program's grid `i` has completed in step `n`. -/
def Ctx.taskDone (x : Ctx) (p : Program) (i t n : Nat) : Bool :=
  match x.grids.find? fun g => g.slot = p.baseSlot + i && g.step = some n with
  | some g => g.done.contains t
  | none => decide (n < x.started) || decide (i < x.nextGrid)

/-- Every contribution of a step to a range has been added: the step's tasks that store to it have completed (R211). -/
def State.contributed (s : State) (c n a len : Nat) : Bool :=
  (s.ctx c).program.all fun p => p.grids.zipIdx.all fun g => (List.range (gridTasks g.1)).all fun t =>
    !((s.mem.taskStores g.1 t).any fun r => overlaps r.1 r.2 a len) || (s.ctx c).taskDone p g.2 t n

/-- A reduction over the D ring of a layer's accumulation buffer starts only after the last contribution has been added (R211). -/
def State.mayReduce (s : State) (k : Collective) : Bool :=
  match s.plan k.ctx, s.groupCut k.ctx k.group with
  | some q, some cut =>
    if k.op = 1 || cut.1 ≠ 0 then true else
    match q.p.layers.find? fun u => uAcc u = (s.mem.tensor k.src).base with
    | some u => s.contributed k.ctx k.step (uAcc u) (4 * layerElems q.p.stats u)
    | none => true
  | _, _ => true

/-- The collective engines take up new work: not while an input cut holds them, or a sleep state (R400, R416). -/
def State.collRuns (s : State) : Bool := s.power.pstate = .run

/-- COLLECTIVE_START (R278): a COLL or XFER task whose waits are satisfied; the collectives of a group run one after another. -/
def State.collectiveStart (s : State) (c slot t : Nat) : State :=
  match (s.ctx c).grid? slot with
  | none => s
  | some g =>
    if !s.eligible c g t || (g.task t).joined || !s.collRuns then s else
    let r := s.mem.task g.desc t
    match g.kind with
    | some .xfer => s.startXfer c slot t r
    | some .coll =>
      let k : Collective := { ctx := c, slot := slot, task := t, group := r.field 1 63 52, op := r.field 1 51 48, src := r.field 1 47 0
                              dst := r.field 2 47 0, step := g.step.getD ((s.ctx c).step.toNat + 1) }
      if s.fabric.colls.any k.same || !s.mayGather k || !s.mayReduce k then s else
      if k.op = 3 then s.startExchange k else
      match s.collPlan k with
      | none => s.onTask c slot t fun x => { x with joined := true, finished := true }
      | some p =>
        let room := match p.land with | some (q, u) => p.segs.all fun x => p.n ≠ 1 || s.canLandSeg c k.step q u x | none => true
        if room then s.startRing k p else s
    | _ => s

def execCollectiveStart (ctx : Fin 64) (slot task : Nat) (s : State) : Host.Outcome State Fault Refusal :=
  .next (s.collectiveStart ctx.val slot task)

/-! ### DISPATCH_ACCEPT (R121) -/

/-- The collective engine takes an entry for a destination: its own list, or a DISPATCH frame at its place in the list. -/
def State.takeEntry (s : State) (c dst : Nat) (w : W64) : State :=
  let key := c * 2 ^ 15 + dst
  let i := (Tab.get [] s.fabric.listed key).length
  let s := { s with fabric := { s.fabric with listed := Tab.modify [] s.fabric.listed key (· ++ [w]) } }
  if dst = s.fabric.position.toNat then
    { s with fabric := { s.fabric with dispatch := Tab.modify [] s.fabric.dispatch key (· ++ [(i, w)]) } }
  else s.sendMessage c dst clsData 0x05 2 none [(BitVec.ofNat 64 (8 * i), le 8 w.toNat)]

/-- Entries of a run that the collective engine has taken, also before its chain was restarted on another VXU. -/
def State.acceptedOf (s : State) (r : VxuRun) : Nat :=
  match (s.ctx r.ctx).grid? r.slot with
  | some g => Tab.get 0 (g.task r.task).accepted r.pos
  | none => 0

/-- The collective engine takes the next entry of a run; an entry that a restarted chain forms again is in its list already (R26, R102). -/
def State.acceptEntry (s : State) (r : VxuRun) (dst : Nat) (w : W64) : State :=
  if r.sent < s.acceptedOf r then s
  else (s.onTask r.ctx r.slot r.task fun t => { t with accepted := Tab.put t.accepted r.pos (r.sent + 1) }).takeEntry r.ctx dst w

/-- DISPATCH_ACCEPT: the oldest stalled task's next entry; after the last the task is done. -/
def execDispatchAccept (vxu : Fin 192) (s : State) : Host.Outcome State Fault Refusal :=
  .next (whenReady ((s.array vxu.val).runs.find? VxuRun.stalls) (fun r =>
    match r.queue with
    | [] => s
    | (dst, w) :: rest =>
      let t := (s.acceptEntry r dst w).onArray vxu fun y => { y with stalled := 0 }
      let r := { r with queue := rest, sent := r.sent + 1 }
      if rest.isEmpty && decide ((t.vxShape r (vxTask r.words)).rows ≤ r.row) then t.closeRun vxu r else t.keepRun vxu r) s)

/-! ### HOP_ACK_INTERVAL (R255) -/

/-- A port that owes acknowledgements and has sent no frame to carry them sends CREDIT; held segments, waiting frames and exchanges are
tried again. -/
def execHopAckInterval (port : Fin 32) (s : State) : Host.Outcome State Fault Refusal :=
  let s := s.handleLost.pollColls.injectAll
  .next (if (s.port port.val).state = .up && (s.port port.val).ackOwed then s.sendCredit port.val else s)

end Sys2Proof.Machine
end

