-- ==== Sys2Proof/Machine/Steps.lean ====
section
/-!
DEFINITION. Steps and tasks: GRID_SUBMIT (R344), the completion of tasks with the COPY (R316, R343), the start and the boundary of a step
(R19, R349), the refresh schedule (R179, R180), step control (R350, R351) and the fence commands (R346 to R348).
-/
namespace Sys2Proof.Machine

open Sys2Proof

/-! ### GRID_SUBMIT (R344) -/

/-- The load checks' view of a loaded program: its own groups. -/
def State.loadedEnv (s : State) (c : Nat) (p : Program) : TaskEnv :=
  { s.taskEnv p with groups := (s.fabric.groups.filter fun e => e.2.field 0 35 30 = c).map (·.1) }

/-- The lowest free one-shot slot of a context. -/
def State.freeGridSlot (s : State) (c : Nat) : Option Nat :=
  match (s.ctx c).program with
  | none => none
  | some p => ((List.range p.oneShot).map fun i => p.baseSlot + p.grids.length + i).find? fun k => ((s.ctx c).grid? k).isNone

def execGridSubmit (h : KcpHdr) (grid : W64) (s : State) : Host.Outcome State Fault Refusal :=
  .next <| KcpCmd.arrive
    { opcode := 0x0404, need := .ctx, cls := .held
      checks := fun s =>
        let c := hctx h
        let x := s.ctx c
        let a := grid.toNat
        let g := s.mem.record a 8
        let place := badAddrParam grid || a % 64 ≠ 0 || !x.covers a 64
        let form := match x.program with
          | none => false
          | some p => (s.mem.poisonIn a 64).isNone && !(gridFails s.mem x (s.loadedEnv c p) g 0).isEmpty
        let bad := place || form
        [(bad, .badParam), ((s.mem.poisonIn a 64).isSome, .fenced),
         (!x.settled || (x.program.isSome && (s.freeGridSlot c).isNone), .busy)]
      effect := fun s =>
        let c := hctx h
        match s.freeGridSlot c with
        | none => ⟨s, .busy, []⟩
        | some k => done (s.submit c k (s.mem.record grid.toNat 8) none) (be 2 k ++ be 2 0 ++ be 4 (s.ctx c).gseq.toNat) }
    (.gridSubmit h grid) h s

/-! ### COPY (R316) -/

/-- Source index of a destination index. -/
def copyIndex (p : List Nat) (i : Idx) : Idx :=
  let at' := fun (k : Nat) => ([i.1, i.2.1, i.2.2.1, i.2.2.2].zip p).foldl (fun r x => if x.2 = k then x.1 else r) 0
  (at' 0, at' 1, at' 2, at' 3)

/-- An MX block as an equal-format copy stores it: as it is, unless an element of it is NaN, which makes the canonical NaN block (R33). -/
def copyBlock (f : Fmt) (scale : Nat) (codes : List Nat) : Nat × List Nat × Nat :=
  if codes.any fun c => (mxValue f scale c).isNan then (255, codes.map fun _ => 0, fNan) else (scale, codes, 0)

/-- One run of a copy along destination dimension 0. Equal formats need no conversion, but a NaN becomes canonical and sets NAN_IN (R33). -/
def Mem.copyRun (m : Mem) (src dst : Tensor) (p : List Nat) (i : Nat × Nat × Nat) : Mem × Nat :=
  let is := (List.range (dst.e 0)).map fun k => copyIndex p (k, i)
  match eFmt dst.fmt with
  | some (.mx f _) =>
    if src.fmt = dst.fmt && p.getD 0 0 = 0 then
      (List.range dst.blocks0).foldl (fun r k =>
        let x := copyBlock f (m.byte (src.scaleAddr (copyIndex p (32 * k, i)))).toNat (((is.drop (32 * k)).take 32).map (m.rawElem src))
        ((r.1.writeCodes dst.bits (dst.bitAddr (32 * k, i)) x.2.1).write (dst.scaleAddr (32 * k, i)) [BitVec.ofNat 8 x.1], r.2 ||| x.2.2)) (m, 0)
    else m.storeRun dst (0, i) (is.map (m.elem src))
  | some (.float f _) =>
    if src.fmt = dst.fmt then
      let cs := is.map fun k => if (m.elem src k).isNan then (f.nanCode, fNan) else (m.rawElem src k, 0)
      (m.writeCodes dst.bits (dst.bitAddr (0, i)) (cs.map (·.1)), cs.foldl (fun g c => g ||| c.2) 0)
    else m.storeRun dst (0, i) (is.map (m.elem src))
  | _ => m.storeRun dst (0, i) (is.map (m.elem src))

/-- Move a tensor; the status word comes last. Its reads and writes take tokens (R297). -/
def State.copyTask (s : State) (c slot t a : Nat) : State :=
  let d := s.mem.record a 8
  let src := s.mem.tensor (d.field 1 47 0)
  let dst := s.mem.tensor (d.field 2 47 0)
  let p := copyPerm d
  let rs := (a, 64) :: (d.field 1 47 0, 64) :: (d.field 2 47 0, 64) :: src.hull
  s.guarded c ⟨2, 0⟩ ((s.checkReads c rs).orElse (s.checkWrites c dst.hull)) fun s =>
    let s := (s.engineReads c true rs).takeTokens c true dst.hull
    let runs := (List.range (dst.e 3)).flatMap fun k => (List.range (dst.e 2)).flatMap fun j => (List.range (dst.e 1)).map fun i => (i, j, k)
    let r := runs.foldl (fun (r : Mem × Nat) i => let x := r.1.copyRun src dst p i; (x.1, r.2 ||| x.2)) (s.mem, 0)
    let word := r.2 ||| (if s.wouldCapture c r.2 then fCaptured else 0)
    let s := { s with mem := r.1 }
    let s := s.flagEvent c r.2 { unitKind := 2, unitIndex := 0, grid := slot, task := t }
    let s := { s with mem := s.mem.putStatus dst.status word }
    s.completeTask c slot t

/-! ### TASK_COMPLETE (R343) -/

/-- The task's work has ended. -/
def State.taskEnded (s : State) (g : GridRun) (t : Nat) : Bool :=
  let r := s.mem.task g.desc t
  let x := g.task t
  match g.kind with
  | some .mxa =>
    let k := taskCtl r
    if k.fin then decide (k.tiles ≤ x.vxuDone) else (List.range k.tiles).all fun b => decide (k.runs ≤ Tab.get 0 x.ended b)
  | some .vxu | some .coll | some .xfer => x.finished
  | some .copy | some .fence => true
  | none => false

def State.taskComplete (s : State) (c slot t : Nat) : State :=
  let s := s.pollColls
  match (s.ctx c).grid? slot with
  | none => s
  | some g =>
    if !(s.eligible c g t && s.taskEnded g t) then s else
    match g.kind with
    | some .copy => if s.paid c && s.dmaRuns 0 then s.copyTask c slot t ((s.mem.task g.desc t).field 1 47 0) else s
    | _ => s.completeTask c slot t

def execTaskComplete (ctx : Fin 64) (slot task : Nat) (s : State) : Host.Outcome State Fault Refusal :=
  .next (s.taskComplete ctx.val slot task)

/-! ### Refresh schedule (R179, R180) -/

/-- Engine cycles of a refresh (R166, R179). -/
def refreshCost (b p : Nat) (trim damped cold : Bool) (iters : Nat) : Nat :=
  let ps := if trim then 3 else 4
  let q := if b = 128 then 128 * ps else (b / 256) * (b / 256) * b * ps
  let sg := b * b / 256
  let sq := Nat.log2 p
  let nb := (b + 255) / 256
  if damped then
    let cf := 4096 * nb + (nb * (nb - 1) / 2 + (nb - 1) * nb * (nb + 1) / 6) * 256 * ps
    let cs := (nb * (nb + 1) / 2 + (nb - 1) * nb * (nb + 1) / 6 + nb * nb + nb * nb * (nb - 1) / 2) * 256 * ps
    let cr := 1024 * nb * nb * nb + sg + nb * nb * (nb + 1) * 256 * ps
    cf + cs + 2 * cr
  else sg + (if cold then 2 + (sq + 1) + (iters - 2) * (sq + 2) + 1 else (sq + 1) + (iters - 1) * (sq + 2) + 1) * q

/-- A factor block in the schedule: descriptor index, side, block. -/
abbrev FactorRef := Nat × Nat × Nat

/-- Insert a descriptor by LAYER, then EXPERT. -/
def insertDesc (x : Rec × Nat) : List (Rec × Nat) → List (Rec × Nat)
  | [] => [x]
  | y :: r =>
    if uLayer x.1 * 4096 + uExpert x.1 < uLayer y.1 * 4096 + uExpert y.1 then x :: y :: r else y :: insertDesc x r

/-- Factor blocks of a program in table order. -/
def Program.factorRefs (p : Program) : List (Rec × FactorRef) :=
  ((p.stats.zipIdx.reverse.foldr insertDesc []).flatMap fun d => [0, 1].flatMap fun side =>
    (List.range (sFactors d.1 side)).map fun q => (d.1, d.2, side, q))

/-- Put a refresh on the least loaded virtual engine, if its budget allows. -/
def placeRefresh (n budget : Nat) (r : List Nat × List Refresh) (x : FactorRef × Nat) : List Nat × List Refresh :=
  let v := (List.range 8).foldl (fun b i => if r.1.getD i 0 < r.1.getD b 0 then i else b) 0
  let a := r.1.getD v 0
  if decide (a + x.2 ≤ budget) || a = 0 then
    (r.1.set v (a + x.2), r.2 ++ [{ step := n, engine := v, layer := x.1.1, side := x.1.2.1, block := x.1.2.2 }])
  else r

/-- The newest complete header of a factor block up to step `n` (R142, R180). -/
def Mem.headUpTo (m : Mem) (d : Rec) (side q n : Nat) : FactorHead :=
  let a := m.factorHead (factorAddr d side q (n % 2))
  let b := m.factorHead (factorAddr d side q ((n + 1) % 2))
  let ok := fun (h : FactorHead) => h.complete && decide (h.step ≤ n)
  if ok a && (!ok b || decide (b.step ≤ a.step)) then a else b

/-- Schedule the refreshes of step `n` at the boundary before it. A refresh that is still to complete counts as the block's root, so that the
schedule never depends on timing (R180; log entry 112). -/
def State.scheduleRefreshes (s : State) (c n : Nat) : State :=
  match s.plan c with
  | none => s
  | some plan =>
    let root := plan.p.root
    let trim := root.field 0 61 61 = 1
    let p := 2 ^ root.field 0 63 62
    let pending := fun (x : Rec × FactorRef) => s.rootPending c x.2.1 x.2.2.1 x.2.2.2 n
    let cost := fun (x : Rec × FactorRef) =>
      let damped := (plan.layer? (uLayer x.1) (uExpert x.1)).any fun u => uMode u = 1
      let tag := s.mem.tagAt (factorAddr x.1 x.2.2.1 x.2.2.2 ((n + 1) % 2))
      let warm := pending x || (s.mem.newestRoot x.1 x.2.2.1 x.2.2.2).any fun k =>
        let h := s.mem.rootHead (rootAddr x.1 x.2.2.1 x.2.2.2 k)
        h.tag = tag && fieldOf h.w3 62 61 = root.field 0 63 62 && fieldOf h.w3 60 60 = bit01 damped
      refreshCost (sBlock x.1 x.2.2.1) p trim damped (!warm) (if warm then root.field 0 54 50 else root.field 0 60 55)
    let rooted := fun (x : Rec × FactorRef) => pending x || (s.mem.newestRoot x.1 x.2.2.1 x.2.2.2).isSome
    let key := fun (x : FactorRef) => blockKey x.1 x.2.1 x.2.2
    let ripe := fun (x : Rec × FactorRef) => decide (sWarmup x.1 ≤ (s.mem.headUpTo x.1 x.2.2.1 x.2.2.2 (n - 1)).absorbed)
    let due := fun (x : Rec × FactorRef) => decide (root.field 0 49 40 + 1 ≤ n - Tab.get 0 (s.ctx c).stats.lastSched (key x.2))
    let refs := plan.p.factorRefs
    let list := (refs.filter fun x => !rooted x && ripe x) ++ refs.filter fun x => rooted x && due x
    let r := (list.map fun x => (x.2, cost x)).foldl (placeRefresh n (root.field 0 39 24 * 2 ^ 16)) (List.replicate 8 0, [])
    s.onCtx c fun y => { y with stats := { y.stats with
      schedule := y.stats.schedule ++ r.2, scheduled := n
      lastSched := r.2.foldl (fun t f => Tab.put t (blockKey f.layer f.side f.block) n) y.stats.lastSched } }

/-- Schedule the refreshes that are due at a context's boundaries. Firmware does it: while the control core restarts it waits (R180, R370). -/
def State.scheduleDue (s : State) (c : Nat) : State :=
  let x := s.ctx c
  if !s.firmware then s else
  (List.range (x.step.toNat + 1 - x.stats.scheduled)).foldl (fun s i => s.scheduleRefreshes c (x.stats.scheduled + 1 + i)) s

/-- Factor resets up to step `n`: VALID of both root buffers is cleared, but of a root whose refresh was scheduled after the reset. A late
absorption's reset is met at the first boundary after it (R143, R183). -/
def State.resetRoots (s : State) (c n : Nat) : State :=
  match (s.ctx c).program with
  | none => s
  | some p => p.factorRefs.foldl (fun s x =>
      let r := Tab.get 0 (s.ctx c).stats.resets (blockKey x.2.1 x.2.2.1 x.2.2.2)
      if r = 0 || n < r then s else
      [0, 1].foldl (fun (s : State) k =>
        let a := rootAddr x.1 x.2.2.1 x.2.2.2 k
        if (s.mem.rootHead a).valid && decide ((s.mem.rootHead a).step ≤ r) then { s with mem := s.mem.invalidate a } else s) s) s

/-! ### STEP_START (R344, R349) -/

/-- The next step may start: the last one's grids are all submitted, and no one-shot grid is left. -/
def Ctx.mayStart (x : Ctx) : Bool :=
  (x.state = .running || x.state = .holding) && decide (0 < x.runLeft.toNat) && !(x.grids.any fun g => g.step.isNone) &&
  (decide (x.started = x.step.toNat) || (x.program.elim true fun p => decide (p.grids.length ≤ x.nextGrid)))

/-- Regions whose folds the Fused Update Units recompute in a step (R375, R392). -/
def State.checksPerStep (s : State) (c : Nat) : Nat :=
  (s.plan c).elim 0 fun q => q.p.recovery.elim 0 fun r => (q.regions + r.field 0 43 36 - 1) / max 1 (r.field 0 43 36)

/-- STEP_START; a context whose RUN_LEFT reaches 0 holds at the boundary of the step (R351). -/
def execStepStart (ctx : Fin 64) (s : State) : Host.Outcome State Fault Refusal :=
  .next (onlyIf (s.ctx ctx.val).mayStart (fun s =>
    (s.onCtx ctx fun x =>
      let n := x.started + 1
      let last := x.runLeft = 1
      { x with started := n, runLeft := x.runLeft - 1, nextGrid := 0, state := if last then .holding else x.state
               holdStep := if last then some n else x.holdStep
               folds := { x.folds with checkDue := x.folds.checkDue + s.checksPerStep ctx } }).submitGrids ctx) s)

/-! ### STEP_BOUNDARY (R19) -/

/-- K_late in force (R16, R196). -/
def Ctx.kLate (x : Ctx) : Nat := if x.service = .normal then 0 else x.program.elim 0 fun p => p.update.field 0 59 56

/-- The boundary of step `n` is reached. -/
def Ctx.atBoundary (x : Ctx) (n : Nat) : Bool :=
  (x.state = .running || x.state = .holding) && decide (n ≤ x.started) && !(x.grids.any fun g => g.step = some n) &&
  (match x.program with
   | none => false
   | some p =>
     (decide (n < x.started) || decide (p.grids.length ≤ x.nextGrid)) && x.shards.all (fun t => decide (n ≤ t.step + x.kLate)) &&
     p.actBlocks.all fun y => decide (n ≤ x.absorbedStep y.1 y.2.2.1 y.2.2.2))

/-- Enter HELD and send STEP_HELD. -/
def State.enterHeld (s : State) (c : Nat) : State :=
  let s := s.onCtx c fun x => { x with state := .held, holdStep := none, runLeft := 0 }
  -- blocks at a label step have their folds copied as the context holds (R393)
  let s := match s.plan c with
    | none => s
    | some q => (s.ctx c).shards.foldl (fun (s : State) (t : Shard) =>
        match q.layer? t.layer t.expert with
        | none => s
        | some u => (List.range t.count).foldl (fun s i => s.copyLabel c q u (t.first + i) (Tab.get ({} : Block) t.blocks (t.first + i)).step) s) s
  match s.slotOf (s.ctx c).holdSess with
  | some slot => s.notify slot 0x05F1 (BitVec.ofNat 8 c) (be 8 (s.ctx c).step.toNat)
  | none => s

/-- What a boundary changes in the context. -/
def Ctx.closeStep (x : Ctx) (n : Nat) : Ctx :=
  let over' := fun (k : Nat) => decide (n < keyStep k)
  let slow := x.shards.any fun t => t.inCistern || !t.late.isEmpty
  { x with
    step := BitVec.ofNat 64 n
    service := if slow then x.service else .normal
    -- the end of a rebuild elsewhere shows as normal service (log entry 42)
    recovery := if slow then x.recovery else { x.recovery with lost := [] }
    stats := { x.stats with kept := x.stats.kept.filter fun e => over' e.1, groups := x.stats.groups.filter fun e => over' e.1
                            tapped := x.stats.tapped.filter fun e => over' e.1 }
    shards := x.shards.map fun t => { t with blocks := Tab.mapAll t.blocks fun _ b => if b.step ≤ n then { b with ahead := false } else b } }

/-- STEP_BOUNDARY: the counter takes the step, roots of reset factors go, the refreshes of the next step are scheduled, and a hold takes
effect (R19, R31, R143, R180, R351, R384, R395). -/
def execStepBoundary (ctx : Fin 64) (s : State) : Host.Outcome State Fault Refusal :=
  let c := ctx.val
  let n := (s.ctx c).step.toNat + 1
  .next (onlyIf ((s.ctx c).atBoundary n) (fun s =>
    let s := (s.resetRoots c n).onCtx c fun x => x.closeStep n
    let s := s.scheduleDue c
    let s := if (s.ctx c).folds.holdNext then
        s.onCtx c fun x => { x with state := .holding, runLeft := 0, holdStep := some x.started, folds := { x.folds with holdNext := false } }
      else s
    if (s.ctx c).state = .holding && (s.ctx c).holdStep.all fun k => decide (k ≤ n) then s.enterHeld c else s) s)

/-! ### Step control (R350, R351) -/

/-- The host has changed the Expert Table of a held context: the table is read again, and experts that moved to this module are received
(R243). What they hold comes from other modules (log entry 38). -/
def State.rereadExperts (s : State) (c : Nat) : State :=
  match s.plan c with
  | none => s
  | some q =>
    let a := q.p.placement.field 4 47 0
    let n := q.p.experts.length
    if !(s.ctx c).rewritten.any fun r => overlaps a (4 * n) r.1 r.2 then s else
    let me := s.fabric.position.toNat
    let here := fun (s : State) (x : Nat) => x ≠ 0xFFF && fieldOf ((((s.ctx c).program.map (·.experts)).getD []).getD x 0) 31 31 = 1 && s.expertHome c x = me
    let t := s.onCtx c fun x => { x with program := x.program.map fun p => { p with experts := s.mem.words32 a n } }
    let moved := fun (x : Nat) => here t x && !here s x
    let t := (q.ownedBlocks.filter fun y => moved (uExpert y.1)).foldl (fun (t : State) y =>
      let ss := q.stateSpans y.1 y.2
      let t := ({ t with mem := t.mem.writeSpans ss 0 (t.peerBytes (spanBytes ss)) }).drawn
      (t.refold c q y.1 y.2).emitBlock c q y.1 y.2 ((s.ctx c).step.toNat + 1)) t
    (q.p.stats.filter fun d => moved (uExpert d)).foldl (fun t d => t.peerStorage d false) t

/-- The host has replaced the Update Context Record or an Update Layer Descriptor of a held context: what it wrote is read again, and every
working copy and fold follows it. A replacement that R198 would refuse, or that would cut
the owned shards otherwise, leaves the records in force (R199; log entry 110). -/
def State.rereadUpdate (s : State) (c : Nat) : State :=
  match s.plan c with
  | none => s
  | some q =>
    let hit := q.p.updateRanges.any fun r => (s.ctx c).rewritten.any fun w => overlaps r.1 r.2 w.1 w.2
    let p := { q.p with update := ((s.mem.items q.p.dir 3)[0]?).getD q.p.update, layers := s.mem.items q.p.dir 4 }
    let n : Plan := ⟨p, q.me⟩
    let x := s.ctx c
    if !hit || (p.update = q.p.update && p.layers = q.p.layers) then s else
    if !(updateFails x p ++ undoFails n ++ p.layers.zipIdx.flatMap (fun u => layerFails x n u.1 u.2) ++ overlapFails n.buffers).isEmpty ||
        (n.shards.map fun t => (t.layer, t.expert, t.first, t.count)) ≠ x.shards.map fun t => (t.layer, t.expert, t.first, t.count) then s else
    let s := s.onCtx c fun y => { y with program := y.program.map fun k => { k with update := p.update, layers := p.layers } }
    n.ownedBlocks.foldl (fun (s : State) y => (s.refold c n y.1 y.2).emitBlock c n y.1 y.2 (x.step.toNat + 1)) s

/-- Folds and working copies over what the host rewrote while the context was held (R199, R392). -/
def State.remakeRewritten (s : State) (c : Nat) : State :=
  match s.plan c with
  | none => s
  | some q =>
    let rs := (s.ctx c).rewritten
    let hit := fun (ss : List (Nat × Nat)) => ss.any fun x => rs.any fun r => overlaps x.1 x.2 r.1 r.2
    let s := (s.ctx c).shards.foldl (fun (s : State) (t : Shard) =>
      match q.layer? t.layer t.expert with
      | none => s
      | some u => (List.range t.count).foldl (fun s i =>
          let b := t.first + i
          let s := if hit (q.stateSpans u b) then s.refold c q u b else s
          if hit ((q.stateSpans u b).take 1) then s.emitBlock c q u b ((Tab.get {} t.blocks b).step + 1) else s) s) s
    s.onCtx c fun x => { x with rewritten := [] }

def execStepRun (h : KcpHdr) (count : W32) (s : State) : Host.Outcome State Fault Refusal :=
  .next <| KcpCmd.arrive
    { opcode := 0x0501, need := .ctx, cls := .stepControl
      checks := fun s => [(count = 0, .badParam), ((s.ctx (hctx h)).program.isNone, .notReady)]
      effect := fun s =>
        let c := hctx h
        let t := s.onCtx c fun x => { x with state := .running, holdStep := none, holdSess := h.session
                                             runLeft := BitVec.ofNat 32 (min (2 ^ 32 - 1) (x.runLeft.toNat + count.toNat)) }
        -- an uncorrectable error met while the working copies are made again purges the context (R300)
        done (if (s.ctx c).state = .held then ((t.rereadUpdate c).rereadExperts c).remakeRewritten c else t) }
    (.stepRun h count) h s

def execStepHold (h : KcpHdr) (atStep : W64) (s : State) : Host.Outcome State Fault Refusal :=
  .next <| KcpCmd.arrive
    { opcode := 0x0502, need := .ctx, cls := .stepControl
      checks := fun s =>
        let x := s.ctx (hctx h)
        let live := x.state = .running || x.state = .holding
        [(live && atStep ≠ 0 && (decide (atStep.toNat < x.started) || decide (2 ^ 32 - 1 < atStep.toNat - x.started)), .badParam),
         (x.program.isNone, .notReady)]
      effect := fun s =>
        let c := hctx h
        let x := s.ctx c
        if x.state = .loaded || x.state = .held then done s (be 8 x.step.toNat) else
        let k := if atStep = 0 then x.started else atStep.toNat
        let s := s.onCtx c fun x => { x with state := .holding, holdStep := some k, holdSess := h.session, runLeft := BitVec.ofNat 32 (k - x.started) }
        -- the boundary of the last step started may already lie behind
        let s := if k ≤ x.step.toNat then s.enterHeld c else s
        done s (be 8 k) }
    (.stepHold h atStep) h s

/-- Lowest shard step, or the step counter where the module owns no shard. -/
def Ctx.minShardStep (x : Ctx) : Nat :=
  match x.shards with
  | [] => x.step.toNat
  | t :: r => r.foldl (fun m t => min m t.step) t.step

def execStepQuery (h : KcpHdr) (s : State) : Host.Outcome State Fault Refusal :=
  .next <| KcpCmd.arrive
    { opcode := 0x0503, need := .ctx, cls := .query
      effect := fun s =>
        let x := s.ctx (hctx h)
        done s (be 8 x.step.toNat ++ be 8 x.minShardStep ++ be 4 x.runLeft.toNat ++ be 1 (ctxStateCode x.state) ++ be 3 0) }
    (.stepQuery h) h s

/-! ### Fence commands (R346 to R348) -/

/-- A command that names a fence the context does not hold is refused (R348). -/
def fenceCheck (h : KcpHdr) (fence : W16) (s : State) : Check := (decide (16384 ≤ fence.toNat) || !s.holds (hctx h) fence.toNat, .badParam)
def State.fenceAt (s : State) (f : Nat) : Fence := (Tab.find? s.fences f).getD { owner := 0, value := 0, init := 0, stride := 0, host := false }

def execFenceSignal (h : KcpHdr) (fence : W16) (inc : W32) (s : State) : Host.Outcome State Fault Refusal :=
  .next <| KcpCmd.arrive
    { opcode := 0x0504, need := .ctx, cls := .fence
      checks := fun s => [(inc = 0 || decide (2 ^ 31 ≤ inc.toNat), .badParam), fenceCheck h fence s]
      effect := fun s =>
        let t := s.signal fence.toNat inc
        done t (be 4 (t.fenceAt fence.toNat).value.toNat) }
    (.fenceSignal h fence inc) h s

def execFenceQuery (h : KcpHdr) (fence : W16) (s : State) : Host.Outcome State Fault Refusal :=
  .next <| KcpCmd.arrive
    { opcode := 0x0505, need := .ctx, cls := .query
      checks := fun s => [fenceCheck h fence s]
      effect := fun s =>
        let f := s.fenceAt fence.toNat
        done s (be 4 f.value.toNat ++ be 4 f.init.toNat ++ be 2 f.stride.toNat ++ be 2 (bit01 f.host)) }
    (.fenceQuery h fence) h s

/-- FENCE_NOTIFY: the notice follows at once if the target is already reached; a session holds at most 256 pending (R330). -/
def execFenceNotify (h : KcpHdr) (fence : W16) (target : W32) (s : State) : Host.Outcome State Fault Refusal :=
  let full := fun (s : State) => (s.slotOf h.session).any fun k => (s.session? k).any fun x => decide (256 ≤ x.notifies.length)
  let reached := fun (s : State) => fenceReached (s.fenceAt fence.toNat).value target
  .next <| KcpCmd.arrive
    { opcode := 0x0506, need := .ctx, cls := .fence
      checks := fun s => [fenceCheck h fence s, (full s, .busy)]
      effect := fun s => done (match s.slotOf h.session with
        | some k => (match s.session? k with
          | some x => if reached s then s else s.setSession k { x with notifies := x.notifies ++ [(fence.toNat, target)] }
          | none => s)
        | none => s)
      after := fun s => if reached s then
          (match s.slotOf h.session with
           | some k => s.notify k 0x05F0 h.context (be 2 fence.toNat ++ be 2 0 ++ be 4 (s.fenceAt fence.toNat).value.toNat)
           | none => s)
        else s }
    (.fenceNotify h fence target) h s

end Sys2Proof.Machine
end

