-- ==== Sys2Proof/Machine/Folds.lean ====
section
/-!
DEFINITION. Replica consistency: fold self-checks (R392), digests (R393, R394), localisation and repair of divergence (R394 to R396).
What the other members hold reaches the module by transfers that the manual does not lay out: their folds, results and bytes are free
values (log entry 38).
-/
namespace Sys2Proof.Machine

open Sys2Proof

/-! ### Places -/

/-- Replica index of this module (R235). -/
def State.replicaIndex (s : State) (c : Nat) : Nat := ((s.replicas c).idxOf? s.fabric.position.toNat).getD 0

/-- The block that holds a region, with the region's offset in the block's state bytes. -/
def Plan.regionAt (q : Plan) (r : Nat) : Option (Rec × Nat × Nat) :=
  (q.ownedBlocks.find? fun x => decide (q.firstRegion x.1 x.2 ≤ r) && decide (r < q.firstRegion x.1 x.2 + q.blockRegions x.1 x.2)).map fun x =>
    (x.1, x.2, (r - q.firstRegion x.1 x.2) * 2 ^ 20)

/-- Shard and block record of an owned block. -/
def Ctx.blockAt (x : Ctx) (u : Rec) (b : Nat) : Option (Nat × Block) :=
  (x.shards.findIdx? fun t => t.layer = uLayer u && t.expert = uExpert u && t.first ≤ b && b < t.first + t.count).map fun i =>
    (i, Tab.get {} ((x.shards[i]?.map (·.blocks)).getD []) b)

/-- Bytes of `n` at an offset of a block's state, padded with zeros past its end (R390). -/
def State.stateBytes (s : State) (q : Plan) (u : Rec) (b off n : Nat) : List Byte := slice (s.mem.readSpans (q.stateSpans u b)) off n

/-- A fold that another member supplies. -/
def State.peerFold (s : State) (k : Nat) : W64 × Nat :=
  let byte := fun (i : Nat) => Config.peerByte s.free (16 * k + i)
  (BitVec.ofNat 64 (leNat ((List.range 8).map byte)), leNat ((List.range 8).map fun i => byte (8 + i)) % foldPrime)

/-- A fact that another member supplies. -/
def State.peerBit (s : State) (k : Nat) : Bool := (Config.peerByte s.free k).getLsbD 0

/-! ### Digests (R393) -/

/-- The first label whose folds have all been copied and whose digest is not formed. -/
def State.formable (s : State) (c : Nat) (q : Plan) : Option Nat :=
  let f := (s.ctx c).folds
  (f.copied.map (·.1)).find? fun l => !(f.digests.any fun d => d.1 = l) && (List.range q.ownedBlocks.length).all fun no => f.copied.contains (l, no)

/-- What a digest is taken of. -/
def digestInput (n : Nat) (fs : List (W64 × Nat)) : List Byte := le 8 n ++ le 4 fs.length ++ fs.flatMap fun f => le 8 f.1.toNat ++ le 8 f.2

/-- Place of a label in the ring of the last 64 digests. -/
def labelPlace (int n : Nat) : Nat := n / max 1 int % 64

/-- Form the digest of a label and write it to every member; the first label sets the baseline and is not compared. -/
def State.formDigest (s : State) (c : Nat) (q : Plan) (n : Nat) : State :=
  let f := (s.ctx c).folds
  let d := shake256 (digestInput n ((List.range q.regions).map fun r => Tab.get (0, 0) f.table (n * 2 ^ 32 + r)))
  let int := q.p.digestInt
  let s := s.onFolds c fun f => { f with
    digests := ((n, d, !f.baseline) :: f.digests).take 64, baseline := true
    copied := f.copied.filter fun x => decide (n ≤ x.1)
    table := f.table.filter fun e => decide (n ≤ e.1 / 2 ^ 32 + int) }
  let s := s.countCtx9 c 0 1
  let base := (q.p.recovery.map fun r => Rec.field r 3 47 0).getD 0
  if !f.baseline || base = 0 then s else
  let me := s.replicaIndex c
  let a := base + Config.digestSlot me (labelPlace int n)
  let s := s.write a (be 32 d.toNat)
  ((s.replicas c).filter fun p => p ≠ s.fabric.position.toNat).foldl (fun s dst =>
    s.sendMessage c dst clsData 0x01 0 none [(BitVec.ofNat 64 a, be 32 d.toNat)]) s

/-- DIGEST_FORM. -/
def execDigestForm (ctx : Fin 64) (s : State) : Host.Outcome State Fault Refusal :=
  .next (match s.plan ctx.val with
    | none => s
    | some q => whenReady (s.formable ctx.val q) (fun n => s.formDigest ctx.val q n) s)

/-! ### Comparison (R394) -/

/-- The value that most members hold; of equally many, that of the lowest replica index. -/
def common {α : Type} [DecidableEq α] (xs : List α) : Option α :=
  xs.foldl (fun r x => match r with
    | none => some x
    | some y => if xs.count y < xs.count x then some x else some y) none

/-- Bit mask of the members that differ from the common value. -/
def differing {α : Type} [DecidableEq α] (xs : List α) : Nat :=
  xs.zipIdx.foldl (fun m x => if common xs = some x.1 then m else m + 2 ^ x.2) 0

/-- The oldest own digest not yet compared for which every other member's has arrived, with all of them in replica order. -/
def State.comparable (s : State) (c : Nat) (q : Plan) : Option (Nat × List (BitVec 256)) :=
  let f := (s.ctx c).folds
  let me := s.replicaIndex c
  let n := (s.replicas c).length
  if n < 2 then none else
  f.digests.reverse.findSome? fun d =>
    if d.2.2 then none else
    let ds := (List.range n).filterMap fun m => if m = me then some d.2.1 else Tab.find? f.peers (m * 64 + labelPlace q.p.digestInt d.1)
    if ds.length = n then some (d.1, ds) else none

/-- Localisation ends: every block goes on. -/
def State.endLocalise (s : State) (c : Nat) (ph : DivPhase) : State :=
  (s.onFolds c fun f => { f with phase := ph, regions := [], localised := [] }).onCtx c fun x => { x with
    shards := x.shards.map fun t => { t with blocks := Tab.mapAll t.blocks fun _ b => { b with holdFix := false } } }

/-- Owned blocks that hold a listed region, with their steps; a started update of the next step counts as passed. -/
def State.listedBlocks (s : State) (c : Nat) (q : Plan) (rs : List Nat) : List (Nat × Nat) :=
  (q.ownedBlocks.filter fun x => !(q.listedIn x.1 x.2 rs).isEmpty).map fun x =>
    (q.blockNo x.1 x.2, match (s.ctx c).blockAt x.1 x.2 with
      | some b => b.2.step + bit01 (decide (b.2.phase ≠ .idle))
      | none => 0)

/-- The label at which listed regions are localised: the first from `n` on whose snapshot point no listed block has passed. -/
def State.targetLabel (s : State) (c : Nat) (q : Plan) (rs : List Nat) (n : Nat) : Nat :=
  let int := max 1 q.p.digestInt
  let top := (s.listedBlocks c q rs).foldl (fun m x => max m x.2) 0
  if top ≤ n then n else (top + int - 1) / int * int

/-- List regions for localisation. -/
def State.listRegions (s : State) (c : Nat) (q : Plan) (n first : Nat) (rs : List Nat) : State :=
  let t := s.targetLabel c q rs first
  s.onFolds c fun f => { f with phase := .granules, badLabel := n, target := t, regions := rs, localised := [], granules := [] }

/-- Step 1 of localisation: the members exchange their fold tables of the label. -/
def State.startLocalise (s : State) (c : Nat) (q : Plan) (n : Nat) : State :=
  let f := (s.ctx c).folds
  let me := s.replicaIndex c
  let k := (s.replicas c).length
  let rs := (List.range q.regions).filter fun r =>
    (List.range k).any fun m => m ≠ me && decide (s.peerFold (m * q.regions + r) ≠ Tab.get (0, 0) f.table (n * 2 ^ 32 + r))
  let s := s.drawn
  if rs.isEmpty then s.raise 0x55 (some c) unitModule (BitVec.ofNat 64 n) 0 else s.listRegions c q n (n + 2 * q.p.digestInt) rs

/-- Compare a label. -/
def State.compareDigests (s : State) (c : Nat) (q : Plan) (n : Nat) (ds : List (BitVec 256)) : State :=
  let i := labelPlace q.p.digestInt n
  let same := differing ds = 0
  let s := s.onFolds c fun f => { f with
    digests := f.digests.map fun d => if d.1 = n then (d.1, d.2.1, true) else d
    peers := f.peers.filter fun e => e.1 % 64 ≠ i
    suspects := f.suspects && !same }
  if same then s else
  let s := (s.raise 0x50 (some c) unitModule (BitVec.ofNat 64 n) (BitVec.ofNat 32 (differing ds))).countCtx9 c 1 1
  if (s.ctx c).folds.phase = .none then s.startLocalise c q n else s

/-- DIGEST_COMPARE. -/
def execDigestCompare (ctx : Fin 64) (s : State) : Host.Outcome State Fault Refusal :=
  .next (match s.plan ctx.val with
    | none => s
    | some q => whenReady (s.comparable ctx.val q) (fun x => s.compareDigests ctx.val q x.1 x.2) s)

/-! ### Localisation (R394 steps 2 and 3) -/

/-- A region's fold recomputed from memory equals its running fold. -/
def State.foldHolds (s : State) (c : Nat) (q : Plan) (u : Rec) (b off r : Nat) : Bool :=
  decide (foldOf (s.stateBytes q u b off (2 ^ 20)) = Tab.get (0, 0) (s.ctx c).folds.fold r)

/-- A region failed its self-check (R392). -/
def State.foldFailed (s : State) (c r : Nat) : State := (s.raise 0x54 (some c) unitModule (BitVec.ofNat 64 r) 0).countCtx9 c 3 1

/-- Compare the granules of one listed region with the other members'. -/
def State.localiseRegion (s : State) (c : Nat) (q : Plan) (r : Nat) : State :=
  match q.regionAt r with
  | none => s
  | some (u, b, off) =>
    let me := s.replicaIndex c
    let n := (s.replicas c).length
    let ok := s.foldHolds c q u b off r
    let bad := (List.range n).filter fun m => if m = me then !ok else s.peerBit (16 * 256 * n + m)
    let ds : List Divergent := (List.range 256).map fun g =>
      { region := r, granule := g, failed := bad
        folds := (List.range n).map fun m => if m = me then foldOf (s.stateBytes q u b (off + 4096 * g) 4096) else s.peerFold (m * 256 + g) }
    let s := if ok then s else s.foldFailed c r
    (s.onFolds c fun f => { f with granules := f.granules ++ ds.filter fun d => decide (differing d.folds ≠ 0) }).drawn

/-- ARG of the divergence events. -/
def divergenceArg (r g : Nat) : W64 := BitVec.ofNat 64 (r * 2 ^ 24 + g)

/-- Step 3 once every listed block has been localised. -/
def State.concludeLocalise (s : State) (c : Nat) (q : Plan) : State :=
  let f := (s.ctx c).folds
  if !((s.listedBlocks c q f.regions).all fun x => f.localised.contains x.1) then s
  else if f.granules.isEmpty then (s.raise 0x55 (some c) unitModule (BitVec.ofNat 64 f.badLabel) 0).endLocalise c .none
  else
    let s := f.granules.foldl (fun s d => s.raise 0x51 (some c) unitModule (divergenceArg d.region d.granule) (BitVec.ofNat 32 (differing d.folds))) s
    s.onFolds c fun f => { f with phase := .located }

/-- GRANULE_LOCALISE: at the block's snapshot point; its next update waits for the repair. -/
def execGranuleLocalise (ctx : Fin 64) (block : Nat) (s : State) : Host.Outcome State Fault Refusal :=
  let c := ctx.val
  .next (match s.plan c with
    | none => s
    | some q =>
      match q.ownedBlocks[block]? with
      | none => s
      | some (u, b) =>
        match (s.ctx c).blockAt u b with
        | none => s
        | some (i, x) =>
          if (s.ctx c).folds.awaits q u b x.step && x.phase = .idle then
            let s := (q.listedIn u b (s.ctx c).folds.regions).foldl (fun s r => s.localiseRegion c q r) (s.setBlock c i b { x with holdFix := true })
            (s.onFolds c fun f => { f with localised := f.localised ++ [block] }).concludeLocalise c q
          else s)

/-! ### Repair (R395, R396) -/

/-- Write bytes through the update path: the folds change, the working copy is emitted again, and parity takes the change. -/
def State.repairWrite (s : State) (c : Nat) (q : Plan) (u : Rec) (b off : Nat) (bs : List Byte) : State :=
  match (s.ctx c).blockAt u b with
  | none => s
  | some (i, x) =>
    let spans := q.stateSpans u b
    let old := s.mem.readSpans (q.protectedSpans u b)
    let m := s.mem.writeSpans spans off bs
    let s := ({ s with mem := m }).foldChange c q u b (s.mem.readSpans spans) (m.readSpans spans)
    let s := (s.emitBlock c q u b (x.step + 1)).countCtx9 c 2 1
    if q.p.parityOn.isSome then
      (s.setBlock c i b { x with acked := false }).sendParity c q u b x.step (xorBytes old (s.mem.readSpans (q.protectedSpans u b)))
    else s

/-- The first row of R395: the granule is restored from the Parity Group; neither folds nor parity change. -/
def State.restoreGranule (s : State) (c : Nat) (q : Plan) (u : Rec) (b off : Nat) : State :=
  (({ s with mem := s.mem.writeSpans (q.stateSpans u b) off (s.peerBytes 4096) }).countCtx9 c 2 1).drawn

/-- The state of a repair: the members' folds after the rows so far. -/
structure Repair where
  st    : State
  folds : List (W64 × Nat)

def Repair.agree (r : Repair) : Bool := differing r.folds = 0

/-- Take bytes from another member or a reconstruction. -/
def Repair.take (r : Repair) (c : Nat) (q : Plan) (u : Rec) (b off : Nat) : Repair :=
  { r with st := (r.st.repairWrite c q u b off (r.st.peerBytes 4096)).drawn }

/-- Row 1: members whose region failed its self-check restore the granule from their Parity Groups. -/
def Repair.selfChecks (r : Repair) (c : Nat) (q : Plan) (u : Rec) (b off me : Nat) (failed : List Nat) : Repair :=
  if q.p.parityOn.isNone || failed.isEmpty then r else
  let s := if failed.contains me then r.st.restoreGranule c q u b off else r.st
  { st := s.drawn, folds := r.folds.zipIdx.map fun x =>
      if !failed.contains x.2 then x.1 else if x.2 = me then foldOf (s.stateBytes q u b off 4096) else s.peerFold x.2 }

/-- Row 3: each member whose granule differs from its parity reconstruction takes it. -/
def Repair.reconstruct (r : Repair) (c : Nat) (q : Plan) (u : Rec) (b off me : Nat) : Repair :=
  let bs := r.st.peerBytes 4096
  let s := r.st.drawn
  let s := if bs = s.stateBytes q u b off 4096 then s else s.repairWrite c q u b off bs
  { st := s.drawn, folds := r.folds.zipIdx.map fun x => if x.2 = me then foldOf (s.stateBytes q u b off 4096) else s.peerFold x.2 }

/-- Row 4: the one side whose modules raised SUSPECT_WINDOW copies from the other. -/
def Repair.suspectSide (r : Repair) (c me : Nat) : Option (W64 × Nat) :=
  let marked := r.folds.zipIdx.filter fun x => if x.2 = me then (r.st.ctx c).folds.suspects else r.st.peerBit x.2
  match (marked.map (·.1)).eraseDups with
  | [f] => some f
  | _ => none

/-- Repair one granule by the first row of R395 that matches. -/
def State.repairGranule (s : State) (c : Nat) (q : Plan) (d : Divergent) : State :=
  match q.regionAt d.region with
  | none => s
  | some (u, b, o) =>
    let off := o + 4096 * d.granule
    let me := s.replicaIndex c
    let told := fun (s : State) (src : Nat) => s.raise 0x52 (some c) unitModule (divergenceArg d.region d.granule) (BitVec.ofNat 32 src)
    let r := Repair.selfChecks ⟨s, d.folds⟩ c q u b off me d.failed
    if r.agree then told r.st 1 else
    match common r.folds with
    | none => s
    | some f =>
      if 3 ≤ r.folds.length && r.folds.length < 2 * r.folds.count f then
        told (if r.folds[me]? = some f then r.st else (r.take c q u b off).st) 0
      else
        let r := if q.p.parityOn.isSome then r.reconstruct c q u b off me else r
        if r.agree then told r.st 1 else
        match r.suspectSide c me with
        | some f => told (if r.folds[me]? = some f then (r.take c q u b off).st else r.st).drawn 2
        | none =>
          (r.st.drawn.raise 0x53 (some c) unitModule (divergenceArg d.region d.granule) 0).onFolds c fun x => { x with holdNext := true, phase := .unresolved }

/-- DIVERGENCE_REPAIR. -/
def execDivergenceRepair (ctx : Fin 64) (s : State) : Host.Outcome State Fault Refusal :=
  let c := ctx.val
  .next (match s.plan c with
    | none => s
    | some q => onlyIf ((s.ctx c).folds.phase = .located) (fun s =>
        let s := (s.ctx c).folds.granules.foldl (fun s d => s.repairGranule c q d) s
        s.endLocalise c (if (s.ctx c).folds.phase = .unresolved then .unresolved else .none)) s)

/-! ### FOLD_SELF_CHECK (R392) -/

/-- Handle a region that changed outside the update path: restored from parity, else localised with the replicas, else unresolved. -/
def State.repairRegion (s : State) (c : Nat) (q : Plan) (u : Rec) (b off r : Nat) : State :=
  let s := s.foldFailed c r
  if q.p.parityOn.isSome then
    let bs := s.peerBytes (2 ^ 20)
    let gs := (List.range 256).filter fun g => slice bs (4096 * g) 4096 ≠ s.stateBytes q u b (off + 4096 * g) 4096
    let s := ({ s with mem := s.mem.writeSpans (q.stateSpans u b) off bs }).drawn
    gs.foldl (fun s g => (s.raise 0x52 (some c) unitModule (divergenceArg r g) 1).countCtx9 c 2 1) s
  else if 2 ≤ (s.replicas c).length then
    if (s.ctx c).folds.phase = .none then
      let int := max 1 q.p.digestInt
      let n := (s.listedBlocks c q [r]).foldl (fun m x => max m x.2) 0 / int * int
      s.listRegions c q n (n + int) [r]
    else s
  else (s.raise 0x53 (some c) unitModule (divergenceArg r 0) 0).onFolds c fun f => { f with holdNext := true, phase := .unresolved }

/-- FOLD_SELF_CHECK: the next region in rotation, read between two updates of its block, while the step's share is not done. -/
def execFoldSelfCheck (ctx : Fin 64) (s : State) : Host.Outcome State Fault Refusal :=
  let c := ctx.val
  .next (match s.plan c with
    | none => s
    | some q =>
      let n := q.regions
      let r := (s.ctx c).folds.checkPos % max 1 n
      match q.regionAt r with
      | none => s
      | some (u, b, off) =>
        let idle := ((s.ctx c).blockAt u b).any fun x => decide (x.2.phase = .idle)
        onlyIf (decide (0 < (s.ctx c).folds.checkDue) && idle && ((s.ctx c).state = .running || (s.ctx c).state = .holding)) (fun s =>
          let s := s.onFolds c fun f => { f with checkPos := (r + 1) % max 1 n, checkDue := f.checkDue - 1 }
          if s.foldHolds c q u b off r then s else s.repairRegion c q u b off r) s)

end Sys2Proof.Machine
end

