-- ==== Sys2Proof/Machine/Mgmt.lean ====
section
/-!
DEFINITION. The management bus, RESET_N and ROM recovery: R455 to R461.
-/
namespace Sys2Proof.Machine

open Sys2Proof

/-- The bus is served from step 2 of the boot until an orderly stop has taken the rails down, and not while RESET_N is low (R456,
R458). -/
def State.busUp (s : State) : Bool := decide (2 ≤ s.boot.stage) && !s.mgmt.resetLow && !s.power.railsDown

def State.onMgmt (s : State) (f : Mgmt → Mgmt) : State := { s with mgmt := f s.mgmt }

/-- ALERT_N is asserted (R460). -/
def State.alertN (s : State) : Bool := decide (s.mgmt.alertCause &&& s.mgmt.alertEn ≠ 0)

/-- What a register reads as (R12, R459): RO, RW and W1C fields their value, WO and RSVD fields 0, as do offsets that the map does not
list. SERIAL is known once the module EEPROM has been read, at step 6 of the boot (R441). -/
def State.mgmtWord (s : State) (o : Nat) : W32 :=
  let p := s.power
  let serial : W64 := if 6 ≤ s.boot.stage && s.boot.stage ≠ 11 then s.boot.serial else 0
  match o with
  | 0x000 => 0x2040#16 ++ s.boot.stepping ++ 0x01#8
  | 0x004 => BitVec.ofNat 32 (s.boot.stage * 2 ^ 28 + pstateCode p.pstate * 2 ^ 25 + bit01 s.alertN * 2 ^ 24 + p.tMax % 256 * 2 ^ 16 + p.vin.toNat)
  | 0x008 => BitVec.ofNat 32 (p.pIn % 2 ^ 16 * 2 ^ 16 + p.holdup % 2 ^ 16)
  | 0x00C => BitVec.ofBool s.boot.slotValid ++ BitVec.ofBool s.fabric.isSpare ++ 0#15 ++ s.fabric.position
  | 0x010 => s.mgmt.alertCause.setWidth 32
  | 0x014 => s.mgmt.alertEn.setWidth 32
  | 0x018 => BitVec.ofNat 32 (bit01 s.mgmt.enrollEn * 4)
  | 0x01C => serial.setWidth 32
  | 0x020 => (serial >>> 32).setWidth 32
  | 0x044 => BitVec.ofNat 32 (s.mgmt.recState * 2 ^ 30 + bit01 s.boot.recovery * 2 ^ 29 + bit01 s.mgmt.recValid)
  | _ => if decide (0x100 ≤ o) && decide (o ≤ 0x1FC) && decide (o % 4 = 0) then Tab.get 0 s.mgmt.recData ((o - 0x100) / 4) else 0

/-- One word written to a register without an action of its own: ALERT_EN, OWNER_ENROLL_EN or REC_DATA. Reserved bits are ignored (R11)
and read-only registers ignore writes (R12). -/
def Mgmt.writeWord (m : Mgmt) (o : Nat) (word : W32) : Mgmt :=
  if o = 0x014 then { m with alertEn := word.setWidth 9 }
  else if o = 0x018 then { m with enrollEn := word.getLsbD 2 }
  else if decide (0x100 ≤ o) && decide (o ≤ 0x1FC) && decide (o % 4 = 0) then { m with recData := Tab.put m.recData ((o - 0x100) / 4) word }
  else m

/-- MGMT_REGISTER_WRITE (R456): a transfer writes a register offset and then whole words to consecutive registers; a last word that
ends part-way leaves its register. A repeated start and a read of words from the offset makes it a read.
The written bits that have an action of their own arrive as rows of their own (R459). -/
def execMgmtRegisterWrite (offset : W16) (words : List W32) (tail : TransferEnd) (s : State) :
    Host.Outcome State Fault Refusal :=
  .next (onlyIf s.busUp (fun s =>
    let whole := if tail = .partialWord then words.dropLast else words
    let s := s.onMgmt fun m => whole.zipIdx.foldl (fun m w => m.writeWord (offset.toNat + 4 * w.2) w.1) m
    match tail with
    | .reads n => s.emit (.mgmtRead ((List.range n).map fun i => s.mgmtWord (offset.toNat + 4 * i)))
    | _ => s) s)

/-- ALERT_CAUSE_CLEAR: W1C; REF_FAIL and ROM_RECOVERY stay while their conditions hold (R460). -/
def execAlertCauseClear (mask : W32) (s : State) : Host.Outcome State Fault Refusal :=
  .next (onlyIf s.busUp (fun s =>
    let stay : BitVec 9 := (if s.power.reference.ready then 0 else 1) ||| (if s.boot.recovery then 2 else 0)
    s.onMgmt fun m => { m with alertCause := m.alertCause &&& (~~~(mask.setWidth 9) ||| stay) }) s)

/-- WARM_RESET written to MGMT_CTL (R459). During an orderly stop a reset does not start (R402, R463). -/
def execWarmReset (s : State) : Host.Outcome State Fault Refusal := .next (onlyIf (s.busUp && s.powered) State.askReset s)

/-- FULL_RESET written to MGMT_CTL (R459). -/
def execFullReset (s : State) : Host.Outcome State Fault Refusal := .next (onlyIf (s.busUp && s.powered) (fun s => s.moduleReset true) s)

/-- RESET_N_ASSERT: while it is low the module stays in reset; ignored during an orderly stop (R458, R463). -/
def execResetNAssert (s : State) : Host.Outcome State Fault Refusal :=
  .next (onlyIf s.powered (fun s => s.onMgmt fun m => { m with resetLow := true }) s)

/-- RESET_N_RELEASE: a low of at least 10 µs and less than 5 s is a warm reset, one of 5 s or more a full reset (R458). -/
def execResetNRelease (lowUs : Nat) (s : State) : Host.Outcome State Fault Refusal :=
  .next (onlyIf (s.powered && s.mgmt.resetLow) (fun s =>
    let s := s.onMgmt fun m => { m with resetLow := false }
    if lowUs < 10 then s else if lowUs < 5000000 then s.askReset else s.moduleReset true) s)

/-! ### ROM recovery (R461) -/

/-- Commands of REC_CTL act only in ROM recovery. -/
def State.recovering (s : State) : Bool := s.busUp && s.boot.recovery

/-- ERASE. -/
def execErase (slot : Fin 2) (s : State) : Host.Outcome State Fault Refusal :=
  .next (onlyIf s.recovering (fun s => { s with boot := s.boot.setSlot slot {}, mgmt := { s.mgmt with recState := 2 } }) s)

/-- The 256-byte program buffer. -/
def Mgmt.recBuffer (m : Mgmt) : List Byte := (List.range 64).flatMap fun i => le 4 (Tab.get 0 m.recData i).toNat

/-- PROGRAM: a unit that reaches past 64 MiB gives error. -/
def execProgram (slot : Fin 2) (unit : BitVec 18) (s : State) : Host.Outcome State Fault Refusal :=
  .next (onlyIf s.recovering (fun s =>
    if 256 * unit.toNat + 256 ≤ 0x4000000 then
      { s with boot := s.boot.setSlot slot ((s.boot.slot? slot).write (256 * unit.toNat) s.mgmt.recBuffer), mgmt := { s.mgmt with recState := 2 } }
    else s.onMgmt fun m => { m with recState := 3 }) s)

/-- CHECK: applies R430 and sets VALID. -/
def execCheck (slot : Fin 2) (sigOk : Bool) (s : State) : Host.Outcome State Fault Refusal :=
  .next (onlyIf s.recovering (fun s =>
    s.onMgmt fun m => { m with recState := 2, recValid := s.boot.slotValidNow (s.boot.slot? slot) sigOk }) s)

/-! ### I3C (R456) -/

/-- SETDASA: from the static address 0x3A, which a target answers only while it has no dynamic address (PRESUMED, log entry 21). -/
def execSetdasa (addr : BitVec 7) (s : State) : Host.Outcome State Fault Refusal :=
  .next (onlyIf (s.busUp && s.mgmt.dynAddr.isNone) (fun s => s.onMgmt fun m => { m with dynAddr := some addr }) s)

/-- ENTDAA. -/
def execEntdaa (addr : BitVec 7) (s : State) : Host.Outcome State Fault Refusal :=
  .next (onlyIf (s.busUp && s.mgmt.dynAddr.isNone) (fun s => s.onMgmt fun m => { m with dynAddr := some addr }) s)

/-- RSTDAA. -/
def execRstdaa (s : State) : Host.Outcome State Fault Refusal := .next (onlyIf s.busUp (fun s => s.onMgmt fun m => { m with dynAddr := none }) s)

/-- GETSTATUS: the module answers; the word is I3C's own and not the manual's, so it is a free value (log entry 4). -/
def execGetstatus (s : State) : Host.Outcome State Fault Refusal :=
  .next (onlyIf s.busUp (fun s => (s.emit (.mgmtStatus (s.freeWord.setWidth 16))).drawn) s)

end Sys2Proof.Machine
end

