-- ==== Sys2Proof/Machine/Telemetry.lean ====
section
/-!
DEFINITION. KCP group 0x07, telemetry: counters (R55, R101, R156, R192, R222, R285, R318, R334, R397, R423), the register space
(R88, R100, R284, R289, R298, R317, R422), tables (R195, R217, R240, R272, R273), the capture record (R56, R57) and the idle block
(R246, R248).
-/
namespace Sys2Proof.Machine

open Sys2Proof

/-! ### COUNTER_READ (R334, R397, R423) -/

/-- Units of a counter block. -/
def counterUnits (block : Nat) : Nat :=
  match block with
  | 2 | 3 => 192
  | 4 | 5 => 8
  | 6 | 7 => 32
  | _ => 1

/-- Counters of a block, in order; an unknown block has none. -/
def counterCount (block : Nat) : Nat :=
  match block with
  | 0 => 5 | 1 => 28 | 2 => 5 | 3 => 3 | 4 => 2 | 5 => 2 | 6 => 9 | 7 => 5 | 8 => 4 | 9 => 9 | 10 => 4 | 11 => 4
  | _ => 0

/-- Blocks that a context keeps; the others take CONTEXT 0xFF. An unknown block is under no exception to R330. -/
def counterOfCtx (block : Nat) : Bool := block = 0 || block = 1 || block = 9 || decide (12 ≤ block)

def listed (t : Tab W64) (n : Nat) : List W64 := (List.range n).map fun i => Tab.get 0 t i

/-- The counters of one block for one unit. -/
def State.counterBlock (s : State) (c block unit : Nat) : List W64 :=
  let n := counterCount block
  match block with
  | 0 => listed (s.ctx c).exc n
  | 1 => listed (s.ctx c).counters n
  | 2 => listed (s.array unit).counters n
  | 3 => listed (s.array unit).vxuCtr n
  | 4 => listed (s.rte unit).counters n
  | 5 => listed (s.fuu unit).counters n
  | 6 => listed (s.port unit).counters n
  | 7 => (List.range n).map fun i => Tab.get 0 s.mem.counters (unit * 8 + i)
  | 8 => [s.mem.relocated, s.kcp.drops, s.kcp.badCrc, s.kcp.duplicates]
  | 9 => listed (s.ctx c).counters9 n
  | 10 => listed s.faults.counters n
  | 11 => listed s.power.counters n
  | _ => []

def execCounterRead (h : KcpHdr) (block unit first count : W16) (s : State) : Host.Outcome State Fault Refusal :=
  let b := block.toNat
  .next <| KcpCmd.arrive
    { opcode := 0x0701, need := if counterOfCtx b then .ctx else .none, cls := .query
      checks := fun _ => [(decide (12 ≤ b) || decide (counterUnits b ≤ unit.toNat) || decide (counterCount b < first.toNat + count.toNat), .badParam)]
      effect := fun s => done s (params64 (((s.counterBlock (hctx h) b unit.toNat).drop first.toNat).take count.toNat)) }
    (.counterRead h block unit first count) h s

/-! ### The register space (R289) -/

def regBase : Nat := 0x200000000000
def regEnd : Nat := 0x200000040000

/-- Array registers (R88, R100). ARRAY_CMD is write-only and reads 0. -/
def ArrayUnit.reg (x : ArrayUnit) (o : Nat) : W32 :=
  let n := spares x.skewTrim
  match o with
  | 0x00 => BitVec.ofNat 32 (bit01 x.retired * 2 ^ 31 + bit01 (trimMismatch x.spareCtl x.skewTrim) * 2 ^ 30 + bit01 x.halted * 2 ^ 29 +
      bit01 x.parStuck * 2 ^ 28 + bit01 x.katStuck * 2 ^ 27 + n * 2 ^ 16 + (386 + n))
  | 0x04 => x.spareCtl
  | 0x08 => x.skewTrim
  | 0x0C => BitVec.ofNat 32 (x.parEvents * 2 ^ 16 + x.katFails)
  | 0x14 => BitVec.ofNat 32 (bit01 x.handover.isSome * 2 ^ 8 + x.slots.length)
  | _ => 0

def portStateCode : PortState → Nat
  | .down => 0 | .training => 1 | .discovery => 2 | .up => 3 | .held => 4 | .retired => 5

/-- RATE by the lanes in use: 2, 3 or 4 lanes carry 400, 600 or 800 Gb/s. -/
def Port.rate (x : Port) : Nat := (List.range 4).foldl (fun n i => n + bit01 (x.lanes.getLsbD i)) 0 - 1

/-- Port registers (R284). -/
def Port.reg (x : Port) (o : Nat) : W32 :=
  match o with
  | 0x00 => BitVec.ofNat 32 (portStateCode x.state * 2 ^ 29 + x.lanes.toNat * 2 ^ 25 + x.rate * 2 ^ 23 + bit01 x.cfgErr * 2 ^ 22 +
      bit01 x.mediaBad * 2 ^ 21 + x.rtt.toNat)
  | 0x04 => x.vcShare
  | 0x08 => x.arbCfg
  | 0x0C => BitVec.ofNat 32 (x.fcsErr * 2 ^ 16 + x.hdrErr)
  | 0x10 => BitVec.ofNat 32 (x.laneDrops * 2 ^ 16 + x.misroute)
  | _ => 0

def chStateCode : ChState → Nat
  | .active => 0 | .retrainQueued => 1 | .retraining => 2 | .relocating => 3 | .fenced => 4 | .lost => 5

/-- Channel registers (R317). -/
def Channel.reg (x : Channel) (o : Nat) : W32 :=
  match o with
  | 0x0 => BitVec.ofNat 32 (chStateCode x.state * 2 ^ 29 + min 256 x.hold.length * 2 ^ 12)
  | 0x4 => BitVec.ofNat 32 (x.ce * 2 ^ 16 + x.ue)
  | 0x8 => BitVec.ofNat 32 (x.parRetry * 2 ^ 16 + x.retrains)
  | _ => 0

/-- Regulator registers (R298). -/
def Regulator.reg (x : Regulator) (o : Nat) : W32 :=
  match o with
  | 0x0 => x.rate.setWidth 32
  | 0x4 => x.bucket.setWidth 32
  | 0x8 => x.tokens.setWidth 32
  | _ => 0

/-- MEM_SUMMARY (R317). -/
def Mem.summary (m : Mem) : W32 := BitVec.ofNat 32 (m.fencedCount * 2 ^ 11 + m.busy.getD 0 * 2 + bit01 m.busy.isSome)

def ppsCode : PpsState → Nat
  | .free => 0 | .locked => 1 | .holdover => 2

/-- Ready flags of a set of clocks, bit 0 first. -/
def readyMask (n : Nat) (t : Tab ClockRef) : Nat := (List.range n).foldl (fun m i => m + bit01 (Tab.get {} t i).ready * 2 ^ i) 0

/-- Power block (R422). -/
def State.powerReg (s : State) (o : Nat) : W32 :=
  let p := s.power
  match o with
  | 0x00 => BitVec.ofNat 32 (pstateCode p.pstate * 2 ^ 29 + p.level * 2 ^ 26 + s.ceil * 2 ^ 23 + bit01 p.throttle * 2 ^ 22 + bit01 p.cut * 2 ^ 21 +
      bit01 p.capped * 2 ^ 20 + bit01 p.shaping * 2 ^ 19 + bit01 (decide (p.thermal < 7)) * 2 ^ 18 + p.vin.toNat)
  | 0x04 => BitVec.ofNat 32 (p.pTarget * 2 ^ 16 + p.pIn)
  | 0x08 => BitVec.ofNat 32 (p.pBurn * 2 ^ 16 + p.holdup)
  | 0x0C => BitVec.ofNat 32 (bit01 p.reference.ready * 2 ^ 31 + bit01 p.mgmtPll.ready * 2 ^ 30 + readyMask 8 p.cdPll * 2 ^ 22 +
      readyMask 4 p.ioPll * 2 ^ 18 + readyMask 8 p.hbmPll * 2 ^ 10 + bit01 (p.ppsAt.any fun t => decide (p.ticks ≤ t + ticksOf 5 / 2)) * 2 ^ 9 + bit01 p.swRefused * 2 ^ 8)
  | 0x10 => BitVec.ofNat 32 (p.tMax * 2 ^ 24 + p.tSensor * 2 ^ 16)
  | 0x14 => BitVec.ofNat 2 (ppsCode p.pps) ++ BitVec.ofBool p.secSet ++ BitVec.ofBool p.stepped ++ BitVec.ofInt 28 p.ppsErr
  | 0x18 => s.now.setWidth 32
  | 0x1C => p.timeHi
  | 0x20 => p.seen.setWidth 32
  | _ => 0

/-- Where a register lies. -/
inductive RegPlace where
  | array (n o : Nat) | etype | port (n o : Nat) | chan (n o : Nat) | reg (n o : Nat) | summary | power (o : Nat) | reserved
  deriving DecidableEq, Repr

/-- The layout of R289, with the power block of R422; the register space is 256 KiB at a multiple of its size. -/
def regPlace (a : Nat) : RegPlace :=
  let o := a % 0x40000
  if o < 0x100 * 192 then .array (o / 0x100) (o % 0x100)
  else if o = 0x10000 then .etype
  else if 0x10100 ≤ o && o < 0x10100 + 0x100 * 32 then .port ((o - 0x10100) / 0x100) ((o - 0x10100) % 0x100)
  else if 0x20000 ≤ o && o < 0x20000 + 0x10 * 1024 then .chan ((o - 0x20000) / 0x10) (o % 0x10)
  else if 0x30000 ≤ o && o < 0x30100 then .reg ((o - 0x30000) / 0x10) (o % 0x10)
  else if o = 0x30100 then .summary
  else if 0x30200 ≤ o && o < 0x30224 then .power (o - 0x30200)
  else .reserved

/-- The register at a place; a reserved one reads 0 (R12). -/
def State.placeWord (s : State) (p : RegPlace) : W32 :=
  match p with
  | .array n o => (s.array n).reg o
  | .etype => s.fabric.etype.setWidth 32
  | .port n o => (s.port n).reg o
  | .chan n o => (s.mem.chan n).reg o
  | .reg n o => Regulator.reg (Tab.get {} s.mem.regs n) o
  | .summary => s.mem.summary
  | .power o => s.powerReg o
  | .reserved => 0

/-- One register. -/
def State.regWord (s : State) (a : Nat) : W32 := s.placeWord (regPlace a)

/-- A range of whole words of the register space. -/
def badRegs (a : W64) (n : Nat) : Bool := decide (a.toNat % 4 ≠ 0) || decide (a.toNat < regBase) || decide (regEnd < a.toNat + 4 * n)

/-- A read of TIME_LO latches TIME_HI (R422). -/
def State.latchTime (s : State) (a n : Nat) : State :=
  if a ≤ 0x200000030218 && 0x200000030218 < a + 4 * n then { s with power := { s.power with timeHi := (s.now >>> 32).setWidth 32 } } else s

/-- REG_READ (R289, R330); `silent` is a unit that does not answer within 10 µs. -/
def execRegRead (h : KcpHdr) (addr : W64) (words : W16) (silent : Bool) (s : State) : Host.Outcome State Fault Refusal :=
  .next <| KcpCmd.arrive
    { opcode := 0x0702, need := .ctx, cls := .query
      checks := fun _ => [(words = 0 || decide (256 < words.toNat) || badRegs addr words.toNat, .badParam), (silent, .timeout)]
      effect := fun s =>
        let t := s.latchTime addr.toNat words.toNat
        done t (params32 ((List.range words.toNat).map fun i => t.regWord (addr.toNat + 4 * i))) }
    (.regRead h addr words silent) h s

/-- W1C fields of a register (R88, R284, R422). -/
def w1cMask (a : Nat) : W32 :=
  match regPlace a with
  | .array _ 0x00 => 0x18000000
  | .port _ 0x00 => 0x00400000
  | .power 0x0C => 0x00000100
  | .power 0x14 => 0x10000000
  | .power 0x20 => 0x0000003F
  | _ => 0

/-- Clear W1C bits of the register at a place. -/
def State.clearPlace (s : State) (p : RegPlace) (m : W32) : State :=
  match p with
  | .array n o =>
    if o = 0x00 then s.onArray n fun x => { x with parStuck := x.parStuck && !m.getLsbD 28, katStuck := x.katStuck && !m.getLsbD 27 } else s
  | .port n o => if o = 0x00 then s.onPort n fun x => { x with cfgErr := x.cfgErr && !m.getLsbD 22 } else s
  | .power o =>
    if o = 0x0C then s.onPower fun p => { p with swRefused := p.swRefused && !m.getLsbD 8 }
    else if o = 0x14 then s.onPower fun p => { p with stepped := p.stepped && !m.getLsbD 28 }
    else if o = 0x20 then s.onPower fun p => { p with seen := p.seen &&& ~~~(m.setWidth 6) }
    else s
  | _ => s

def State.clearReg (s : State) (a : Nat) (m : W32) : State := s.clearPlace (regPlace a) m

/-- REG_CLEAR (R14, R88, R284, R330): a mask bit outside W1C fields is refused. -/
def execRegClear (h : KcpHdr) (addr : W64) (mask : W32) (s : State) : Host.Outcome State Fault Refusal :=
  .next <| KcpCmd.arrive
    { opcode := 0x0703, need := .ctx, cls := .query
      checks := fun _ => [(badRegs addr 1 || mask &&& ~~~(w1cMask addr.toNat) ≠ 0, .badParam)]
      effect := fun s => done (s.clearReg addr.toNat mask) }
    (.regClear h addr mask) h s

/-! ### The capture record (R56, R57) -/

def execCaptureRead (h : KcpHdr) (s : State) : Host.Outcome State Fault Refusal :=
  .next <| KcpCmd.arrive
    { opcode := 0x0704, need := .ctx, cls := .query
      effect := fun s => done s (params32 ((List.range 8).map fun i => (s.ctx (hctx h)).capture.getD i 0)) }
    (.captureRead h) h s

/-- CAPTURE_ARM: the record keeps its contents until an event fills it. -/
def execCaptureArm (h : KcpHdr) (s : State) : Host.Outcome State Fault Refusal :=
  .next <| KcpCmd.arrive
    { opcode := 0x0705, need := .ctx, cls := .query, effect := fun s => done (s.onCtx (hctx h) fun x => { x with armed := true }) }
    (.captureArm h) h s

/-! ### TABLE_READ (R330) -/

/-- A shard record (R195). -/
def Shard.words (t : Shard) : List W64 :=
  [BitVec.ofNat 64 t.step, t.age ++ t.b1pow,
   t.b2pow ++ BitVec.ofBool t.momentValid ++ BitVec.ofBool t.inCistern ++ BitVec.ofNat 4 (t.late.map (·.step)).eraseDups.length ++ 0#26,
   BitVec.ofNat 14 t.layer ++ BitVec.ofNat 12 t.expert ++ 0#6 ++ BitVec.ofNat 32 t.first]

/-- An unused group entry (R273): MEMBERS and HOP reset to 1. -/
def emptyGroup : Rec := [0x0008002000000000, 0]

/-- Entries of a table, and one entry's parameter bytes (R10: the Expert Table is laid out in 32-bit words). -/
def State.tableSize (s : State) (c table : Nat) : Nat :=
  match table with
  | 0 => 16384
  | 1 => (s.ctx c).shards.length
  | 2 => 21504
  | _ => 4096

def State.tableEntry (s : State) (c table i : Nat) : List Byte :=
  match table with
  | 0 => params64 ((List.range 8).map fun k => Rec.word (Tab.get [] s.lnt i) k)
  | 1 => params64 (match (s.ctx c).shards[i]? with | some t => t.words | none => [])
  | 2 => params64 [Tab.get 0 s.fabric.peers i]
  | 3 => params64 (Tab.get emptyGroup s.fabric.groups i)
  | _ => params32 [match (s.ctx c).program with | some p => p.experts.getD i 0 | none => 0]

def execTableRead (h : KcpHdr) (table count : W16) (first : W32) (s : State) : Host.Outcome State Fault Refusal :=
  let k := table.toNat
  .next <| KcpCmd.arrive
    { opcode := 0x0706, need := .ctx, cls := .query
      checks := fun s =>
        [(decide (4 < k) || count = 0 || decide (64 < count.toNat) || decide (s.tableSize (hctx h) k < first.toNat + count.toNat), .badParam),
         ((k = 1 || k = 4) && (s.ctx (hctx h)).program.isNone, .notReady)]
      effect := fun s => done s ((List.range count.toNat).flatMap fun i => s.tableEntry (hctx h) k (first.toNat + i)) }
    (.tableRead h table count first) h s

/-! ### Idle counters (R246 to R248) -/

def idleTop : BitVec 48 := BitVec.ofNat 48 (2 ^ 48 - 1)

/-- The idle block: one word per cause, then IDLE_SAT. -/
def Ctx.idleWords (x : Ctx) : List W64 :=
  (List.range 16).map (fun i => (if i < 12 then Tab.get 0 x.idle i else 0 : BitVec 48).setWidth 64) ++ [x.idleSat.setWidth 64]

def execIdleRead (h : KcpHdr) (s : State) : Host.Outcome State Fault Refusal :=
  .next <| KcpCmd.arrive
    { opcode := 0x0707, need := .ctx, cls := .query, effect := fun s => done s (params64 (s.ctx (hctx h)).idleWords) }
    (.idleRead h) h s

/-- Writing 1 to a bit of IDLE_SAT clears it and sets the cause's counter to 0 (R246). -/
def Ctx.clearIdle (x : Ctx) (mask : W16) : Ctx :=
  { x with idleSat := x.idleSat &&& ~~~mask, idle := x.idle.filter fun e => !mask.getLsbD e.1 }

def execIdleClear (h : KcpHdr) (mask : W16) (s : State) : Host.Outcome State Fault Refusal :=
  .next <| KcpCmd.arrive
    { opcode := 0x0708, need := .ctx, cls := .query, effect := fun s => done (s.onCtx (hctx h) fun x => x.clearIdle mask) }
    (.idleClear h mask) h s

/-- A counter sticks at 2^48 − 1 (R248). -/
def State.saturateIdle (s : State) (c cause : Nat) : State :=
  (s.onCtx c fun x => { x with idle := Tab.put x.idle cause idleTop, idleSat := x.idleSat ||| BitVec.ofNat 16 (2 ^ cause) }).raise 0x42 (some c)
    unitModule (BitVec.ofNat 64 cause) 0

/-- IDLE_SATURATED: once, until the host clears the counter. -/
def execIdleSaturated (ctx : Fin 64) (cause : Fin 12) (s : State) : Host.Outcome State Fault Refusal :=
  .next (onlyIf ((s.ctx ctx.val).state ≠ .free && !(s.ctx ctx.val).idleSat.getLsbD cause.val) (fun s => s.saturateIdle ctx.val cause.val) s)

end Sys2Proof.Machine
end

