-- ==== Sys2Proof/Machine/Recovery.lean ====
section
/-!
DEFINITION. The end of a load (R338, R385) and recovery: quiescing (R383), the recovery point (R384), the load of a rebuilt module (R385,
R387, R388), the rebuild of blocks and parity slots (R386), and the queries of R382.
-/
namespace Sys2Proof.Machine

open Sys2Proof

/-! ### RECOVER_BEGIN and RECOVER_READY (R383) -/

/-- Send every unapplied parity message to a live holder again; discard those to FAILED positions. -/
def State.flushParity (s : State) (c : Nat) : State :=
  match s.plan c with
  | none => s
  | some q =>
    match q.p.parityOn with
    | none => s
    | some r =>
      (s.ctx c).parityOut.foldl (fun (s : State) (e : Nat × ParityOut) =>
        let dst := pgPosition q.p.layout r s.fabric.position.toNat e.1
        if s.peerState dst = 3 then
          (s.onCtx c fun x => { x with parityOut := Tab.put x.parityOut e.1 { next := e.2.next } }).ackBlocks c q
            (e.2.sent.map (·.2.1) ++ e.2.wait.map (·.1))
        else State.pumpParity 3 (e.2.sent.foldl (fun s m => s.parityFrames c dst e.1 m) s) c q.p.layout r e.1) s

/-- RECOVER_BEGIN: BUSY in LOADING or PURGING. -/
def execRecoverBegin (h : KcpHdr) (s : State) : Host.Outcome State Fault Refusal :=
  let c := hctx h
  .next <| KcpCmd.arrive
    { opcode := 0x0810, need := .ctx, cls := .recoverBegin
      effect := fun s =>
        let s := s.onCtx c fun x => { x with recovery := { x.recovery with begun := true, quiesced := false, session := h.session } }
        accepted ((s.purge c (s.faults.nextSeq - 1)).flushParity c) }
    (.recoverBegin h) h s

/-- Every message of the context has been applied. -/
def Ctx.parityIdle (x : Ctx) : Bool := x.parityOut.all fun e => e.2.sent.isEmpty && e.2.wait.isEmpty

/-- Steps of the context's blocks. -/
def Ctx.blockSteps (x : Ctx) : List Nat :=
  x.shards.flatMap fun t => (List.range t.count).map fun i => (Tab.get ({} : Block) t.blocks (t.first + i)).step

/-- The lowest PSTEP held for blocks of members at FAILED positions, or all ones. -/
def State.lostPstep (s : State) (c : Nat) : Nat :=
  (s.fabric.psteps.filter fun e => e.1 / 2 ^ 47 = c && s.peerState (e.1 / 2 ^ 32 % 2 ^ 15) = 3).foldl (fun m e => min m e.2) (2 ^ 64 - 1)

/-- RECOVER_READY's parameters (R382). -/
def State.readyParams (s : State) (c : Nat) : List Byte :=
  let x := s.ctx c
  let ks := x.blockSteps
  let low := match ks with | [] => x.step.toNat | k :: r => r.foldl min k
  be 8 x.step.toNat ++ be 8 low ++ be 8 (s.lostPstep c) ++ be 4 (ks.filter fun k => decide (k < x.step.toNat)).length ++ be 4 0

/-- RECOVER_READY. -/
def execRecoverReady (ctx : Fin 64) (s : State) : Host.Outcome State Fault Refusal :=
  let c := ctx.val
  let x := s.ctx c
  .next (onlyIf (x.state = .faulted && x.recovery.begun && !x.recovery.quiesced && x.parityIdle) (fun s =>
    let s := s.onCtx c fun x => { x with recovery := { x.recovery with quiesced := true } }
    match s.slotOf x.recovery.session with
    | some slot => s.notify slot 0x08F1 (BitVec.ofNat 8 c) (s.readyParams c)
    | none => s) s)

/-! ### RECOVER_POINT (R384) -/

/-- Restore the poisoned sectors of a range from parity or a replica (log entry 38). -/
def State.restorePoison (s : State) (a n : Nat) : State :=
  (List.range ((a + n + 63) / 64 - a / 64)).foldl (fun s i =>
    let sec := (a / 64 + i) * 64
    if (s.mem.poisonIn sec 64).isNone then s else
    let old := s.mem.read sec 64
    let new := (s.peerBytes 64).zipIdx.map fun b => if a ≤ sec + b.2 && sec + b.2 < a + n then b.1 else old.getD b.2 0
    (s.write sec new).drawn) s

/-- A block at the recovery point `r`: at r + 1 it is AHEAD; below r and without late gradients it is advanced. -/
def Shard.toPoint (t : Shard) (r : Nat) : Shard :=
  let late := fun (b : Nat) => t.late.any fun g => g.block = b
  let bs := (List.range t.count).foldl (fun (bs : Tab Block) i =>
    let b := t.first + i
    let x := Tab.get ({} : Block) t.blocks b
    Tab.put bs b { x with
      step := if x.step < r && !late b && !t.inCistern then r else x.step, ahead := decide (r < x.step), phase := .idle, grad := [], landed := 0, gradStep := 0
      late := false, dir := [], rootL := 0, rootR := 0, sweep := none, undo := [], holdFix := false, posted := 0, feeding := 0 }) t.blocks
  let low := (List.range t.count).foldl (fun m i => min m (Tab.get ({} : Block) bs (t.first + i)).step) (r + 1)
  { t with blocks := bs, step := if t.inCistern then t.step else max t.step (min low (r + 1)) }

/-- Blocks that R384 advances without their updates. -/
def Shard.skipped (t : Shard) (r : Nat) : List Nat :=
  ((List.range t.count).map (t.first + ·)).filter fun b =>
    decide ((Tab.get ({} : Block) t.blocks b).step < r) && !(t.late.any fun g => g.block = b)

/-- Return to the recovery point: blocks, fences, grids, counters. -/
def State.recoverPoint (s : State) (c : Nat) (q : Plan) (r : Nat) : State :=
  let s := q.ownedBlocks.foldl (fun s x => (q.protectedSpans x.1 x.2).foldl (fun s y => s.restorePoison y.1 y.2) s) s
  let gone := (s.ctx c).shards.flatMap fun t => if t.inCistern then [] else (t.skipped r).map fun b => (t.layer, t.expert, b)
  let s := s.onCtx c fun x => { x with shards := x.shards.map fun t => t.toPoint r }
  -- the newest copy of a block that missed updates becomes that of generation r + 1 (R219)
  let s := gone.foldl (fun (s : State) (g : Nat × Nat × Nat) => match q.layer? g.1 g.2.1 with
    | some u => s.emitBlock c q u g.2.2 (r + 1)
    | none => s) s
  let s := s.countCtx9 c 8 gone.length
  let s := { s with
    fences := Tab.mapAll s.fences fun _ f =>
      if f.owner = c then { f with value := f.init + BitVec.ofNat 32 (r * f.stride.toNat), frozen := false } else f
    fabric := { s.fabric with
      dispatch := s.fabric.dispatch.filter fun d => d.1 / 2 ^ 15 ≠ c
      listed := s.fabric.listed.filter fun d => d.1 / 2 ^ 15 ≠ c
      rows := s.fabric.rows.filter fun d => d.1 / 2 ^ 48 ≠ c
      combine := Tab.drop s.fabric.combine c } }
  let upTo := fun (k : Nat) => decide (keyStep k ≤ r)
  s.onCtx c fun x => { x with
    state := .held, service := .recovery, step := BitVec.ofNat 64 r, started := r, nextGrid := q.p.grids.length, runLeft := 0, holdStep := none
    purge := none, grids := [], rewritten := [], layerAcc := [], gathered := Tab.mapAll x.gathered fun _ k => min k r
    signalled := q.p.layers.foldl (fun t u => Tab.put t (uLayer u) r) []
    ownerDone := s.ownersAt q r
    stats := { x.stats with
      kept := x.stats.kept.filter fun e => upTo e.1, groups := x.stats.groups.filter fun e => upTo e.1
      tapped := x.stats.tapped.filter fun e => upTo e.1, peers := x.stats.peers.filter fun y => decide (y.step ≤ r) }
    recovery := { x.recovery with begun := false, quiesced := false, point := r }
    folds := { x.folds with
      digests := x.folds.digests.filter fun d => decide (r < d.1), baseline := false, copied := [], table := [], peers := []
      phase := .none, regions := [], localised := [], granules := [], holdNext := false } }

/-- A slot of the module's parity row is poisoned: the group is degraded until it is rebuilt (R398). -/
def State.badSlots (s : State) (q : Plan) : List Nat :=
  match q.p.parityOn with
  | none => []
  | some r => (List.range ((q.ownedBlocks.length + pgSize r - 2) / max 1 (pgSize r - 1))).filter fun k =>
      (s.mem.poisonIn (r.field 1 47 0 + k * pgSlot r) (pgSlot r)).isSome

def execRecoverPoint (h : KcpHdr) (point : W64) (s : State) : Host.Outcome State Fault Refusal :=
  let c := hctx h
  .next <| KcpCmd.arrive
    { opcode := 0x0811, need := .ctx, cls := .recovery
      checks := fun s =>
        let x := s.ctx c
        let holes := (s.plan c).elim 0 fun q => bit01 !(s.badSlots q).isEmpty
        [(decide (point.toNat + 1 < x.step.toNat), .badParam), (x.state ≠ .faulted || !x.recovery.quiesced, .busy), (x.program.isNone, .notReady),
         (decide (2 ≤ x.recovery.lost.length + holes), .fenced)]
      effect := fun s => done (match s.plan c with | some q => s.recoverPoint c q point.toNat | none => s) }
    (.recoverPoint h point) h s

/-! ### RECOVER_LOAD and the end of a load (R338, R385, R387, R388) -/

/-- RECOVER_LOAD: as PROG_LOAD, with POINT and FLAGS; bit 0 is REJOIN. -/
def execRecoverLoad (h : KcpHdr) (dir : W64) (entries : W16) (point : W64) (flags : W32) (s : State) : Host.Outcome State Fault Refusal :=
  .next <| KcpCmd.arrive
    { opcode := 0x0814, need := .ctx, cls := .recovery
      checks := fun s => (decide (2 ≤ flags.toNat), .badParam) :: loadChecks h dir entries s
      effect := fun s => accepted (s.onCtx (hctx h) fun x => { x with state := .loading, load := some (
        { session := h.session, dir := dir.toNat, entries := entries.toNat, recover := true, rejoin := flags = 1, point := point.toNat } : LoadReq) }) }
    (.recoverLoad h dir entries point flags) h s

/-- Factors and roots of a rebuilt module: a replica's, or zeroed with the headers of step `r` (R145, R387). -/
def State.recoverFactors (s : State) (q : Plan) (r : Nat) : State :=
  if layoutH q.p.layout < layoutLog q.p.layout 0 then q.p.stats.foldl (fun s d => s.peerStorage d true) s
  else q.p.stats.foldl (fun s d =>
    let m := s.mem.initFactors d
    { s with mem := [0, 1].foldl (fun m side => (List.range (sFactors d side)).foldl (fun m k =>
        let a := factorAddr d side k (r % 2)
        m.putHead a { m.factorHead a with step := r }) m) m }) s

/-- A block that a rejoining module keeps: its folds, recomputed, equal the table that survived the reset, and its step equals its holder's
PSTEP, which the holder knows (log entry 38). -/
def State.keptBlock (s : State) (q : Plan) (old : Tab (W64 × Nat)) (i : Nat) (u : Rec) (b : Nat) : Bool :=
  (List.range (q.blockRegions u b)).all (fun k =>
    decide (foldOf (s.stateBytes q u b (k * 2 ^ 20) (2 ^ 20)) = Tab.get (0, 0) old (q.firstRegion u b + k))) && s.peerBit (2 * i)

/-- Step of a rebuilt or kept block: its PSTEP, at the recovery point or one above it (R384, R386). -/
def State.pstepOf (s : State) (r i : Nat) : Nat := r + bit01 (s.peerBit (2 * i + 1))

/-- Set the step of a rebuilt block: one above the recovery point is AHEAD, and discards the gradient it has (R384). -/
def State.setRebuilt (s : State) (c : Nat) (u : Rec) (b r k : Nat) : State :=
  match (s.ctx c).blockAt u b with
  | none => s
  | some (i, x) =>
    let old := ((s.ctx c).shards[i]?.map (·.late)).getD []
    let drop := fun (g : LateGrad) => g.block = b && decide (g.step ≤ k)
    let s := s.setBlock c i b { x with step := k, ahead := decide (r < k), acked := true, parityStep := k, undo := [] }
    (s.onCtx c fun y => { y with shards := y.shards.modify i fun t => { t with late := t.late.filter fun g => !drop g } }).countCtx9 c 6
      (old.filter drop).length

/-- A shard whose blocks have all been rebuilt leaves the Cistern, and its moments hold usable values again (R195, R213). -/
def State.settleRebuilt (s : State) (c : Nat) (q : Plan) : State :=
  let todo := (s.ctx c).recovery.todoBlocks
  let point := (s.ctx c).recovery.point
  let settle := fun (t : Shard) =>
    match q.layer? t.layer t.expert with
    | none => t
    | some u =>
      if !t.parityPart || ((List.range t.count).any fun i => todo.contains (q.blockNo u (t.first + i))) then t else
      let low := (List.range t.count).foldl (fun m i => min m (Tab.get ({} : Block) t.blocks (t.first + i)).step) (point + 1)
      { t with inCistern := false, parityPart := false, momentValid := true, step := max t.step low }
  s.onCtx c fun x => { x with shards := x.shards.map settle }

/-- What a recovery load leaves: every owned shard in the Cistern with the Parity Group as its source and its moments lost with the module, the
step counter at POINT, the context HELD (R195, R385; log entry 42). -/
def State.finishRecovery (s : State) (c : Nat) (q : Plan) (l : LoadReq) : State :=
  let r := l.point
  let old := (s.ctx c).folds.fold
  let n := q.ownedBlocks.length
  let slots := match q.p.parityOn with
    | some g => (n + pgSize g - 2) / max 1 (pgSize g - 1)
    | none => 0
  let me := match q.p.parityOn with
    | some g => [pgMember q.p.layout g s.fabric.position.toNat]
    | none => []
  let s := s.recoverFactors q r
  let kLate := q.p.update.field 0 59 56
  let refs := q.p.factorRefs
  let key := fun (x : Rec × FactorRef) => blockKey x.2.1 x.2.2.1 x.2.2.2
  let sched := refs.foldl (fun t x =>
    match s.mem.newestRoot x.1 x.2.2.1 x.2.2.2 with
    | some k => Tab.put t (key x) (s.mem.rootHead (rootAddr x.1 x.2.2.1 x.2.2.2 k)).step
    | none => t) []
  let done' := refs.foldl (fun (t : Tab Nat) x => Tab.put t (key x) r) []
  let word := fun (i k : Nat) => Config.freeValue (s.free + 3 * i + k)
  let s := s.onCtx c fun x => { x with
    state := .held, service := .recovery, step := BitVec.ofNat 64 r, started := r, nextGrid := q.p.grids.length, holdSess := l.session
    -- the manual does not say what MOMENT_AGE, B1POW and B2POW of a rebuilt shard are: free values
    shards := x.shards.zipIdx.map fun t => { t.1 with
      step := r, momentValid := false, inCistern := true, parityPart := true, lateSlots := kLate + 1, age := word t.2 0, b1pow := word t.2 1, b2pow := word t.2 2
      blocks := (List.range t.1.count).foldl (fun (bs : Tab Block) i => Tab.put bs (t.1.first + i) { step := r, parityStep := r }) [] }
    signalled := q.p.layers.foldl (fun t u => Tab.put t (uLayer u) r) []
    ownerDone := s.ownersAt q r
    stats := { x.stats with absorbed := done', lastSched := sched, scheduled := r }
    recovery := { blocks := n, todoBlocks := List.range n, slots := slots, todoSlots := List.range slots, point := r, lost := me } }
  let s := { s with
    free := s.free + 3 * (s.ctx c).shards.length
    fences := Tab.mapAll s.fences fun _ f => if f.owner = c then { f with value := f.init + BitVec.ofNat 32 (r * f.stride.toNat) } else f }
  let s := s.scheduleDue c
  let s := if l.rejoin then
      let kept := q.ownedBlocks.zipIdx.filter fun x => s.keptBlock q old x.2 x.1.1 x.1.2
      let t := kept.foldl (fun (t : State) x => t.setRebuilt c x.1.1 x.1.2 r (s.pstepOf r x.2)) s
      (t.onCtx c fun x => { x with recovery := { x.recovery with todoBlocks := x.recovery.todoBlocks.filter fun i => !(kept.any fun k => k.2 = i) } }).drawn
    else s
  s.settleRebuilt c q

/-- LOAD_DONE: the load's checks decide it; a load that fails leaves the context CREATED (R338). -/
def State.loadDone (s : State) (c : Nat) (l : LoadReq) : State :=
  let r := s.tryLoad c l.dir l.entries l.recover
  match r.st with
  | none => (s.endLoad c .created).reportLoad c l.session r.status r.item
  | some (t, q) =>
    let t := if l.recover then t.finishRecovery c q l else (t.emitAll c q 1).refoldAll c q
    t.announceLayout.reportLoad c l.session .ok (0, 0, 0)

def execLoadDone (ctx : Fin 64) (s : State) : Host.Outcome State Fault Refusal :=
  .next (if (s.ctx ctx.val).state = .loading then whenReady (s.ctx ctx.val).load (fun l => s.loadDone ctx.val l) s else s)

/-! ### The rebuild (R386) -/

/-- REBUILD_DONE once nothing is left. -/
def State.rebuildEnd (s : State) (c : Nat) (q : Plan) : State :=
  let x := (s.ctx c).recovery
  if !x.todoBlocks.isEmpty || !x.todoSlots.isEmpty || !(s.badSlots q).isEmpty then s
  else (s.raise 0x57 (some c) unitModule (BitVec.ofNat 64 x.blocks) (BitVec.ofNat 32 x.slots)).onCtx c fun y => { y with recovery := { y.recovery with lost := [] } }

/-- All parts of a block have arrived. -/
def State.rebuildBlock (s : State) (c : Nat) (q : Plan) (r : Rec) (i : Nat) (u : Rec) (b : Nat) : State :=
  let ss := q.protectedSpans u b
  let n := spanBytes ss
  let k := s.pstepOf (s.ctx c).recovery.point i
  let s := ({ s with mem := s.mem.writeSpans ss 0 (s.peerBytes n) }).refold c q u b
  let s := (s.countCtx9 c 7 ((pgSize r - 1) * n)).setRebuilt c u b (s.ctx c).recovery.point k
  let s := s.onCtx c fun x => { x with recovery := { x.recovery with todoBlocks := x.recovery.todoBlocks.filter fun j => j ≠ i } }
  ((s.drawn.settleRebuilt c q).tryFence 16 c (uLayer u)).rebuildEnd c q

/-- All parts of a parity slot have arrived: the XOR of the contributors' current blocks, each at its own step. -/
def State.rebuildSlot (s : State) (c : Nat) (q : Plan) (r : Rec) (k : Nat) : State :=
  let me := s.fabric.position.toNat
  let g := pgSize r
  let h := pgMember q.p.layout r me
  let s' := s.write (r.field 1 47 0 + k * pgSlot r) (s.peerBytes (pgSlot r))
  let ps := ((List.range g).filter fun j => j ≠ h).foldl (fun t j =>
    let b := k * (g - 1) + (h + g - j - 1) % g
    Tab.put t (c * 2 ^ 47 + pgPosition q.p.layout r me j * 2 ^ 32 + b) (s.pstepOf (s.ctx c).recovery.point b)) s'.fabric.psteps
  let s := ({ s' with fabric := { s'.fabric with psteps := ps } }).countCtx9 c 7 ((g - 1) * pgSlot r)
  ((s.onCtx c fun x => { x with recovery := { x.recovery with todoSlots := x.recovery.todoSlots.filter fun j => j ≠ k } }).drawn).rebuildEnd c q

/-- REBUILD_BLOCK: places from 0 are the module's blocks, those after them the slots of its parity row. -/
def execRebuildBlock (ctx : Fin 64) (block : Nat) (s : State) : Host.Outcome State Fault Refusal :=
  let c := ctx.val
  let x := s.ctx c
  .next (match s.plan c with
    | none => s
    | some q =>
      match q.p.parityOn with
      | none => s
      | some r =>
        if !x.takesFrames then s else
        let n := q.ownedBlocks.length
        match q.ownedBlocks[block]? with
        | some (u, b) => if x.recovery.todoBlocks.contains block then s.rebuildBlock c q r block u b else s
        | none => if x.recovery.todoSlots.contains (block - n) || (s.badSlots q).contains (block - n) then s.rebuildSlot c q r (block - n) else s)

/-! ### Queries (R382) -/

def execRebuildQuery (h : KcpHdr) (s : State) : Host.Outcome State Fault Refusal :=
  .next <| KcpCmd.arrive
    { opcode := 0x0815, need := .ctx, cls := .query
      effect := fun s =>
        let x := (s.ctx (hctx h)).recovery
        done s (be 4 x.blocks ++ be 4 (x.blocks - x.todoBlocks.length) ++ be 4 x.slots ++ be 4 (x.slots - x.todoSlots.length)) }
    (.rebuildQuery h) h s

/-- DIGEST_READ: BAD_PARAM when the label is not held. The manual does not code STATE (log entry 43). -/
def execDigestRead (h : KcpHdr) (label : W64) (s : State) : Host.Outcome State Fault Refusal :=
  let held := fun (s : State) => (s.ctx (hctx h)).folds.digests.find? fun d => d.1 = label.toNat
  .next <| KcpCmd.arrive
    { opcode := 0x0818, need := .ctx, cls := .query
      checks := fun s => [((held s).isNone, .badParam)]
      effect := fun s => done s (match held s with
        | some d => be 8 label.toNat ++ be 1 (Config.digestState d.2.2).toNat ++ be 3 0 ++ be 32 d.2.1.toNat
        | none => []) }
    (.digestRead h label) h s

def divPhaseCode : DivPhase → Nat
  | .none => 0 | .regions => 1 | .granules => 2 | .located => 3 | .unresolved => 4

/-- DIVERGENCE_READ: the first differing granule with the members that differ. With none located the three are free values. -/
def execDivergenceRead (h : KcpHdr) (s : State) : Host.Outcome State Fault Refusal :=
  .next <| KcpCmd.arrive
    { opcode := 0x0819, need := .ctx, cls := .query
      effect := fun s =>
        let f := (s.ctx (hctx h)).folds
        let st := be 2 (Config.divergenceState (divPhaseCode f.phase)).toNat
        match f.granules with
        | d :: _ => done s (be 8 d.region ++ be 2 d.granule ++ st ++ be 4 (differing d.folds))
        | [] => done s.drawn (be 8 s.freeWord.toNat ++ be 2 (s.freeWord.toNat % 2 ^ 16) ++ st ++ be 4 s.freeWord.toNat) }
    (.divergenceRead h) h s

end Sys2Proof.Machine
end

