-- ==== Sys2Proof/Machine/Purge.lean ====
section
/-!
DEFINITION. The end of a context purge with its snapshot (R362 to R364), the removal of a context's work under the rules that R362
names (R29, R83, R102, R183, R209, R356), and engine resets (R365, R366).
-/
namespace Sys2Proof.Machine

open Sys2Proof

/-! ### The snapshot (R363, R364) -/

/-- A section: type, status (0 OK, 1 HUNG, 2 SKIPPED), contents. -/
structure SnapSection where
  kind   : Nat
  status : Nat
  data   : List Byte

/-- 64-bit words as the snapshot stores them (R9; log entry 44). -/
def snapWords (xs : List Nat) : List Byte := xs.flatMap fun x => le 8 (x % 2 ^ 64)

/-- A refresh as words: step, virtual engine, layer index, side, block. -/
def Refresh.snap (r : Refresh) : List Nat := [r.step, r.engine, r.layer, r.side, r.block]

/-- The refresh that a job runs. -/
def RteJob.refresh (j : RteJob) : Refresh := ⟨j.step, j.venv, j.layer, j.side, j.block⟩

/-- A grid's GSEQ and its tasks issued, completed and in flight (section 3). -/
def GridRun.snap (g : GridRun) : List Nat :=
  let open' := (g.tasks.filter fun t => !g.done.contains t.1 && (t.2.joined || t.2.finished || t.2.started.any fun n => decide (0 < n.2))).length
  [g.slot, g.gseq.toNat, g.done.length + open', g.done.length, open']

/-- Segments that a collective has sent and received (section 8). -/
def State.collSegs (s : State) (k : Collective) : Nat × Nat :=
  match s.collPlan k with
  | none => (0, k.seen.length)
  | some p =>
    let reduces := k.op = 0 || k.op = 2
    let first := (p.segs.filter fun g => decide (1 < p.n) && (if reduces then p.starter g = p.me else g.owner = p.me)).length
    let on := (k.seen.filter fun x => p.segs.any fun g => g.off = x.2 &&
      (if x.1 = 0 then p.me ≠ g.owner || k.op = 2 else p.next g ≠ g.owner)).length
    (first + on, k.seen.length)

/-- An array group's passes, slots and chain of the context (section 5). -/
def ArrayUnit.snap (x : ArrayUnit) (c n : Nat) : List Nat :=
  let ps := (x.passes.filter fun p => p.ctx = c).flatMap fun p =>
    let work := match p.kind with
      | .task slot t => slot * 2 ^ 32 + t
      | .stat l side b g => 2 ^ 63 + l * 2 ^ 40 + side * 2 ^ 39 + b * 2 ^ 16 + g
      | .pre i b => 2 ^ 62 + i * 2 ^ 32 + b
    [work, p.tile, p.index, p.run]
  let es := (x.slots ++ x.transfer ++ x.handover.toList).filter fun e => e.ctx = c
  let rs := x.runs.filter fun r => r.ctx = c
  [n, ps.length / 4] ++ ps ++ [es.length] ++ es.flatMap (fun e => [e.tile, e.slot * 2 ^ 32 + e.task, e.status.toNat]) ++
    rs.flatMap fun r => [r.slot * 2 ^ 32 + r.task, r.row, r.group]

/-- What a unit answers: the type and contents of its section. -/
def State.unitSnap (s : State) (c : Nat) (e : Engine) : Nat × List Byte :=
  let x := s.ctx c
  match e with
  | .array n => (5, snapWords ((s.array n.val).snap c n.val))
  | .fuu n =>
    let late := x.shards.foldl (fun k t => k + (t.late.map (·.step)).eraseDups.length) 0
    let work := match (s.fuu n.val).sweep with
      | some (_, i, b) => [i, b, ((x.shards[i]?).map (fun (t : Shard) => t.step + 1)).getD 0, 1]
      | none => []
    (6, snapWords ([n.val, late] ++ work))
  | .rte n =>
    let r := s.rte n.val
    (7, snapWords ([n.val] ++ ((r.job.toList ++ r.publish ++ r.restart).filter fun j => j.ctx = c).flatMap fun j => j.refresh.snap))
  | .coll n =>
    (8, snapWords ([n.val] ++ (s.fabric.colls.filter fun k => k.ctx = c && (s.groupDies c k.group).contains n.val).flatMap fun k => [k.group, k.op, (s.collSegs k).1, (s.collSegs k).2]))
  | .dma n => (5, snapWords [n.val])

/-- A unit that is out of service (R363, R367). -/
def State.unitOut (s : State) (e : Engine) : Bool :=
  match e with
  | .array n => (s.array n.val).retired || s.faults.dies.any fun d => match d with | .cd k => decide (k.val = n.val / 24) | _ => false
  | .rte n => !(s.rte n.val).inService || s.faults.dies.any fun d => match d with | .cd k => decide (k.val = n.val) | _ => false
  | .fuu n | .dma n => s.faults.dies.any fun d => match d with | .bd k => decide (k.val = n.val) | _ => false
  | .coll n => s.faults.dies.any fun d => match d with | .io k => decide (k.val = n.val) | _ => false

/-- The sections of a purge: those that firmware holds, and one of each unit that was asked (log entry 44). -/
def State.snapSections (s : State) (c : Nat) (p : Purge) : List SnapSection :=
  let x := s.ctx c
  let units := p.asked.map fun e =>
    let u := s.unitSnap c e
    if s.unitOut e then ⟨u.1, 2, []⟩ else if p.hung.contains e then ⟨u.1, 1, []⟩ else (⟨u.1, 0, u.2⟩ : SnapSection)
  let ofKind := fun (k : Nat) => units.filter fun u => u.kind = k
  let fences := s.fences.filter fun f => f.2.owner = c
  let work := (s.structs.filter fun r => r.2.owner = c).flatMap fun r => [r.1, r.2.work.length, bit01 r.2.running]
  let parity := x.parityOut.flatMap fun o =>
    o.2.sent.flatMap (fun m => [o.1, m.1.toNat, m.2.1, m.2.2.1]) ++ o.2.wait.flatMap fun m => [o.1, 2 ^ 64 - 1, m.1, m.2.1]
  let counters := (s.counterBlock c 0 0 ++ s.counterBlock c 1 0 ++ s.counterBlock c 9 0 ++ x.idleWords).map fun w => w.toNat
  [⟨1, 0, snapWords [ctxStateCode x.state, x.step.toNat, x.runLeft.toNat, serviceCode x.service, x.priority, x.partition, p.cause.toNat]⟩,
   ⟨2, 0, x.shards.flatMap fun t => t.words.flatMap fun w => le 8 w.toNat⟩,
   ⟨3, 0, snapWords (x.grids.flatMap GridRun.snap)⟩,
   ⟨4, 0, snapWords (fences.flatMap fun f => [f.1, f.2.value.toNat, f.2.init.toNat, f.2.stride.toNat])⟩] ++
  ofKind 5 ++ ofKind 6 ++ ofKind 7 ++
  [⟨7, 0, snapWords ([2 ^ 64 - 1, x.stats.schedule.length] ++ x.stats.schedule.flatMap Refresh.snap ++ work)⟩] ++ ofKind 8 ++
  [⟨9, 0, snapWords counters ++ x.capture.flatMap fun w => le 4 w.toNat⟩, ⟨10, 0, snapWords parity⟩]

/-- The directory and the sections behind it. -/
def laySnap (xs : List SnapSection) (pos : Nat) : List Byte × List Byte :=
  match xs with
  | [] => ([], [])
  | x :: r =>
    let t := laySnap r (pos + x.data.length)
    (le 4 (x.kind + x.status * 2 ^ 16) ++ le 4 (if x.data.isEmpty then 0 else pos) ++ le 4 x.data.length ++ le 4 (crc32c x.data).toNat ++ t.1,
     x.data ++ t.2)

/-- The bytes of a snapshot: header, directory, sections. -/
def State.snapImage (s : State) (c : Nat) (p : Purge) : List Byte :=
  let xs := s.snapSections c p
  let z := laySnap xs (0x1000 + 16 * xs.length)
  padTo 0x1000 (le 4 0x504E534B ++ le 4 xs.length ++ le 4 (0x1000 + z.1.length + z.2.length)) ++ z.1 ++ z.2

/-! ### Removal of a context's work -/

/-- A shard after a purge: gradients that have arrived are released, and every update under way is discarded (R209). -/
def Shard.purged (t : Shard) : Shard :=
  { t with blocks := Tab.mapAll t.blocks fun _ b =>
      { b with
        step := if t.inCistern || b.ahead then b.step else min b.step t.step
        undo := if b.acked then [] else b.undo
        phase := .idle, grad := [], landed := 0, gradStep := 0, late := false, dir := [], rootL := 0, rootR := 0, sweep := none, pflags := 0, posted := 0
        feeding := 0 } }

/-- The words of the committed blocks of a shard whose step is not complete return from the undo area (R29, R209). -/
def State.restoreShard (s : State) (c : Nat) (q : Plan) (t : Shard) : State :=
  match q.layer? t.layer t.expert with
  | none => s
  | some u =>
    t.blocks.foldl (fun (s : State) (e : Nat × Block) =>
      let b := e.2
      if b.step ≤ t.step || b.ahead || b.undo.isEmpty then s else
      let ss := q.stateSpans u e.1 ++ [(q.wcAt u e.1 (b.step + 1), wcBytes q.p.update * blockElems q.p.stats u e.1)]
      ({ s with mem := s.mem.writeSpans ss 0 b.undo }).refold c q u e.1) s

/-- Updates: undo, release, and the purged steps of the shards. -/
def State.undoUpdates (s : State) (c : Nat) : State :=
  let s := match s.plan c with
    | some q => (s.ctx c).shards.foldl (fun (s : State) t => s.restoreShard c q t) s
    | none => s
  s.onCtx c fun x => { x with shards := x.shards.map Shard.purged, fetches := [] }

/-- Refreshes under way stop: VALID of their buffers is clear, and they go back to the head of the schedule (R183; log entry 44). -/
def State.stopRefreshes (s : State) (c : Nat) : State :=
  let js := (s.rtes.flatMap fun e => e.2.job.toList ++ e.2.publish ++ e.2.restart).filter fun j => j.ctx = c && !j.isResident
  let stats := match (s.ctx c).program with | some p => p.stats | none => []
  let m := js.foldl (fun (m : Mem) j => match stats[j.layer]? with
    | some d => m.invalidate (rootAddr d j.side j.block (m.rootTarget d j.side j.block))
    | none => m) s.mem
  ({ s with mem := m }).onCtx c fun x => { x with stats := { x.stats with schedule := js.map RteJob.refresh ++ x.stats.schedule } }

/-- The purge ends: the snapshot is kept, the work is gone, the context is FAULTED (R362 steps 3 and 4). -/
def State.endPurge (s : State) (c : Nat) (p : Purge) : State :=
  let snap := s.snapImage c p
  let s := (((s.stopRefreshes c).removeWork c).stopSolves c).undoUpdates c
  let s := s.onCtx c fun x => { x with state := .faulted, purge := none, snapshot := snap }
  (s.countFault 0 1).raise 0x30 (some c) unitModule (BitVec.ofNat 64 snap.length) (BitVec.ofNat 32 (p.hung ++ p.late).length)

/-- A pass of the context is under way on an array that runs: it completes its writes before the context's work goes (R83). -/
def State.passUnderWay (s : State) (c : Nat) : Bool :=
  (List.finRange 192).any fun (a : Fin 192) => s.cdRuns (a.val / 24) && (s.array a.val).passes.any fun p => p.ctx = c

/-- CONTEXT_PURGED: every asked unit has confirmed, no pass of the context is under way, and no engine reset of the purge is under way.
Firmware ends it, so it waits while the core restarts (R370). -/
def execContextPurged (ctx : Fin 64) (s : State) : Host.Outcome State Fault Refusal :=
  let x := s.ctx ctx.val
  .next (onlyIf (x.state = .purging && s.faults.coreUp) (fun s => whenReady x.purge (fun p =>
    if s.passUnderWay ctx.val || (p.hung ++ p.late).any fun e => s.faults.engines.contains e then s else s.endPurge ctx.val p) s) s)

/-- PURGE_UNIT_TIMEOUT: an asked unit has not answered within 10 µs, or not confirmed within 20 µs of the request: it is reset, and
PURGE_HUNG is raised once (R362). -/
def State.purgeTimeout (s : State) (c : Nat) (p : Purge) (e : Engine) (late : Bool) : State :=
  if !p.asked.contains e || p.hung.contains e || p.late.contains e then s else
  let s := if p.hung.isEmpty && p.late.isEmpty then s.raise 0x31 (some c) (engineUnit e) 0 0 else s
  (s.onCtx c fun x => { x with purge := some (if late then { p with late := p.late ++ [e] } else { p with hung := p.hung ++ [e] }) }).askEngineReset e

def execPurgeUnitTimeout (ctx : Fin 64) (unit : Engine) (confirmLate : Bool) (s : State) : Host.Outcome State Fault Refusal :=
  let x := s.ctx ctx.val
  .next (onlyIf (x.state = .purging && s.faults.coreUp) (fun s => whenReady x.purge (fun p => s.purgeTimeout ctx.val p unit confirmLate) s) s)

/-! ### Engine resets (R366) -/

/-- A block of the context waits or runs on the Fused Update Unit of a base die. -/
def State.updatesOn (s : State) (c n : Nat) : Bool :=
  match s.plan c with
  | none => false
  | some q => (s.ctx c).shards.any fun t => (t.blocks.any fun b => b.2.phase ≠ .idle) && (q.layer? t.layer t.expert).any fun u => q.dieOf u = n

/-- The context has work on an engine. -/
def State.worksOn (s : State) (c : Nat) (e : Engine) : Bool :=
  match e with
  | .array n =>
    let a := s.array n.val
    a.passes.any (fun p => p.ctx = c) || a.slots.any (fun x => x.ctx = c) || a.transfer.any (fun x => x.ctx = c) ||
      (a.handover.any fun x => x.ctx = c) || (a.runs.any fun r => r.ctx = c) ||
      (s.mxaTasks c).any fun x => (s.runState n.val c x.1 x.2.1 x.2.2).isSome
  | .rte n => ((s.rte n.val).job.toList ++ (s.rte n.val).publish ++ (s.rte n.val).restart).any fun j => j.ctx = c
  | .fuu n => s.updatesOn c n.val
  | .dma n => (List.range 24).any fun i => (s.array (24 * n.val + i)).passes.any fun p => p.ctx = c
  | .coll n => s.collOn c n.val

/-- Contexts whose work an engine's reset re-issues, as a mask: not those being purged. -/
def State.reissued (s : State) (e : Engine) : W64 :=
  s.ctxs.foldl (fun m k => if k.2.state ≠ .purging && s.worksOn k.1 e then m ||| BitVec.ofNat 64 (2 ^ k.1) else m) 0

/-- The write sweep of a unit is discarded and restarts; nothing of it has been written before its commit (R29). -/
def State.restartSweep (s : State) (n : Nat) : State :=
  match (s.fuu n).sweep with
  | none => s
  | some (c, i, b) =>
    let s := s.setFuu n { s.fuu n with sweep := none }
    match s.site? c i b with
    | none => s
    | some x => if x.block.phase = .swept then s.setBlock c i b { x.block with phase := .started, sweep := none } else s

/-- Frames for a position leave the module on an I/O die. -/
def State.leavesOn (s : State) (dst d : Nat) : Bool :=
  s.layout?.any fun l => (s.nextHop l dst).any fun h => (axisPorts (layoutAxis l h.1) h.2.2.1).any fun p => p / 8 = d

/-- Every unacknowledged segment of the collective engine of an I/O die is sent again (R262). -/
def State.resendSegments (s : State) (d : Nat) : State :=
  s.fabric.tx.foldl (fun s e =>
    match e.2.unacked with
    | [] => s
    | g :: r => if e.1 = streamId clsColl g.dst.toNat && s.leavesOn g.dst.toNat d then s.resend clsColl g.dst.toNat g.seq.toNat ((r.getLastD g).seq.toNat) else s) s

/-- Re-issue the work of an engine that has passed its test. -/
def State.reissue (s : State) (e : Engine) : State :=
  match e with
  | .array n => (s.withdraw n.val fun _ => true).onArray n.val fun x =>
      { x with runs := [], memWaited := 0, stalled := 0, katRun := false, katPassed := true, fedBy := 0, katNs := s.upNs }
  | .rte n => s.setRte n.val { s.rte n.val with halted := false, job := (s.rte n.val).job.map RteJob.fromStart }
  | .fuu n => s.restartSweep n.val
  | .dma _ => s      -- the blocks and images of the passes under way are built again from the same memory
  | .coll n => s.resendSegments n.val

/-- The test of an engine failed: it is retired where a rule retires it, else its die is reset. -/
def State.failReset (s : State) (e : Engine) : State :=
  match e with
  | .array n => (s.katFailed n.val).retireArray n.val
  | .rte n => s.rteFault n.val false
  | .fuu n | .dma n => s.startDieReset (.bd n)
  | .coll k => s.startDieReset (.io k)

/-- ENGINE_RESET of an engine whose reset was asked for. -/
def execEngineReset (unit : Engine) (testPassed : Bool) (durationUs : Nat) (s : State) : Host.Outcome State Fault Refusal :=
  .next (onlyIf (s.faults.engines.contains unit && s.faults.coreUp) (fun s =>
    let mask := s.reissued unit
    let s := { s with faults := { s.faults with engines := s.faults.engines.filter (· ≠ unit) } }
    let s := (s.countFault 1 1).raise 0x32 none (engineUnit unit) mask (BitVec.ofNat 32 durationUs)
    if testPassed then s.reissue unit else s.failReset unit) s)

end Sys2Proof.Machine
end

