-- ==== Sys2Proof/Machine/Dispatch.lean ====
section
/-!
DEFINITION. One arm per command, each one direct call of its meaning.
-/
namespace Sys2Proof.Machine

open Sys2Proof

def exec (i : Instr) (s : State) : Host.Outcome State Fault Refusal :=
  match i with
  | .devInfo h => Sys2Proof.Machine.execDevInfo h s
  | .devSet h id value => Sys2Proof.Machine.execDevSet h id value s
  | .devGet h id => Sys2Proof.Machine.execDevGet h id s
  | .powerState h value => Sys2Proof.Machine.execPowerState h value s
  | .regulatorSet h partition rate bucket => Sys2Proof.Machine.execRegulatorSet h partition rate bucket s
  | .timeSet h seconds => Sys2Proof.Machine.execTimeSet h seconds s
  | .devReset h level => Sys2Proof.Machine.execDevReset h level s
  | .ctxCreate h priority partition => Sys2Proof.Machine.execCtxCreate h priority partition s
  | .ctxDestroy h => Sys2Proof.Machine.execCtxDestroy h s
  | .ctxQuery h => Sys2Proof.Machine.execCtxQuery h s
  | .ctxPurge h => Sys2Proof.Machine.execCtxPurge h s
  | .ctxPriority h priority => Sys2Proof.Machine.execCtxPriority h priority s
  | .memGrant h base bytes => Sys2Proof.Machine.execMemGrant h base bytes s
  | .memRelease h region => Sys2Proof.Machine.execMemRelease h region s
  | .memWrite h addr data parityErrors => Sys2Proof.Machine.execMemWrite h addr data parityErrors s
  | .memRead h addr bytes parityErrors => Sys2Proof.Machine.execMemRead h addr bytes parityErrors s
  | .memFill h addr bytes pattern fence => Sys2Proof.Machine.execMemFill h addr bytes pattern fence s
  | .streamOpen h stream dir addr bytes => Sys2Proof.Machine.execStreamOpen h stream dir addr bytes s
  | .streamData h stream offset data => Sys2Proof.Machine.execStreamData h stream offset data s
  | .streamClose h stream crc => Sys2Proof.Machine.execStreamClose h stream crc s
  | .streamTimeout slot stream => Sys2Proof.Machine.execStreamTimeout slot stream s
  | .cisternAttach h => Sys2Proof.Machine.execCisternAttach h s
  | .shardSet h layer expert firstBlock momentAge b1pow b2pow => Sys2Proof.Machine.execShardSet h layer expert firstBlock momentAge b1pow b2pow s
  | .cisternPrefetch ctx shard => Sys2Proof.Machine.execCisternPrefetch ctx shard s
  | .progLoad h dir entries => Sys2Proof.Machine.execProgLoad h dir entries s
  | .loadDone ctx => Sys2Proof.Machine.execLoadDone ctx s
  | .progUnload h => Sys2Proof.Machine.execProgUnload h s
  | .progQuery h => Sys2Proof.Machine.execProgQuery h s
  | .gridSubmit h grid => Sys2Proof.Machine.execGridSubmit h grid s
  | .stepRun h count => Sys2Proof.Machine.execStepRun h count s
  | .stepHold h atStep => Sys2Proof.Machine.execStepHold h atStep s
  | .stepQuery h => Sys2Proof.Machine.execStepQuery h s
  | .fenceSignal h fence inc => Sys2Proof.Machine.execFenceSignal h fence inc s
  | .fenceQuery h fence => Sys2Proof.Machine.execFenceQuery h fence s
  | .fenceNotify h fence target => Sys2Proof.Machine.execFenceNotify h fence target s
  | .rsCreate h order nblkA pattern memBase memBytes damp mode => Sys2Proof.Machine.execRsCreate h order nblkA pattern memBase memBytes damp mode s
  | .rsDestroy h handle => Sys2Proof.Machine.execRsDestroy h handle s
  | .rsFeed h handle bytes src => Sys2Proof.Machine.execRsFeed h handle bytes src s
  | .rsFactor h handle fence status => Sys2Proof.Machine.execRsFactor h handle fence status s
  | .rsSolve h handle flags fence nrhs b x status => Sys2Proof.Machine.execRsSolve h handle flags fence nrhs b x status s
  | .rsQuery h handle => Sys2Proof.Machine.execRsQuery h handle s
  | .rsGenerationResident handle => Sys2Proof.Machine.execRsGenerationResident handle s
  | .rsWorkComplete handle => Sys2Proof.Machine.execRsWorkComplete handle s
  | .rootConfig h w0 w1 w2 w3 => Sys2Proof.Machine.execRootConfig h w0 w1 w2 w3 s
  | .rootQuery h layer expert side block => Sys2Proof.Machine.execRootQuery h layer expert side block s
  | .counterRead h block unit first count => Sys2Proof.Machine.execCounterRead h block unit first count s
  | .regRead h addr words silent => Sys2Proof.Machine.execRegRead h addr words silent s
  | .regClear h addr mask => Sys2Proof.Machine.execRegClear h addr mask s
  | .captureRead h => Sys2Proof.Machine.execCaptureRead h s
  | .captureArm h => Sys2Proof.Machine.execCaptureArm h s
  | .tableRead h table count first => Sys2Proof.Machine.execTableRead h table count first s
  | .idleRead h => Sys2Proof.Machine.execIdleRead h s
  | .idleClear h mask => Sys2Proof.Machine.execIdleClear h mask s
  | .eventRead h first count => Sys2Proof.Machine.execEventRead h first count s
  | .snapshotRead h offset bytes => Sys2Proof.Machine.execSnapshotRead h offset bytes s
  | .dumpRead h offset bytes => Sys2Proof.Machine.execDumpRead h offset bytes s
  | .retrainRequest h channel => Sys2Proof.Machine.execRetrainRequest h channel s
  | .recoverBegin h => Sys2Proof.Machine.execRecoverBegin h s
  | .recoverReady ctx => Sys2Proof.Machine.execRecoverReady ctx s
  | .recoverPoint h point => Sys2Proof.Machine.execRecoverPoint h point s
  | .peerSet h position state tag servedBy => Sys2Proof.Machine.execPeerSet h position state tag servedBy s
  | .spareAssign h position => Sys2Proof.Machine.execSpareAssign h position s
  | .recoverLoad h dir entries point flags => Sys2Proof.Machine.execRecoverLoad h dir entries point flags s
  | .rebuildQuery h => Sys2Proof.Machine.execRebuildQuery h s
  | .digestRead h label => Sys2Proof.Machine.execDigestRead h label s
  | .divergenceRead h => Sys2Proof.Machine.execDivergenceRead h s
  | .unitReset h unitKind unitIndex => Sys2Proof.Machine.execUnitReset h unitKind unitIndex s
  | .dieReset h dieKind index => Sys2Proof.Machine.execDieReset h dieKind index s
  | .dumpTake h => Sys2Proof.Machine.execDumpTake h s
  | .sessionOpen h challenge sig sigOk => Sys2Proof.Machine.execSessionOpen h challenge sig sigOk s
  | .sessionClose h => Sys2Proof.Machine.execSessionClose h s
  | .sessionTimeout slot => Sys2Proof.Machine.execSessionTimeout slot s
  | .challengeExpiry addr port => Sys2Proof.Machine.execChallengeExpiry addr port s
  | .hostAck h => Sys2Proof.Machine.execHostAck h s
  | .d2hResend slot sequence => Sys2Proof.Machine.execD2hResend slot sequence s
  | .identInfo h => Sys2Proof.Machine.execIdentInfo h s
  | .identKeyRead h => Sys2Proof.Machine.execIdentKeyRead h s
  | .attest h nonce => Sys2Proof.Machine.execAttest h nonce s
  | .fwBegin h slot bytes => Sys2Proof.Machine.execFwBegin h slot bytes s
  | .fwWrite h offset data => Sys2Proof.Machine.execFwWrite h offset data s
  | .fwEnd h sigOk => Sys2Proof.Machine.execFwEnd h sigOk s
  | .fwActivate h slot sigOk => Sys2Proof.Machine.execFwActivate h slot sigOk s
  | .fwCommit h advance => Sys2Proof.Machine.execFwCommit h advance s
  | .ownerEnroll h pub => Sys2Proof.Machine.execOwnerEnroll h pub s
  | .ownerReplace h pub sig sigOk => Sys2Proof.Machine.execOwnerReplace h pub sig sigOk s
  | .ownerRemove h sig sigOk => Sys2Proof.Machine.execOwnerRemove h sig sigOk s
  | .hostPortLinkUp port common400 lane1 => Sys2Proof.Machine.execHostPortLinkUp port common400 lane1 s
  | .hostPortLaneLoss port lane => Sys2Proof.Machine.execHostPortLaneLoss port lane s
  | .hostPortRetry400G port trained => Sys2Proof.Machine.execHostPortRetry400G port trained s
  | .dhcpRenew port addr gateway prefixLen leaseSec => Sys2Proof.Machine.execDhcpRenew port addr gateway prefixLen leaseSec s
  | .routerAdvertisement port pfx => Sys2Proof.Machine.execRouterAdvertisement port pfx s
  | .neighborDiscovery port msg => Sys2Proof.Machine.execNeighborDiscovery port msg s
  | .arpRequest port target sender => Sys2Proof.Machine.execArpRequest port target sender s
  | .icmpEchoRequest port v6 dst src payload => Sys2Proof.Machine.execIcmpEchoRequest port v6 dst src payload s
  | .write f payload => Sys2Proof.Machine.execWrite f payload s
  | .readReq f requester length => Sys2Proof.Machine.execReadReq f requester length s
  | .readResp f payload => Sys2Proof.Machine.execReadResp f payload s
  | .signal f => Sys2Proof.Machine.execSignal f s
  | .dispatch f payload => Sys2Proof.Machine.execDispatch f payload s
  | .delta f payload => Sys2Proof.Machine.execDelta f payload s
  | .parity f payload => Sys2Proof.Machine.execParity f payload s
  | .coll f payload => Sys2Proof.Machine.execColl f payload s
  | .e2eAck f => Sys2Proof.Machine.execE2eAck f s
  | .e2eNack f => Sys2Proof.Machine.execE2eNack f s
  | .routeUpdate f => Sys2Proof.Machine.execRouteUpdate f s
  | .hopNak f => Sys2Proof.Machine.execHopNak f s
  | .credit f counts => Sys2Proof.Machine.execCredit f counts s
  | .discover f record stamps => Sys2Proof.Machine.execDiscover f record stamps s
  | .linkState f => Sys2Proof.Machine.execLinkState f s
  | .fcsErrorFrame port => Sys2Proof.Machine.execFcsErrorFrame port s
  | .discardedFrame port kind => Sys2Proof.Machine.execDiscardedFrame port kind s
  | .hopAckInterval port => Sys2Proof.Machine.execHopAckInterval port s
  | .portLinkUp port media => Sys2Proof.Machine.execPortLinkUp port media s
  | .laneDrop port lane => Sys2Proof.Machine.execLaneDrop port lane s
  | .laneReadmit port lane => Sys2Proof.Machine.execLaneReadmit port lane s
  | .farEndSilent port => Sys2Proof.Machine.execFarEndSilent port s
  | .portLost port => Sys2Proof.Machine.execPortLost port s
  | .linkUp axis lower => Sys2Proof.Machine.execLinkUp axis lower s
  | .vcShare port value => Sys2Proof.Machine.execVcShare port value s
  | .collectiveStart ctx slot task => Sys2Proof.Machine.execCollectiveStart ctx slot task s
  | .stepStart ctx => Sys2Proof.Machine.execStepStart ctx s
  | .stepBoundary ctx => Sys2Proof.Machine.execStepBoundary ctx s
  | .taskComplete ctx slot task => Sys2Proof.Machine.execTaskComplete ctx slot task s
  | .passStart array => Sys2Proof.Machine.execPassStart array s
  | .passEnd array parityErrors ecc => Sys2Proof.Machine.execPassEnd array parityErrors ecc s
  | .sluiceHandover array => Sys2Proof.Machine.execSluiceHandover array s
  | .vxuIssueGroup vxu ecc parityErrors => Sys2Proof.Machine.execVxuIssueGroup vxu ecc parityErrors s
  | .zrelClearDone array tile => Sys2Proof.Machine.execZrelClearDone array tile s
  | .dispatchAccept vxu => Sys2Proof.Machine.execDispatchAccept vxu s
  | .katDue array => Sys2Proof.Machine.execKatDue array s
  | .katEnd array result => Sys2Proof.Machine.execKatEnd array result s
  | .spareCtl array value => Sys2Proof.Machine.execSpareCtl array value s
  | .skewTrim array value => Sys2Proof.Machine.execSkewTrim array value s
  | .retire array => Sys2Proof.Machine.execRetire array s
  | .runKat array => Sys2Proof.Machine.execRunKat array s
  | .resume array => Sys2Proof.Machine.execResume array s
  | .statAbsorption ctx layer expert side block => Sys2Proof.Machine.execStatAbsorption ctx layer expert side block s
  | .rteJobStart engine => Sys2Proof.Machine.execRteJobStart engine s
  | .rteProductDrain engine residueError => Sys2Proof.Machine.execRteProductDrain engine residueError s
  | .rootPublish engine => Sys2Proof.Machine.execRootPublish engine s
  | .rteFault engine testPassed => Sys2Proof.Machine.execRteFault engine testPassed s
  | .blockUpdateStart ctx shard block => Sys2Proof.Machine.execBlockUpdateStart ctx shard block s
  | .writeSweepStart ctx shard block => Sys2Proof.Machine.execWriteSweepStart ctx shard block s
  | .blockCommit ctx shard block => Sys2Proof.Machine.execBlockCommit ctx shard block s
  | .lateUpdate ctx shard => Sys2Proof.Machine.execLateUpdate ctx shard s
  | .wcbEvict stack => Sys2Proof.Machine.execWcbEvict stack s
  | .scrubStep channel result => Sys2Proof.Machine.execScrubStep channel result s
  | .retrainDue channel => Sys2Proof.Machine.execRetrainDue channel s
  | .driftAlarm channel => Sys2Proof.Machine.execDriftAlarm channel s
  | .retrainStart => Sys2Proof.Machine.execRetrainStart s
  | .retrainEnd passed => Sys2Proof.Machine.execRetrainEnd passed s
  | .channelSilent channel => Sys2Proof.Machine.execChannelSilent channel s
  | .channelFenced channel ceInHour ueInHour => Sys2Proof.Machine.execChannelFenced channel ceInHour ueInHour s
  | .granuleRelocate channel => Sys2Proof.Machine.execGranuleRelocate channel s
  | .contextPurged ctx => Sys2Proof.Machine.execContextPurged ctx s
  | .purgeUnitTimeout ctx unit confirmLate => Sys2Proof.Machine.execPurgeUnitTimeout ctx unit confirmLate s
  | .engineReset unit testPassed durationUs => Sys2Proof.Machine.execEngineReset unit testPassed durationUs s
  | .dieResetComplete die outcome => Sys2Proof.Machine.execDieResetComplete die outcome s
  | .moduleWarmReset inputs => Sys2Proof.Machine.execModuleWarmReset inputs s
  | .watchdogExpiry => Sys2Proof.Machine.execWatchdogExpiry s
  | .coreRestart cause imageOk => Sys2Proof.Machine.execCoreRestart cause imageOk s
  | .coreRestartTimeout => Sys2Proof.Machine.execCoreRestartTimeout s
  | .dumpWrite cause sequencerOnly => Sys2Proof.Machine.execDumpWrite cause sequencerOnly s
  | .dumpUnitTimeout unitKind unitIndex => Sys2Proof.Machine.execDumpUnitTimeout unitKind unitIndex s
  | .rebuildBlock ctx block => Sys2Proof.Machine.execRebuildBlock ctx block s
  | .foldSelfCheck ctx => Sys2Proof.Machine.execFoldSelfCheck ctx s
  | .digestForm ctx => Sys2Proof.Machine.execDigestForm ctx s
  | .digestCompare ctx => Sys2Proof.Machine.execDigestCompare ctx s
  | .granuleLocalise ctx block => Sys2Proof.Machine.execGranuleLocalise ctx block s
  | .divergenceRepair ctx => Sys2Proof.Machine.execDivergenceRepair ctx s
  | .inputThrottle vin => Sys2Proof.Machine.execInputThrottle vin s
  | .inputThrottleEnd vin => Sys2Proof.Machine.execInputThrottleEnd vin s
  | .inputCut vin => Sys2Proof.Machine.execInputCut vin s
  | .inputRecovered vin rideUs => Sys2Proof.Machine.execInputRecovered vin rideUs s
  | .surge vinMax durationUs => Sys2Proof.Machine.execSurge vinMax durationUs s
  | .surgeTimeout vinMax => Sys2Proof.Machine.execSurgeTimeout vinMax s
  | .overVoltage vin => Sys2Proof.Machine.execOverVoltage vin s
  | .holdupExhausted => Sys2Proof.Machine.execHoldupExhausted s
  | .orderlyStop cause => Sys2Proof.Machine.execOrderlyStop cause s
  | .holdupMeasure milliJoules => Sys2Proof.Machine.execHoldupMeasure milliJoules s
  | .dvfsEvaluate r => Sys2Proof.Machine.execDvfsEvaluate r s
  | .dvfsStep => Sys2Proof.Machine.execDvfsStep s
  | .envelopeUpdate demand pIn maxBurn => Sys2Proof.Machine.execEnvelopeUpdate demand pIn maxBurn s
  | .thermalTrip tMax sensor => Sys2Proof.Machine.execThermalTrip tMax sensor s
  | .refQualifyWindow edges => Sys2Proof.Machine.execRefQualifyWindow edges s
  | .refQualifyTimeout => Sys2Proof.Machine.execRefQualifyTimeout s
  | .pllLockWindow pll ppmError => Sys2Proof.Machine.execPllLockWindow pll ppmError s
  | .clockFault pll => Sys2Proof.Machine.execClockFault pll s
  | .pllRelock n locked => Sys2Proof.Machine.execPllRelock n locked s
  | .ppsEdge sinceLastNs => Sys2Proof.Machine.execPpsEdge sinceLastNs s
  | .ppsLost => Sys2Proof.Machine.execPpsLost s
  | .coldBoot inputs => Sys2Proof.Machine.execColdBoot inputs s
  | .resetNRelease lowUs => Sys2Proof.Machine.execResetNRelease lowUs s
  | .warmReset => Sys2Proof.Machine.execWarmReset s
  | .fullReset => Sys2Proof.Machine.execFullReset s
  | .alertCauseClear mask => Sys2Proof.Machine.execAlertCauseClear mask s
  | .erase slot => Sys2Proof.Machine.execErase slot s
  | .program slot unit => Sys2Proof.Machine.execProgram slot unit s
  | .check slot sigOk => Sys2Proof.Machine.execCheck slot sigOk s
  | .mgmtRegisterWrite offset words tail => Sys2Proof.Machine.execMgmtRegisterWrite offset words tail s
  | .setdasa addr => Sys2Proof.Machine.execSetdasa addr s
  | .entdaa addr => Sys2Proof.Machine.execEntdaa addr s
  | .rstdaa => Sys2Proof.Machine.execRstdaa s
  | .getstatus => Sys2Proof.Machine.execGetstatus s
  | .idleSaturated ctx cause => Sys2Proof.Machine.execIdleSaturated ctx cause s
  | .nanosecondFieldWrap => Sys2Proof.Machine.execNanosecondFieldWrap s
  | .resetNAssert => Sys2Proof.Machine.execResetNAssert s
  | .stackPhyFailure stack => Sys2Proof.Machine.execStackPhyFailure stack s
  | .inputPowerOverLimit watts => Sys2Proof.Machine.execInputPowerOverLimit watts s
  | .kcpPacketDrop port reason => Sys2Proof.Machine.execKcpPacketDrop port reason s

end Sys2Proof.Machine
end

