-- ==== Sys2Proof/Machine/Tick.lean ====
section
/-!
DEFINITION. What the module does when no command waits (log entry 2): it executes a held command of a session that has become next
(R325), or one tick of the management clock passes: the time counter (R417), the regulators (R298), the idle counters (R246 to R248), the
counters of cycles.
-/
namespace Sys2Proof.Machine

open Sys2Proof

/-- A command that a session held and whose turn has come: its session slot, its SEQUENCE, the command. -/
def State.nextHeld (s : State) : Option (Nat × W32 × Instr) :=
  s.kcp.sessions.findSome? fun (e : Nat × Session) =>
    if s.kcpUp e.2.port then (e.2.held.find? fun h => h.1 = e.2.expected).map fun h => (e.1, h.1, h.2) else none

/-- The state without a held command. -/
def State.unhold (s : State) (slot : Nat) (q : W32) : State :=
  match s.session? slot with
  | some x => s.setSession slot { x with held := x.held.filter fun e => e.1 ≠ q }
  | none => s

/-! ### Regulators (R296, R298) -/

/-- Pay the accesses that wait, oldest first: what is left of the tokens, and what is still owed. -/
def payOwed (t : Nat) : List (Nat × Bool × Nat) → Nat × List (Nat × Bool × Nat)
  | [] => (t, [])
  | (c, d, k) :: r => if k ≤ t then payOwed (t - k) r else (0, (c, d, k - t) :: r)

/-- A tick of a bucket: RATE sixteenths of a token, which pay the accesses that wait; the rest stays, up to BUCKET. A partition that is
no longer regulated lets every access go. -/
def Regulator.tick (r : Regulator) : Regulator :=
  if r.rate = 0 then { r with owed := [] } else
  let n := r.frac + r.rate.toNat
  let w := payOwed (r.tokens.toNat + n / 16) r.owed
  { r with tokens := BitVec.ofNat 20 (min r.bucket.toNat w.1), frac := n % 16, owed := w.2 }

/-- A tick of the hold queues: an access that finds its channel's queue full stalls its engine (R304, R318). -/
def Mem.holdTick (m : Mem) : Mem :=
  (List.range 32).foldl (fun m st =>
    if m.chans.any fun e => e.1 / 32 = st && decide (256 < e.2.hold.length) then m.count st 2 1 else m) m

/-! ### Idle causes (R247) -/

/-- The fence that a task waits for: its grid's, then its own. -/
def State.waitFence (s : State) (g : GridRun) (r : Rec) : Option Nat :=
  if !s.gridOpen g then some (g.desc.field 0 57 44)
  else if !s.taskOpen g r then some (r.field 0 55 42)
  else none

/-- Grids whose completion, or whose tasks' completion, signals a fence. -/
def State.signallers (s : State) (c f : Nat) : List GridRun :=
  (s.ctx c).grids.filter fun g =>
    (g.desc.field 0 58 58 = 1 && g.desc.field 0 43 30 = f) ||
    (List.range (gridTasks g.desc)).any fun t => (s.mem.task g.desc t).field 0 58 58 = 1 && (s.mem.task g.desc t).field 0 41 28 = f

/-- Cause of the array group's wait, by what signals the fence that its next task waits for: a collective or transfer of the context, the
host, or another module; of that one the manual's fence does not tell the axis, so a free value says whether it is an adjacent stage. -/
def State.groupCause (s : State) (c : Nat) : Option Nat :=
  -- arrays that feed another context are busy on its behalf
  if s.arrays.any fun a => !a.2.passes.isEmpty then none else
  match s.unfed c with
  | none => none
  | some (g, _, r) =>
    match s.waitFence g r with
    | none => none
    | some f =>
      let by' := s.signallers c f
      if (Tab.find? s.fences f).any fun x => x.host then some 7
      else if by'.any fun y => y.kind = some .coll || y.kind = some .xfer then some 0
      else if by'.isEmpty then some (if s.freeWord.getLsbD 0 then 2 else 0)
      else none

/-- A statistics block waits for a member's FACTOR_BLOCK record (R138). -/
def State.waitsPeerSum (s : State) (c : Nat) : Bool :=
  let x := s.ctx c
  match x.program with
  | none => false
  | some p => p.actBlocks.any fun y =>
      let n := x.absorbedStep y.1 y.2.2.1 y.2.2.2 + 1
      decide (n ≤ x.started) && decide (sGroups y.2.1 ≤ x.groupsAdded n y.1 y.2.2.1 y.2.2.2) &&
        (s.memberSums c y.2.1 y.1 y.2.2.1 y.2.2.2 n).isNone

/-- Members whose joining a taken segment shows: every member that it has passed on its ring half (R277). -/
def CollPlan.passed (p : CollPlan) (half off : Nat) : List Nat :=
  match p.segs.find? fun g => g.off = off with
  | none => []
  | some g =>
    let a := if half = 0 then p.starter g else g.owner
    (List.range (if g.plus then (p.me + p.n - a) % p.n else (a + p.n - p.me) % p.n)).map fun i => if g.plus then (a + i) % p.n else (a + p.n - i % p.n) % p.n

/-- A collective of the context waits for a member that has not joined (R245): none of its segments, or in an all-to-all none of its lists or
rows, has come. -/
def State.waitsJoin (s : State) (c : Nat) : Bool :=
  s.fabric.colls.any fun k => k.ctx = c && !k.finished &&
    if k.op = 3 then
      if s.combining c then
        ((s.expertHomes c).filter fun d => d ≠ s.fabric.position.toNat).any fun d =>
          let due := ((Tab.get [] s.fabric.listed (c * 2 ^ 15 + d)).filter entryValid).flatMap fun w =>
            (s.mem.tensor k.dst).rowSpans (entryRank w, entryToken w, 0)
          !due.isEmpty && due.all fun x => s.rowBytes c x = 0
      else !s.listsIn c
    else (s.collPlan k).any fun p =>
      let seen := k.seen.flatMap fun x => p.passed x.1 x.2
      !p.segs.isEmpty && (List.range p.n).any fun j => j ≠ p.me && !seen.contains j

/-- A gradient block that has arrived whole waits for the roots and factors of its step. -/
def State.waitsRoots (s : State) (c : Nat) : Bool :=
  (List.range (s.ctx c).shards.length).any fun i =>
    match (s.ctx c).shards[i]? with
    | none => false
    | some t => (List.range t.count).any fun j =>
        match s.site? c i (t.first + j) with
        | none => false
        | some x => x.block.phase = .idle && x.block.landed = x.n && decide (0 < x.n) && x.block.gradStep = t.step + 1 &&
            decide (x.block.step ≤ t.step) && !s.rootsReady c x (t.step + 1)

/-- A block that has its next gradient waits for the holder of its parity to apply its last message (R378). -/
def Ctx.waitsParity (x : Ctx) : Bool :=
  x.shards.any fun t => t.blocks.any fun b => !b.2.acked && b.2.gradStep = b.2.step + 1 && decide (0 < b.2.landed)

/-- Segments of the context that their collectives would take, but for room at their owner: with whether a late-buffer slot is what lacks, and
the die of the unit (R210, R214). -/
def State.heldSegs (s : State) (c : Nat) : List (Bool × Nat) :=
  (s.fabric.early.filter fun x => x.ctx = c).filterMap fun x =>
    (s.fabric.colls.find? fun k => k.ctx = c && k.group = x.group).bind fun k =>
      (s.collPlan k).bind fun p => p.land.bind fun l => (p.segs.find? fun g => g.off = x.offset).bind fun g =>
        if p.expects k.op x.op g && !k.seen.contains (x.op, g.off) && (x.op = 1 || p.me = g.owner) && !s.canLandSeg c k.step l.1 l.2 g then
          some ((s.segBlocks c l.1 l.2 g).any (fun b => ((s.ctx c).shards[b.1]?).any fun t => t.landsLate b.2 k.step), l.1.dieOf l.2)
        else none

/-- The boundary of the context's next step waits for nothing but shards that lag (R19, R30). -/
def Ctx.lagHolds (x : Ctx) : Bool :=
  let n := x.step.toNat + 1
  !x.atBoundary n && { x with shards := [] : Ctx }.atBoundary n && x.shards.any fun t => decide (t.step + x.kLate < n) && (t.inCistern || !t.late.isEmpty)

/-- A wait for the slow tier: every late-buffer slot is in use, a shard that lags holds the boundary, or a late update's write sweep waits for
a gather (R30, R214, R215). -/
def State.waitsCistern (s : State) (c : Nat) : Bool :=
  (s.heldSegs c).any (·.1) || (s.ctx c).lagHolds ||
  (List.range (s.ctx c).shards.length).any fun i => ((s.ctx c).shards[i]?).any fun t => t.blocks.any fun b =>
    b.2.phase = .started && b.2.late && (s.site? c i b.1).any fun x => s.gathering c x.u

/-- A refresh of the context that an idle engine would start next waits for an earlier one of its block (R24). -/
def State.waitsRefresh (s : State) (c : Nat) : Bool :=
  let x := s.ctx c
  (List.range 8).any fun n => s.rteRuns n && (s.rte n).job.isNone && x.stats.schedule.any fun r =>
    (s.venvs n).contains r.engine && decide (r.step ≤ x.started) && (x.stats.schedule.find? fun y => y.engine = r.engine) = some r &&
      (s.refreshing c r.layer r.side r.block ||
        (x.stats.schedule.find? fun y => y.layer = r.layer && y.side = r.side && y.block = r.block) ≠ some r)

/-- The absorption of an ACT block waits for a refresh to read the buffer (R141). -/
def State.waitsAbsorb (s : State) (c : Nat) : Bool :=
  let x := s.ctx c
  x.program.any fun p => p.actBlocks.any fun y =>
    let n := x.absorbedStep y.1 y.2.2.1 y.2.2.2 + 1
    decide (n ≤ x.started) && decide (sGroups y.2.1 ≤ x.groupsAdded n y.1 y.2.2.1 y.2.2.2) && !x.mayAbsorb y.1 y.2.2.1 y.2.2.2 n

/-- A task of the context whose pass a DMA engine would build waits on the array for its partition's tokens (R297). -/
def State.dmaWaits (s : State) (c : Nat) (a : Fin 192) : Bool := s.arrayFeeds a && !s.paid c && !(s.taskCandidates a.val c).isEmpty

/-- An access of the context's DMA engines waits for its partition's tokens (R247, R297). -/
def State.waitsTokens (s : State) (c : Nat) : Bool :=
  ((Tab.get ({} : Regulator) s.mem.regs (s.ctx c).partition).owed.any fun o => o.1 = c && o.2.1) || (List.finRange 192).any (s.dmaWaits c)

/-- A frame of this module for the context waits at a port for credit (R259). -/
def State.waitsCredit (s : State) (c : Nat) : Bool :=
  s.fabric.ports.any fun p => p.2.state = .up && (List.range 6).any fun v => (p.2.head v).any fun f =>
    f.src = s.fabric.position && f.context.toNat = c && !p.2.hasCredit f

/-- The context waits for a position that is UNUSED or FAILED: a message to it, or a collective with it as a member (R272, R278). -/
def State.waitsFailed (s : State) (c : Nat) : Bool :=
  (s.fabric.tx.any fun e => e.2.pending.any fun f => f.context.toNat = c && !s.reachable f.dst.toNat) ||
  (s.fabric.parked.any fun k => k.frame.src = s.fabric.position && k.retx && k.frame.context.toNat = c && !s.reachable k.frame.dst.toNat) ||
  s.fabric.colls.any fun k => k.ctx = c && (s.collPlan k).any fun p => p.members.any fun m => m ≠ s.fabric.position.toNat && !s.reachable m

/-- The context waits for a stream transfer. -/
def State.streaming (s : State) (c : Nat) : Bool := s.kcp.sessions.any fun e => e.2.streams.any fun t => t.context = c && !t.purged

/-- A recovery procedure runs for the context, or a block that has its next gradient waits for the repair of a region (R394). -/
def Ctx.recovering (x : Ctx) : Bool :=
  (x.shards.any fun t => t.blocks.any fun b => b.2.holdFix && b.2.gradStep = b.2.step + 1 && decide (0 < b.2.landed)) ||
  x.recovery.begun || !x.recovery.todoBlocks.isEmpty || !x.recovery.todoSlots.isEmpty || x.service = .recovery

/-- The causes under which this tick counts for a context (R247). -/
def State.idleCauses (s : State) (c : Nat) : List Nat :=
  let x := s.ctx c
  let p := s.power
  let low := decide (p.level < s.ceil)
  let group := s.groupCause c
  let say := fun (b : Bool) (k : Nat) => if b then [k] else []
  say (group = some 0 || s.waitsPeerSum c || x.waitsParity) 0 ++ say (s.waitsCredit c) 1 ++ say (group = some 2) 2 ++ say (s.waitsJoin c) 3 ++
    say (s.waitsCistern c) 4 ++ say (s.waitsRoots c || s.waitsAbsorb c || s.waitsRefresh c) 5 ++ say (s.waitsTokens c) 6 ++ say (group = some 7 || x.state = .held || s.streaming c) 7 ++ say (x.recovering || s.waitsFailed c) 8 ++
    say (p.cut || (low && (p.capped || p.throttled))) 9 ++ say (low && p.cooled) 10 ++ say (p.enveloped || p.shaping) 11

/-- Count a tick under a cause. -/
def State.countIdle (s : State) (c k : Nat) : State :=
  let x := s.ctx c
  if x.idleSat.getLsbD k then s
  else if Tab.get 0 x.idle k + 1 = idleTop then s.saturateIdle c k
  else s.onCtx c fun x => { x with idle := Tab.put x.idle k (Tab.get 0 x.idle k + 1) }

/-- A tick of a port: its replay buffer is full when no head of a VC has room in it, and a ready frame waits when one with room has no credit
(R257, R259, R285). -/
def Port.tick (x : Port) : Port :=
  let hs := (List.range 6).filterMap x.head
  let full := !hs.isEmpty && hs.all fun f => !x.hasRoom f
  let stall := hs.any fun f => x.hasRoom f && !x.hasCredit f
  if x.state ≠ .up then x
  else { x with counters := Tab.count (Tab.count x.counters 5 (bit01 full)) 6 (bit01 stall) }

/-! ### Cycles (R101, R156, R192, R222, R318; log entry 9) -/

/-- The arithmetic clock of a DVFS level, in MHz (R404). -/
def levelMhz (level : Nat) : Nat := [425, 500, 550, 600, 650, 700, 775, 850].getD level 850

/-- A ready pass waits because its tile is HELD or being cleared (R82, R98). -/
def State.tileHeld (s : State) (a : Nat) : Bool :=
  s.ctxs.any fun e => (s.mxaTasks e.1).any fun x => s.eligible e.1 x.1 x.2.1 &&
    match s.nextRun a e.1 x.1 x.2.1 x.2.2 with
    | some (_, _, i) => let t := Tab.get ({} : Tile) (s.array a).tiles i; t.st = .held || t.clearing
    | none => false

/-- A publication of the engine waits for an update to end (R177). -/
def State.publishWaits (s : State) (n : Nat) : Bool :=
  (s.rte n).publish.any fun j => ((s.ctx j.ctx).program.bind fun p => p.stats[j.layer]?).any fun d =>
    (s.ctx j.ctx).selected (rootAddr d j.side j.block (s.mem.rootTarget d j.side j.block))

/-- Cycles of an array group that the counters of R101 and R318 count. -/
def State.tickArray (s : State) (cyc : Nat) (a : Fin 192) : State :=
  let x := s.array a.val
  let stall := x.runs.any VxuRun.stalls
  let idle := x.runs.isEmpty && x.slots.isEmpty && !s.memReady a.val
  let s := s.countArray a.val 0 (if x.handover.isSome || !x.transfer.isEmpty then cyc else 0)
  let s := s.countArray a.val 1 (if s.tileHeld a.val then cyc else 0)
  let s := s.countArray a.val 4 (if s.ctxs.any fun e => s.dmaWaits e.1 a then cyc else 0)
  (s.countVxu a.val 1 (if idle then cyc else 0)).countVxu a.val 2 (if stall then cyc else 0)

/-- Cycles of a die's Root Engine and Fused Update Unit that wait (R192, R222). -/
def State.tickDie (s : State) (cyc : Nat) (n : Nat) : State :=
  let e := s.rte n
  let u := s.fuu n
  let full := s.ctxs.any fun k => (s.heldSegs k.1).any fun x => !x.1 && x.2 = n
  let s := if s.rteRuns n then s.setRte n { e with counters := Tab.count e.counters 0 (if s.publishWaits n then cyc else 0) } else s
  if s.bdRuns n then s.setFuu n { u with counters := Tab.count u.counters 1 (if full then cyc else 0) } else s

/-- A tick of the arithmetic clocks: the dies that run count their cycles. -/
def State.tickCycles (s : State) : State :=
  let t := s.power.cycFrac + levelMhz s.power.level
  let cyc := t / 400
  let s := { s with power := { s.power with cycFrac := t % 400 } }
  let stage := s.ctxs.filter fun e => (List.finRange 192).any fun (a : Fin 192) => s.arrayOn a && s.staging a.val e.1
  let ds := (List.range 8).filter s.cdRuns
  let s := ds.foldl (fun s n => s.tickDie cyc n) (ds.foldl (fun s n => (List.finRange 192).foldl (fun s a => if a.val / 24 = n then s.tickArray cyc a else s) s) s)
  stage.foldl (fun s e => s.countCtx e.1 cStatStageWait cyc) s

/-- One tick of the 400 MHz management clock. -/
def State.tick (s : State) : State :=
  let work := s.ctxs.filterMap fun (e : Nat × Ctx) => if e.2.state = .free then none else some (e.1, s.idleCauses e.1)
  let s := s.tickTime
  let s := { s with mem := { s.mem.holdTick.ageEntries with regs := Tab.mapAll s.mem.regs fun _ r => r.tick }
                    fabric := { s.fabric with ports := Tab.mapAll s.fabric.ports fun _ x => x.tick } }
  let s := s.ctxs.foldl (fun (s : State) e => s.scheduleDue e.1) s.handleLost.tickCycles
  (work.foldl (fun s w => w.2.foldl (fun (s : State) k => s.countIdle w.1 k) s) s).drawn

end Sys2Proof.Machine
end

