-- ==== Sys2Proof/Machine/Step.lean ====
section
/-!
DEFINITION. One step: the command at the front of the queue, or what the module does when none waits (log entry 2).
-/
namespace Sys2Proof.Machine

open Sys2Proof

/-- Take the command at the front of the queue and execute it with the queue's rest. On an empty queue, a held command that has become
next is executed, else a tick passes. -/
def step (s : State) : Host.Outcome State Fault Refusal :=
  match s.pending with
  | c :: rest => exec c { s with pending := rest }
  | [] =>
    match s.nextHeld with
    | some (slot, q, c) => exec c (s.unhold slot q)
    | none => .next s.tick

/-- The state with the command that a word spells at the front of its queue; unchanged where the word spells none. -/
def State.withFetchWord (s : State) (nbits w : Nat) : State :=
  match decodeTableWord nbits w with
  | some c => { s with pending := c :: s.pending }
  | none => s

end Sys2Proof.Machine
end

