-- ==== Sys2Proof/Safety.lean ====
section
/-!
DEFINITION. What counts as a safe state and a safe step, and the terms that statements use: a KCP command that is next in its
session, and what executing one leaves.
-/
namespace Sys2Proof.Machine

open Sys2Proof

/-- A step is safe where the block goes on: it neither faults nor refuses. -/
def SafeStep (s : State) : Prop := ∃ t, step s = .next t

/-- Device memory is in its one canonical form. -/
def MemCanonical (s : State) : Prop := Memory.wf s.mem.bytes = true

/-- The write-combining buffers are in form (R294): each entry lies in the list of its stack, for a sector of HBM, one entry to a
sector, with its bytes in rising order inside the sector. -/
def BuffersWf (m : Mem) : Prop :=
  ∀ k es, (k, es) ∈ m.wcb → (es.map (·.sector)).Nodup ∧
    ∀ e ∈ es, e.sector % 64 = 0 ∧ isReservoir e.sector = false ∧ channelOf e.sector / 32 = k ∧ Tab.wf e.bytes = true ∧
      ∀ p ∈ e.bytes, p.1 < 64

/-- The fuses are in a state that burning can leave: at most 64 rollback bits, four owner slots, each unused (0), active (1) or
revoked (3), and at most one active (R427, R434, R435). -/
def FusesLegal (s : State) : Prop :=
  s.boot.rollback ≤ 64 ∧ s.boot.ownerState.length = 4 ∧ (∀ x ∈ s.boot.ownerState, x = 0 ∨ x = 1 ∨ x = 3) ∧
    (s.boot.ownerState.filter (· = 1)).length ≤ 1

/-- The packet is the next command of the session in a slot (R324, R325), its form is right (R11, R331), and the power state
does not refuse its opcode (R416). -/
def kcpReady (s : State) (h : KcpHdr) (slot : Nat) (op : W16) : Bool :=
  s.kcpNext h slot && !h.reserved && !h.badLen && !s.sleeps op

/-- A ready command with CONTEXT 0xFF. -/
def devReady (s : State) (h : KcpHdr) (slot : Nat) (op : W16) : Bool := kcpReady s h slot op && decide (h.context = 0xFF)

/-- A ready command that names a context in one of the given states. -/
def ctxReady (s : State) (h : KcpHdr) (slot : Nat) (op : W16) (sts : List CtxState) : Bool :=
  kcpReady s h slot op && decide (h.context.toNat < 64) && sts.contains (s.ctx (hctx h)).state

/-- Every state but FREE: the states that accept queries and telemetry (R336). -/
def anyHeld : List CtxState := [.created, .loading, .loaded, .running, .holding, .held, .purging, .faulted]

/-- Executing the command answers a next state: the session's books are kept, `E` is done, and the reply is cached and sent
(R325, R327). -/
def Runs (i : Instr) (s : State) (h : KcpHdr) (slot : Nat) (op : W16) (st : Status) (ps : List Byte) (E : State → State) : Prop :=
  exec i s = .next ((E (s.take slot h)).answer slot h op st ps)

/-- As `Runs`, with an effect `F` that follows the reply. -/
def RunsThen (i : Instr) (s : State) (h : KcpHdr) (slot : Nat) (op : W16) (st : Status) (ps : List Byte) (E F : State → State) : Prop :=
  exec i s = .next (F ((E (s.take slot h)).answer slot h op st ps))

/-- The books of a frame that is next in the hop sequence of its port (R256, R258): its acknowledgement is taken, the sequence advances,
and the frame and its payload bytes are counted. -/
def State.hopBooks (s : State) (f : FrameHdr) (n : Nat) : State :=
  let t := s.hopAcked f.port.val f.hopAck
  ((t.setPort f.port.val { t.port f.port.val with hopRx := (t.port f.port.val).hopRx + 1, nakOut := false, ackOwed := true }).countPort f.port.val 1 1).countPort
    f.port.val 3 n

/-- The frame of `n` payload bytes, with the OP of its command, is in form and next in the hop sequence of a port that is up and carries
frames, and this module is its destination (R251 to R256, R263, R416). -/
def frameHere (s : State) (f : FrameHdr) (op : Byte) (cls n : Nat) : Bool :=
  decide ((s.port f.port.val).state = .up) && s.carriesFrames && !argReserved op f.arg && decide (f.etype = s.fabric.etype) && decide (f.dstMac = s.portMac f.port.val) &&
  decide (f.ver = 1) && !f.reserved && decide (f.tc.toNat < 4) && decide (f.vc.toNat / 2 = cls) && decide (n ≤ 8192) &&
  decide (f.hopSeq = ((s.hopAcked f.port.val f.hopAck).port f.port.val).hopRx) && decide (f.dst = (s.hopBooks f n).fabric.position)

/-- A frame taken at its own module (R258, R262): the end-to-end acknowledgement that rides on it is taken and its buffer space is free. -/
def State.frameBooks (s : State) (f : FrameHdr) (n : Nat) : State :=
  let t := s.hopBooks f n
  (if f.ackv then t.e2eAcked f.ackClass.toNat f.src.toNat f.ackSeq else t).freeUnitsAt f.port.val f.vc.toNat (rxUnits n)

/-- The frame's place in its stream is inside the window and new (R261), and its context takes frames (R286). -/
def frameNew (s : State) (f : FrameHdr) (cls n : Nat) : Bool :=
  let t := s.frameBooks f n
  let x := t.rxStream cls f.src.toNat
  decide ((f.seq - x.expected).toNat < 1024) && !x.got.contains f.seq && (t.ctx f.context.val).takesFrames

/-- The books of a frame handled in its stream: it has arrived, the frames that are next are taken in order, and the stream is
acknowledged (R261, R262). -/
def State.streamBooks (f : FrameHdr) (cls : Nat) (r : State × RxItem) : State :=
  let x := r.1.rxStream cls f.src.toNat
  (State.advanceRx 1025 (r.1.setRx cls f.src.toNat { x with got := x.got ++ [f.seq], later := x.later ++ [(f.seq, r.2)] }) cls
    f.src.toNat).ackStream cls f.src.toNat

/-- A link frame is in form at a port that takes it in its state (R251, R252, R254, R255). -/
def linkHere (s : State) (f : FrameHdr) (states : List PortState) : Bool :=
  states.contains (s.port f.port.val).state && decide (f.etype = s.fabric.etype) && decide (f.dstMac = s.portMac f.port.val) &&
  decide (f.ver = 1) && !f.reserved

end Sys2Proof.Machine
end

