-- ==== Sys2Proof/Certificates/Slice0/Obligations.lean ====
section
/-!
DEFINITION. The statements for the provers.
-/
open Sys2Proof Sys2Proof.Machine


/-! ### The block and its queue -/

/-- A command at the front of the queue is executed on the state with the queue's rest, and nothing is added around it. -/
def Obligations.StepRunsFront : Prop :=
  ∀ (c : Instr) (rest : List Instr) (s : State), step { s with pending := c :: rest } = exec c { s with pending := rest }

/-- The block never stops: every step of every state answers a next state (the model's choice: an event whose conditions do not
hold changes nothing, log entry 3). -/
def Obligations.BlockNeverStops : Prop :=
  ∀ s : State, SafeStep s

/-- What reset leaves: no command waits, no context is held, no session is open, memory lists nothing and is canonical, the fuses
are in a legal state, and no rule of a burn has been applied. -/
def Obligations.ResetLeaves : Prop :=
  State.reset.pending = [] ∧ State.reset.ctxs = [] ∧ State.reset.kcp.sessions = [] ∧ State.reset.mem.bytes = [] ∧
  State.reset.boot.stage = 0 ∧ State.reset.out = [] ∧ MemCanonical State.reset ∧ FusesLegal State.reset

/-- Device memory keeps its canonical form through every step. -/
def Obligations.MemCanonicalKept : Prop :=
  ∀ s t : State, step s = .next t → MemCanonical s → MemCanonical t

/-- The fuses stay in a legal state through every step: at most 64 rollback bits burnt, four owner slots, each empty, active or
revoked, at most one of them active (R427, R434, R437).
Fuses only burn: no step changes the vendor key or the ROM digest, or takes a rollback bit back, and a revoked owner slot stays
revoked (R427, R434, R437). -/
def Obligations.FusesKept : Prop :=
  (∀ s t : State, step s = .next t → FusesLegal s → FusesLegal t) ∧
  (∀ s t : State, step s = .next t →
    t.boot.vendorKey = s.boot.vendorKey ∧ t.boot.romDigest = s.boot.romDigest ∧ s.boot.rollback ≤ t.boot.rollback ∧
    ∀ i : Nat, s.boot.ownerState[i]? = some 3 → t.boot.ownerState[i]? = some 3)

/-! ### The order and the checks of KCP commands (R324, R325, R327, R331) -/

/-- The order of R324, first failure first, for any command `k`: a failing CRC, then an unknown session. -/
def Obligations.PacketChecks : Prop :=
  ∀ (k : KcpCmd) (self : Instr) (h : KcpHdr) (s : State), s.hears h = true →
    (h.badCrc = true → k.arrive self h s =
      ({ s with kcp := { s.kcp with badCrc := s.kcp.badCrc + 1 } }).sendReply (kcpReply h k.opcode .badCrc [])) ∧
    (h.badCrc = false → s.kcpSlot h = none → k.arrive self h s = s.sendReply (kcpReply h k.opcode .authFail []))

/-- R325: a command that is behind by at most 256 is not executed again: it counts as a duplicate and its cached reply, if there is
one, is sent on the port of the copy. -/
def Obligations.DuplicateNotExecuted : Prop :=
  ∀ (k : KcpCmd) (self : Instr) (h : KcpHdr) (s : State) (slot : Nat) (x : Session),
    s.hears h = true → h.badCrc = false → s.kcpSlot h = some slot → s.session? slot = some x →
    1 ≤ (x.expected - h.sequence).toNat → (x.expected - h.sequence).toNat ≤ 256 →
    k.arrive self h s =
      match x.cache.find? (fun r => r.sequence = h.sequence) with
      | some r => ({ s with kcp := { s.kcp with duplicates := s.kcp.duplicates + 1 } }).sendReply { r with port := h.port }
      | none => { s with kcp := { s.kcp with duplicates := s.kcp.duplicates + 1 } }

/-- R327, R325: what executing a command leaves besides its effect. The session expects the next sequence number and follows the
port of the command; the reply joins the cache, which keeps 256; nothing else of the state changes but what leaves the module. -/
def Obligations.ReplyBooks : Prop :=
  ∀ (s : State) (h : KcpHdr) (slot : Nat) (x : Session) (op : W16) (st : Status) (ps : List Byte), s.session? slot = some x →
    let y : Session := { x with expected := x.expected + 1, port := h.port, held := x.held.filter fun e => e.1 ≠ h.sequence }
    let z : Session := { y with cache := (kcpReply h op st ps :: x.cache).take 256 }
    (s.take slot h).answer slot h op st ps =
      { s with
        kcp := { s.kcp with sessions := Tab.put (Tab.put s.kcp.sessions slot y) slot z },
        out := if (s.hp h.port).up then s.out ++ [.reply (kcpReply h op st ps)] else s.out }

/-- R331, R336: what the context's state refuses, for any command none of whose own checks stands higher in the order of R331: NO_CONTEXT
where the context is FREE, CTX_FAULTED where it is FAULTED and BUSY where it is RUNNING or HOLDING, each for the commands that the
row of R336 does not accept. A refused command has no effect beyond its reply (R327). -/
def Obligations.StateRefuses : Prop :=
  ∀ (k : KcpCmd) (self : Instr) (h : KcpHdr) (s : State) (slot : Nat), s.kcpNext h slot = true → k.need ≠ .none →
    h.context.toNat < 64 →
    ((s.ctx (hctx h)).state = .free → k.cls ≠ .create →
      (∀ c ∈ k.checks (s.take slot h), c.1 = true → Status.noContext.rank ≤ c.2.rank) →
      k.arrive self h s = (s.take slot h).answer slot h k.opcode .noContext []) ∧
    ((s.ctx (hctx h)).state = .faulted →
      [CmdClass.destroy, .query, .memRead, .streamRead, .snapshot, .recovery, .recoverBegin].contains k.cls = false →
      (∀ c ∈ k.checks (s.take slot h), c.1 = true → Status.ctxFaulted.rank ≤ c.2.rank) →
      k.arrive self h s = (s.take slot h).answer slot h k.opcode .ctxFaulted []) ∧
    (((s.ctx (hctx h)).state = .running ∨ (s.ctx (hctx h)).state = .holding) →
      [CmdClass.query, .memRead, .streamRead, .memory, .fence, .stepControl, .purge, .priority, .solver, .recoverBegin].contains k.cls = false →
      h.reserved = false → h.badLen = false →
      (∀ c ∈ k.checks (s.take slot h), c.1 = true → Status.busy.rank ≤ c.2.rank) →
      k.arrive self h s = (s.take slot h).answer slot h k.opcode .busy [])

/-! ### Group 0x01: the device -/

/-- DEV_INFO, DEV_GET, DEV_SET, POWER_STATE to RUN, and REGULATOR_SET complete (R330, R333, R416, R298). -/
def Obligations.DeviceCommandsRun : Prop :=
  (∀ h s slot, devReady s h slot 0x0101 = true →
    Runs (.devInfo h) s h slot 0x0101 .ok (partName ++ be 1 s.boot.stepping.toNat ++ be 1 s.arraysInService ++
      be 1 s.enginesInService ++ be 1 s.mem.fencedCount ++ be 8 s.boot.serial.toNat) id) ∧
  (∀ h (i : W16) s slot, devReady s h slot 0x0103 = true → settingKnown i.toNat = true →
    Runs (.devGet h i) s h slot 0x0103 .ok (be 8 (s.setting i.toNat).toNat) id) ∧
  (∀ h (i : W16) (v : W64) s slot, devReady s h slot 0x0102 = true → i ≠ 0x14 → settingOk i.toNat v = true →
    (i = 4 → s.allPortsDown = true) →
    RunsThen (.devSet h i v) s h slot 0x0102 .ok [] id fun t => t.applySetting i.toNat v) ∧
  (∀ h s slot, devReady s h slot 0x0102 = true → s.runRefused 0 = false →
    Runs (.powerState h 0) s h slot 0x0102 .ok [] fun t => { t with power := t.power.setPw .run }) ∧
  (∀ h (pt : BitVec 8) (rate : W16) (bucket : W32) s slot, devReady s h slot 0x0104 = true → pt.toNat < 16 →
    bucket ≠ 0 → bucket.toNat < 2 ^ 20 →
    Runs (.regulatorSet h pt rate bucket) s h slot 0x0104 .ok [] fun t => { t with mem := { t.mem with
      regs := Tab.put t.mem.regs pt.toNat { Tab.get {} t.mem.regs pt.toNat with
        rate := rate, bucket := bucket.setWidth 20,
        tokens := if bucket.toNat < (Tab.get {} t.mem.regs pt.toNat).tokens.toNat then bucket.setWidth 20
          else (Tab.get {} t.mem.regs pt.toNat).tokens } } })

/-- R416: POWER_STATE enters SLEEP from RUN with the contexts at rest, and DEEP_SLEEP from SLEEP alone; a value of 2 in RUN is
refused with BAD_PARAM. A DEV_SET of identifier 0x0014 is the same command.
TIME_SET and DEV_RESET: while LOCKED the seconds wait for the next accepted edge and the reply is ACCEPTED, else they are set at
once; a warm reset is asked for, and a full one done, after the reply (R365, R419). -/
def Obligations.PowerTimeResetRun : Prop :=
  (∀ h s slot, devReady s h slot 0x0102 = true → s.power.pwState = .run → s.busyContext = false →
    Runs (.powerState h 1) s h slot 0x0102 .ok [] fun t => { t with power := { t.power.setPw .sleep with ramp := t.power.ramp } }) ∧
  (∀ h s slot, devReady s h slot 0x0102 = true → s.power.pwState = .sleep →
    Runs (.powerState h 2) s h slot 0x0102 .ok [] State.deepSleep) ∧
  (∀ h s slot, devReady s h slot 0x0102 = true → s.power.pwState = .run →
    Runs (.powerState h 2) s h slot 0x0102 .badParam [] id) ∧
  (∀ h v s slot, s.kcpNext h slot = true → exec (.devSet h 0x14 v) s = exec (.powerState h v) s) ∧
(∀ h (sec : W64) s slot, devReady s h slot 0x0105 = true → sec.toNat < 2 ^ 34 → s.power.pps = .locked →
    Runs (.timeSet h sec) s h slot 0x0105 .accepted [] fun t => { t with power := { t.power with pendSec := some (sec.setWidth 34) } }) ∧
  (∀ h (sec : W64) s slot, devReady s h slot 0x0105 = true → sec.toNat < 2 ^ 34 → s.power.pps ≠ .locked →
    Runs (.timeSet h sec) s h slot 0x0105 .ok [] (fun t => t.setSeconds (sec.setWidth 34) t.power.nanos) ∧
    ∀ t, exec (.timeSet h sec) s = .next t → t.power.seconds = sec.setWidth 34 ∧ t.power.nanos = s.power.nanos ∧
      t.power.secSet = true) ∧
  (∀ h s slot, devReady s h slot 0x0106 = true →
    RunsThen (.devReset h 1) s h slot 0x0106 .ok [] id State.askReset ∧
    RunsThen (.devReset h 2) s h slot 0x0106 .ok [] id fun t => t.moduleReset true)

/-! ### Group 0x02: contexts -/

/-- CTX_CREATE, CTX_DESTROY, CTX_QUERY, CTX_PURGE and CTX_PRIORITY complete (R330, R335, R336, R362).
What freeing and purging a context leave (R330, R336, R362): a freed context is FREE and holds no fence and no tile; a purged one
is PURGING with its fences frozen. -/
def Obligations.ContextCommandsRun : Prop :=
  (∀ h (pr pt : BitVec 8) s slot, ctxReady s h slot 0x0201 [.free] = true → pr.toNat < 8 → pt.toNat < 16 →
    Runs (.ctxCreate h pr pt) s h slot 0x0201 .ok [] fun t => t.setCtx (hctx h)
      { state := .created, priority := pr.toNat, partition := pt.toNat, armed := true,
        folds := { fold := (s.ctx (hctx h)).folds.fold } }) ∧
  (∀ h s slot, ctxReady s h slot 0x0202 [.created, .loaded, .held, .faulted] = true →
    Runs (.ctxDestroy h) s h slot 0x0202 .ok [] (fun t => t.freeContext (hctx h))) ∧
  (∀ h s slot, ctxReady s h slot 0x0203 anyHeld = true →
    Runs (.ctxQuery h) s h slot 0x0203 .ok (be 1 (ctxStateCode (s.ctx (hctx h)).state) ++ be 1 (serviceCode (s.ctx (hctx h)).service) ++
      be 2 0 ++ be 8 (s.ctx (hctx h)).step.toNat ++ be 4 (s.ctx (hctx h)).runLeft.toNat ++ be 4 0) id) ∧
  (∀ h s slot, ctxReady s h slot 0x0204 [.created, .loaded, .running, .holding, .held] = true →
    Runs (.ctxPurge h) s h slot 0x0204 .accepted [] fun t => t.purge (hctx h) (t.faults.nextSeq - 1)) ∧
  (∀ h (pr : BitVec 8) s slot, ctxReady s h slot 0x0205 [.created, .loaded, .running, .holding, .held] = true → pr.toNat < 8 →
    Runs (.ctxPriority h pr) s h slot 0x0205 .ok [] fun t => t.onCtx (hctx h) fun c => { c with priority := pr.toNat }) ∧
(∀ (s : State) (c : Nat),
    ((s.freeContext c).ctx c).state = .free ∧
    (∀ f x, (f, x) ∈ (s.freeContext c).fences → x.owner ≠ c) ∧
    (∀ n a, (n, a) ∈ (s.freeContext c).arrays → ∀ i t, (i, t) ∈ a.tiles → t.ctx = c → t.st = .free)) ∧
  (∀ (s : State) (c : Nat) (cause : W32), [CtxState.created, .loading, .loaded, .running, .holding, .held].contains (s.ctx c).state = true →
    ((s.purge c cause).ctx c).state = .purging ∧
    (∀ f x, Tab.find? (s.purge c cause).fences f = some x → x.owner = c → x.frozen = true))

/-! ### Group 0x09: sessions; device-to-host packets -/

/-- SESSION_OPEN and SESSION_CLOSE (R329, R436): with no owner key active a session of the source opens in a free entry with expected
sequence 1, and its reply names it; while an owner key is active a SESSION_OPEN without a proof is answered with a challenge; a
closed session is gone after its reply, with its streams, and the contexts it served have no Cistern server. -/
def Obligations.SessionCommandsRun : Prop :=
  (∀ h s k, s.hears h = true → h.badCrc = false → h.session = 0 → h.sequence = 0 → h.context = 0xFF → h.reserved = false →
    h.badLen = false → s.ownerActive = false → s.freeSlot = some k →
    ∃ t, exec (.sessionOpen h [] [] true) s = .next t ∧
      t.session? k = some { id := s.newSessionId, addr := h.srcAddr, udp := h.srcPort, port := h.port, expected := 1 } ∧
      .reply (kcpReply h 0x0901 .ok (be 4 s.newSessionId.toNat)) ∈ t.out ∧
      t.mem = s.mem ∧ t.ctxs = s.ctxs ∧ ∀ j, j ≠ k → t.session? j = s.session? j) ∧
  (∀ h s, s.hears h = true → h.badCrc = false → h.session = 0 → s.ownerActive = true →
    exec (.sessionOpen h [] [] true) s = .next ((s.issueChallenge h).1.sendReply (kcpReply h 0x0901 .authFail (s.issueChallenge h).2))) ∧
  (∀ h s slot x, devReady s h slot 0x0902 = true → s.session? slot = some x → x.id = h.session →
    ∃ t, exec (.sessionClose h) s = .next t ∧ t.session? slot = none ∧
      .reply (kcpReply h 0x0902 .ok []) ∈ t.out ∧ t.mem = s.mem ∧
      ∀ c, (t.ctx c).cistern ≠ some h.session)

/-- SESSION_TIMEOUT, CHALLENGE_EXPIRY, HOST_ACK and D2H_RESEND complete (R328, R329, R436): the session goes; the source's challenge
is no longer listed; the acknowledged packet leaves the window; an unacknowledged packet is sent again. -/
def Obligations.SessionEventsRun : Prop :=
  (∀ (slot : Fin 16) s, exec (.sessionTimeout slot) s = .next (s.closeSession slot) ∧ (s.closeSession slot).session? slot = none) ∧
  (∀ addr port s, ∃ t, exec (.challengeExpiry addr port) s = .next t ∧
    t = { s with kcp := { s.kcp with challenges := s.kcp.challenges.filter fun c => !(c.addr = addr && c.udp = port) } }) ∧
  (∀ h s slot x, s.hears h = true → h.badCrc = false → s.kcpSlot h = some slot → s.session? slot = some x →
    h.reserved = false → x.waiting = [] →
    (s.setSession slot { x with unacked := x.unacked.filter fun n => n.sequence ≠ h.sequence, port := h.port }).readyStream
      { x with unacked := x.unacked.filter fun n => n.sequence ≠ h.sequence, port := h.port } = none →
    exec (.hostAck h) s = .next (s.setSession slot
      { x with unacked := x.unacked.filter fun n => n.sequence ≠ h.sequence, port := h.port })) ∧
  (∀ (slot : Fin 16) (q : W32) s x n, s.session? slot = some x → x.unacked.find? (fun n => n.sequence = q) = some n →
    s.hostUp = true → s.faults.coreUp = true → exec (.d2hResend slot q) s = .next (s.emit (.notice x.id n s.kcpPort)))

/-! ### The host ports (R320, R321) -/

/-- HOST_PORT_LINK_UP, HOST_PORT_LANE_LOSS and HOST_PORT_RETRY_400G (R320): the rate that a link comes up at, what a lost lane does, and
the return to 400G; the loss of lane 1 changes nothing at 100G. -/
def Obligations.HostLinkRun : Prop :=
  (∀ (p : Fin 2) (common lane1 : Bool) s, s.hostSide = true → (s.hp p).up = false →
    ∃ t, exec (.hostPortLinkUp p common lane1) s = .next t ∧ (t.hp p).up = true ∧
      ((t.hp p).rate100 = true ↔ common = false ∨ lane1 = false) ∧
      t.mem = s.mem ∧ t.ctxs = s.ctxs ∧ t.fabric = s.fabric ∧ ∀ q, q ≠ p → t.hp q = s.hp q) ∧
  (∀ (p : Fin 2) s, (s.hp p).up = true →
    exec (.hostPortLaneLoss p 0) s = .next (s.setHp p { s.hp p with up := false }) ∧
    ((s.hp p).rate100 = false → exec (.hostPortLaneLoss p 1) s = .next (s.setHp p { s.hp p with rate100 := true, lane1Lost := true })) ∧
    ((s.hp p).rate100 = true → exec (.hostPortLaneLoss p 1) s = .next s)) ∧
  (∀ (p : Fin 2) s, (s.hp p).up = true → (s.hp p).lane1Lost = true →
    exec (.hostPortRetry400G p true) s = .next (s.setHp p { s.hp p with rate100 := false, lane1Lost := false }) ∧
    exec (.hostPortRetry400G p false) s = .next s)

/-- DHCP_RENEW, ROUTER_ADVERTISEMENT and NEIGHBOR_DISCOVERY (R321): the leased and the autoconfigured address are the port's, a
solicitation of an own address is answered, and a duplicate address goes.
ARP_REQUEST and ICMP_ECHO_REQUEST for an address of the port are answered, and KCP_PACKET_DROP counts a malformed or fragmented
packet and nothing else, refuses an unknown opcode, and leaves a foreign packet uncounted (R320, R321, R322, R324, R330). -/
def Obligations.HostNetworkRun : Prop :=
  (∀ (p : Fin 2) (a g : W32) (l : BitVec 8) (n : W32) s, (s.hp p).up = true → s.setting (0x20 + p.val) = 0 →
    exec (.dhcpRenew p a g l n) s = .next ((s.emit (.dhcpRequest p a)).setHp p
      { s.hp p with ipv4 := some (a, l.toNat), gateway := g, leaseSec := n.toNat })) ∧
  (∀ (p : Fin 2) (pfx : BitVec 64) s, (s.hp p).up = true → (s.hp p).ipv6.contains (pfx ++ interfaceId (s.hostMac p)) = false →
    exec (.routerAdvertisement p pfx) s = .next (s.setHp p
      { s.hp p with ipv6 := (s.hp p).ipv6 ++ [pfx ++ interfaceId (s.hostMac p)] })) ∧
  (∀ (p : Fin 2) (a b : BitVec 128) s, (s.hp p).up = true → (s.hp p).ipv6.contains a = true →
    exec (.neighborDiscovery p (.solicitation a b)) s = .next (s.emit (.neighborAdvert p a)) ∧
    exec (.neighborDiscovery p (.dadConflict a)) s = .next (s.setHp p { s.hp p with ipv6 := (s.hp p).ipv6.filter (· ≠ a) }) ∧
    exec (.neighborDiscovery p (.advertisement a)) s = .next s) ∧
(∀ (p : Fin 2) (a b : W32) n s, (s.hp p).up = true → (s.hp p).ipv4 = some (a, n) →
    exec (.arpRequest p a b) s = .next (s.emit (.arpReply p a b))) ∧
  (∀ (p : Fin 2) (a b : BitVec 128) d s, (s.hp p).up = true → (s.hp p).ipv6.contains a = true →
    exec (.icmpEchoRequest p true a b d) s = .next (s.emit (.icmpReply p true a b d))) ∧
  (∀ (p : Fin 2) (a : W32) n (b : BitVec 128) d s, (s.hp p).up = true → (s.hp p).ipv4 = some (a, n) →
    exec (.icmpEchoRequest p false (a.setWidth 128) b d) s = .next (s.emit (.icmpReply p false (a.setWidth 128) b d))) ∧
  (∀ (p : Fin 2) r s, s.kcpUp p = true → r = .malformed ∨ r = .fragment ∨ r = .tagged →
    exec (.kcpPacketDrop p r) s = .next { s with kcp := { s.kcp with drops := s.kcp.drops + 1 } }) ∧
  (∀ (p : Fin 2) s, exec (.kcpPacketDrop p .foreignType) s = .next s ∧ exec (.kcpPacketDrop p .foreignPort) s = .next s) ∧
  (∀ (p : Fin 2) h op s slot, s.kcpNext h slot = true →
    exec (.kcpPacketDrop p (.unknownOpcode h op)) s = .next ((s.take slot h).answer slot h op .badOpcode []))

/-! ### Identity, firmware and owner keys (R434 to R440) -/

/-- IDENT_INFO, IDENT_KEY_READ and ATTEST complete: what they return, with nothing of the state changed (R434, R438, R440). -/
def Obligations.IdentityCommandsRun : Prop :=
  (∀ h s slot, devReady s h slot 0x0910 = true →
    Runs (.identInfo h) s h slot 0x0910 .ok (be 8 s.boot.serial.toNat ++ be 2 s.boot.slotA.svn ++ be 2 s.boot.slotB.svn ++
      be 1 s.boot.rollback ++ be 1 s.boot.booted.val ++ be 1 (s.boot.activeOwner.getD 0xFF) ++ be 1 0 ++ be 4 s.boot.rackId) id) ∧
  (∀ h s slot, devReady s h slot 0x0911 = true →
    Runs (.identKeyRead h) s h slot 0x0911 .ok (padTo 1793 s.boot.identPub ++ be 3 0 ++ padTo 1280 s.boot.mfgSig) id) ∧
  (∀ h n s slot, devReady s h slot 0x0912 = true ∨ ctxReady s h slot 0x0912 anyHeld = true →
    Runs (.attest h n) s h slot 0x0912 .ok (s.report h.context n ++ slice (Config.signature (s.report h.context n)) 0 1280) id)

/-- FW_BEGIN, FW_WRITE, FW_END, FW_ACTIVATE and FW_COMMIT complete (R434): the slot is erased, written, checked, preferred on trial, and
kept; a commit that advances burns rollback bits up to the running image's number and no further than 64. -/
def Obligations.FirmwareCommandsRun : Prop :=
  (∀ h (k : BitVec 8) (n : W32) s slot, devReady s h slot 0x0920 = true → k.toNat < 2 → k.toNat ≠ s.boot.booted.val →
    8192 ≤ n.toNat → n.toNat ≤ 50339840 →
    Runs (.fwBegin h k n) s h slot 0x0920 .ok [] fun t => { t with boot := { t.boot.setSlot k.toNat {} with
      fwUpdate := some (if k = 0 then 0 else 1, n.toNat) } }) ∧
  (∀ h (o : W32) (d : List Byte) i n s slot, devReady s h slot 0x0921 = true → s.boot.fwUpdate = some (i, n) → o.toNat + d.length ≤ n →
    Runs (.fwWrite h o d) s h slot 0x0921 .ok [] fun t => { t with boot := t.boot.setSlot i ((t.boot.slot? i).write o.toNat d) }) ∧
  (∀ h i n s slot, devReady s h slot 0x0922 = true → s.boot.fwUpdate = some (i, n) → s.boot.slotValidNow (s.boot.slot? i) true = true →
    Runs (.fwEnd h true) s h slot 0x0922 .ok (be 2 (s.boot.slot? i).svn ++ be 2 0 ++ be 32 (s.boot.slot? i).imageDigest.toNat) fun t =>
      { t with boot := { t.boot with fwUpdate := none } }.raise 0x82 none unitModule (BitVec.ofNat 64 (s.boot.slot? i).svn)
        (BitVec.ofNat 32 i.val)) ∧
  (∀ h (k : BitVec 8) s slot, devReady s h slot 0x0923 = true → k.toNat < 2 → s.boot.slotValidNow (s.boot.slot? k.toNat) true = true →
    s.boot.fwUpdate = none →
    Runs (.fwActivate h k true) s h slot 0x0923 .ok [] fun t =>
      { t with boot := { t.boot.rewrite with pref := if k = 0 then 0 else 1, trial := true, tryCount := 0 } }) ∧
  (∀ h (adv : BitVec 8) s slot, devReady s h slot 0x0924 = true → adv.toNat < 2 →
    ∃ t, exec (.fwCommit h adv) s = .next t ∧ t.boot.trial = false ∧ t.boot.bootSeq = s.boot.bootSeq + 1 ∧
      t.boot.rollback = (if adv = 1 then max s.boot.rollback (min 64 s.boot.runningSvn) else s.boot.rollback) ∧
      .reply (kcpReply h 0x0924 .ok (be 1 t.boot.rollback ++ be 3 0)) ∈ t.out ∧ t.mem = s.mem ∧ t.ctxs = s.ctxs)

/-- OWNER_ENROLL, OWNER_REPLACE and OWNER_REMOVE complete (R436): the first unused owner slot becomes active with the key's digest, and
the slot that was active is revoked. -/
def Obligations.OwnerCommandsRun : Prop :=
  (∀ h pub i s slot, devReady s h slot 0x0930 = true → s.mgmt.enrollEn = true → s.ownerActive = false → s.boot.unusedOwner = some i →
    Runs (.ownerEnroll h pub) s h slot 0x0930 .ok [] fun t =>
      { t with boot := { t.boot with ownerPub := pub, ownerDigest := t.boot.ownerDigest.set i (digestOf pub),
                                     ownerState := t.boot.ownerState.set i 1 } }.ownerChanged 0x0930) ∧
  (∀ h pub sig i j s slot, devReady s h slot 0x0931 = true → s.ownerActive = true → s.boot.activeOwner = some j →
    s.boot.unusedOwner = some i →
    Runs (.ownerReplace h pub sig true) s h slot 0x0931 .ok [] fun t =>
      { t with boot := { t.boot with ownerPub := pub, ownerDigest := t.boot.ownerDigest.set i (digestOf pub),
                                     ownerState := (t.boot.ownerState.set j 3).set i 1 } }.ownerChanged 0x0931) ∧
  (∀ h sig j s slot, devReady s h slot 0x0932 = true → s.ownerActive = true → s.boot.activeOwner = some j →
    Runs (.ownerRemove h sig true) s h slot 0x0932 .ok [] fun t =>
      { t with boot := { t.boot with ownerState := t.boot.ownerState.set j 3 } }.ownerChanged 0x0932)

/-! ### Events, dumps, resets of units and dies (R359 to R374) -/

/-- R359, R361: raising an event appends one record with the next SEQ and the time of the counter, the log keeps the newest 65,536,
and device memory, the contexts and the fuses stay. -/
def Obligations.RaiseRecords : Prop :=
  ∀ (s : State) (code : Nat) (ctx : Option Nat) (u : EventUnit) (arg : W64) (aux : W32),
    let t := s.raise code ctx u arg aux
    let r : Event := { seq := s.faults.nextSeq, code := BitVec.ofNat 16 code, cls := eventClass code false, ctx := ctx,
                       unitKind := u.kind, unitIndex := u.index, aux := aux, time := s.now, arg := arg }
    t.faults.nextSeq = s.faults.nextSeq + 1 ∧
    t.faults.log = (s.faults.log ++ [r]).drop ((s.faults.log ++ [r]).length - 65536) ∧
    t.mem = s.mem ∧ t.ctxs = s.ctxs ∧ t.boot = s.boot ∧ t.fences = s.fences ∧ t.arrays = s.arrays

/-- EVENT_READ, SNAPSHOT_READ, DUMP_READ and DUMP_TAKE complete (R361, R364, R372, R374). -/
def Obligations.FaultReadsRun : Prop :=
  (∀ h first count s slot, devReady s h slot 0x0801 = true ∨ ctxReady s h slot 0x0801 anyHeld = true →
    Runs (.eventRead h first count) s h slot 0x0801 .ok ((s.eventsFrom first count.toNat).flatMap fun e => params32 e.words) id) ∧
  (∀ h (o : W64) (n : W32) s slot, ctxReady s h slot 0x0802 [.faulted] = true →
    badSpan o n ((s.ctx (hctx h)).snapshot.length) = false →
    Runs (.snapshotRead h o n) s h slot 0x0802 .ok (slice (s.ctx (hctx h)).snapshot o.toNat n.toNat) id) ∧
  (∀ h (o : W64) (n : W32) s slot, devReady s h slot 0x0803 = true → badSpan o n (4 * vaultSlotBytes) = false →
    s.mem.poisonIn (vaultBase + o.toNat) n.toNat = none →
    Runs (.dumpRead h o n) s h slot 0x0803 .ok (s.mem.read (vaultBase + o.toNat) n.toNat) fun t =>
      { t with mem := t.mem.note (vaultBase + o.toNat) n.toNat }) ∧
  (∀ h s slot, devReady s h slot 0x0822 = true → s.faults.dump = none →
    Runs (.dumpTake h) s h slot 0x0822 .ok (be 4 s.faults.nextDump.toNat) fun t => t.startDump 0)

/-- UNIT_RESET, DIE_RESET, PEER_SET and SPARE_ASSIGN complete (R366, R367, R382, R385, R442). -/
def Obligations.FaultControlRun : Prop :=
  (∀ h (k : BitVec 8) (i : W16) e s slot, devReady s h slot 0x0820 = true → engineOf k.toNat i.toNat = some e →
    Runs (.unitReset h k i) s h slot 0x0820 .ok [] (fun t => t.askEngineReset e)) ∧
  (∀ h (k i : BitVec 8) d s slot, devReady s h slot 0x0821 = true → dieOf k.toNat i.toNat = some d →
    RunsThen (.dieReset h k i) s h slot 0x0821 .ok [] id fun t => t.startDieReset d) ∧
  (∀ h (q : W16) (st : BitVec 8) (tag : BitVec 24) (by' : W16) s slot, devReady s h slot 0x0812 = true → q.toNat < 21504 → st.toNat < 5 →
    by'.toNat < 2 ^ 15 →
    RunsThen (.peerSet h q st tag by') s h slot 0x0812 .ok [] (fun t => { t with fabric := { t.fabric with
      peers := Tab.put t.fabric.peers q.toNat (peerEntry st.toNat by'.toNat true tag.toNat) } }) State.injectAll) ∧
  (∀ h (q : W16) s slot, devReady s h slot 0x0813 = true → q.toNat < 21504 → s.boot.slotValid = true → s.boot.slot.spare = true →
    (∀ e ∈ s.ctxs, e.2.state = .free) →
    Runs (.spareAssign h q) s h slot 0x0813 .ok [] fun t => { t with fabric := { t.fabric with
      position := q.setWidth 15, isSpare := false, assigned := true } })

/-- DUMP_WRITE, DUMP_UNIT_TIMEOUT and DIE_RESET_COMPLETE complete (R367, R372, R374): a dump that is written is no longer under way; a
unit that does not answer is marked HUNG in it, once; a die whose reset ends is no longer in reset. -/
def Obligations.DumpAndDieRun : Prop :=
  (∀ cause (q : Bool) s, ∃ t, exec (.dumpWrite cause q) s = .next t ∧ t.faults.dump = none ∧ t.ctxs = s.ctxs ∧ t.boot = s.boot) ∧
  (∀ (k : Fin 16) (i : Fin 1024) d s, s.faults.dump = some d →
    exec (.dumpUnitTimeout k i) s = .next { s with faults := { s.faults with
      dump := some { d with hung := if d.hung.contains (k.val, i.val) then d.hung else d.hung ++ [(k.val, i.val)] } } }) ∧
  (∀ die (x : DieResetEnd) s, s.faults.dies.contains die = true →
    ∃ t, exec (.dieResetComplete die x) s = .next t ∧ t.faults.dies.contains die = false)

/-- WATCHDOG_EXPIRY, CORE_RESTART and CORE_RESTART_TIMEOUT complete (R369, R370): the core stops and a restart begins; with a good
image the core runs again and no restart is under way; a restart that takes too long is abandoned for a new one. -/
def Obligations.CoreRestartsRun : Prop :=
  (∀ s, s.faults.coreUp = true → exec .watchdogExpiry s = .next (s.startRestart .watchdog)) ∧
  (∀ c0 c s, s.faults.restart = some c0 → exec (.coreRestart c true) s = .next (s.coreResumes c0) ∧
    (s.coreResumes c0).faults.coreUp = true ∧ (s.coreResumes c0).faults.restart = none) ∧
  (∀ c0 s, s.faults.restart = some c0 → exec .coreRestartTimeout s = .next (s.startRestart .duringRestart)) ∧
  (∀ c (s : State), (s.startRestart c).faults.coreUp = false ∧ (s.startRestart c).faults.restart = some c)

/-! ### Input power (R399 to R403) -/

/-- INPUT_THROTTLE, INPUT_THROTTLE_END, INPUT_CUT, INPUT_RECOVERED and SURGE complete (R400, R401, R402): the thresholds of 62.0, 58.0
and 60.0 V and what each condition sets; a cut clears every run enable and a recovery returns those of the dies whose PLL is ready; a surge of at most 10 ms stops
nothing and its voltage enters the maximum. -/
def Obligations.InputConditionsRun : Prop :=
  (∀ (v : W16) s, s.powered = true → s.power.throttle = false → v.toNat < 6200 →
    exec (.inputThrottle v) s = .next (((s.onPower fun p => ({ p with throttle := true }.reading v).see 3)).raise 0x60 none unitModule
      (v.setWidth 64) 1)) ∧
  (∀ (v : W16) s, s.powered = true → s.power.throttle = true → 6200 ≤ v.toNat →
    exec (.inputThrottleEnd v) s = .next ((s.onPower fun p => { p with throttle := false }.reading v).raise 0x60 none unitModule
      (v.setWidth 64) 0)) ∧
  (∀ (v : W16) s, s.powered = true → s.power.cut = false → v.toNat < 5800 →
    ∃ t, exec (.inputCut v) s = .next t ∧ t.power.cut = true ∧ t.power.pstate = .ride ∧ t.power.before = s.power.pstate ∧
      t.power.enables = 0 ∧ t.power.vin = v ∧ t.mem = s.mem ∧ t.ctxs = s.ctxs ∧ t.fabric = s.fabric) ∧
  (∀ (v : W16) (us : W32) s, s.powered = true → s.power.cut = true → 6000 ≤ v.toNat →
    ∃ t, exec (.inputRecovered v us) s = .next t ∧ t.power.cut = false ∧ t.power.pstate = s.power.before ∧
      t.power.enables = s.power.runEnables ∧ t.power.rideUs = us ∧ t.power.ramp = true ∧ t.mem = s.mem ∧ t.ctxs = s.ctxs) ∧
  (∀ (v : W16) (us : W32) s, s.powered = true → 8000 < v.toNat → us.toNat ≤ 10000 →
    ∃ t, exec (.surge v us) s = .next t ∧ t.power.stopCause = none ∧ v.toNat ≤ t.power.vinMax.toNat ∧ t.mem = s.mem ∧ t.ctxs = s.ctxs)

/-- SURGE_TIMEOUT, OVER_VOLTAGE, HOLDUP_EXHAUSTED, THERMAL_TRIP and ORDERLY_STOP complete (R402, R403, R411): each of the first four
starts an orderly stop with its own cause. A stop already begun keeps its first cause, the write-combining buffers are flushed, the
rails go down, and the power fault log, of at most 256 records, ends with the cause's record. A stop that is over happens once. -/
def Obligations.OrderlyStopsRun : Prop :=
  (∀ (v : W16) s, s.powered = true → 8000 < v.toNat →
    ∃ t, exec (.surgeTimeout v) s = .next t ∧ t.power.stopCause = some .overVoltage ∧ t.power.enables = 0 ∧ t.boot.stage = 12) ∧
  (∀ (v : W16) s, s.powered = true → 9000 < v.toNat →
    ∃ t, exec (.overVoltage v) s = .next t ∧ t.power.stopCause = some .overVoltage ∧ t.power.enables = 0 ∧ t.boot.stage = 12) ∧
  (∀ s, s.powered = true → s.power.cut = true →
    ∃ t, exec .holdupExhausted s = .next t ∧ t.power.stopCause = some .holdup ∧ t.power.holdup ≤ 300 ∧ t.boot.stage = 12) ∧
  (∀ tm sn s, s.powered = true → 110 < tm →
    ∃ t, exec (.thermalTrip tm sn) s = .next t ∧ t.power.stopCause = some .thermal ∧ t.power.tMax = tm ∧ t.boot.stage = 12) ∧
  (∀ c s, s.power.railsDown = false → ∃ t, exec (.orderlyStop c) s = .next t ∧ t.power.stopCause = some (s.power.stopCause.getD c) ∧
    t.power.railsDown = true ∧ t.mem = s.mem.flush ∧ t.ctxs = s.ctxs ∧
    t.boot.powerLog.getLast?.map (·.cause) = some (stopCode (s.power.stopCause.getD c)) ∧ t.boot.powerLog.length ≤ 256) ∧
  (∀ c s, s.power.railsDown = true → exec (.orderlyStop c) s = .next s)

/-! ### Clock rate, temperature, envelope (R405 to R411) -/

/-- DVFS_EVALUATE, DVFS_STEP, ENVELOPE_UPDATE, INPUT_POWER_OVER_LIMIT and HOLDUP_MEASURE complete: the target level and the thermal limit,
one level a step toward the target, the envelope's new power state, of which a cut leaves the measured draw alone, pacing above 3,800 W, and the hold-up store in mJ.
R411: the thermal limit falls one level for each evaluation above 95 °C, never below level 0, and rises only below 90 °C, never
above level 7; the level that the sequencer moves to never exceeds it. -/
def Obligations.PowerControlRun : Prop :=
  (∀ (r : PowerReading) s, s.powered = true → r.tMax ≤ 110 →
    ∃ t, exec (.dvfsEvaluate r) s = .next t ∧ t.power.thermal = thermalLimit s.power.thermal r ∧
      t.power.target = s.levelTarget (thermalLimit s.power.thermal r) r ∧ t.power.level = s.power.level ∧ t.power.tMax = r.tMax ∧
      t.power.stopCause = none ∧ t.mem = s.mem ∧ t.ctxs = s.ctxs) ∧
  (∀ s, s.powered = true → exec .dvfsStep s = .next { s with power := { s.power with
    level := if s.power.level < s.power.target then s.power.level + 1
      else if s.power.target < s.power.level then s.power.level - 1 else s.power.level } }) ∧
  (∀ d p b s, s.powered = true → s.power.cut = false → exec (.envelopeUpdate d p b) s = .next { s with power := s.envelope d p b }) ∧
  (∀ d p b s, s.powered = true → s.power.cut = true → ∃ t, exec (.envelopeUpdate d p b) s = .next t ∧ t.power.pIn = p ∧ t.power.pBurn = 0 ∧
    t.power.pTarget = s.power.pTarget ∧ t.power.cut = true ∧ t.mem = s.mem ∧ t.ctxs = s.ctxs) ∧
  (∀ w s, s.powered = true → 3800 < w → exec (.inputPowerOverLimit w) s = .next { s with power := { s.power with pacing := true } }) ∧
  (∀ mj s, s.powered = true → ∃ t, exec (.holdupMeasure mj) s = .next t ∧ t.power.capacity = mj ∧ t.power.holdup = mj / 10 ∧
    t.mem = s.mem ∧ t.ctxs = s.ctxs) ∧
(∀ (old : Nat) (r : PowerReading), 95 < r.tMax → thermalLimit old r = old - 1) ∧
  (∀ (old : Nat) (r : PowerReading), old < thermalLimit old r → r.tMax < 90) ∧
  (∀ (old : Nat) (r : PowerReading), old ≤ 7 → thermalLimit old r ≤ 7) ∧
  (∀ (s : State) (th : Nat) (r : PowerReading), s.levelTarget th r ≤ th)

/-! ### Clocks and time (R412 to R419) -/

/-- REF_QUALIFY_WINDOW, REF_QUALIFY_TIMEOUT, PLL_LOCK_WINDOW, CLOCK_FAULT, PLL_RELOCK, PPS_EDGE, PPS_LOST and NANOSECOND_FIELD_WRAP complete
in every state (R413, R414, R417, R418, R419), with what each does.
R413: the windows of the reference are gathered until eight are there; REF_READY is set where each of the eight lies within ±2 % of their
mean, and qualification starts again where one does not. A reference that does not qualify in time leaves every port down and REF_FAIL
set.
R414: a PLL is ready at the fourth successive window within ±500 ppm, and not ready after one outside. A DVFS PLL that loses lock is not
ready, its dies' enables are cleared and CLOCK_FAULT is raised, and a second loss within 60 s starts a die reset; a loss of the
management PLL or the reference asks for a module warm reset. A relock returns the enables, and a failed one starts the die reset.
R417, R418, R419: the first edge of a FREE counter steps it; an edge within 200 µs of its place, 1 s ± 200 µs after the last accepted one,
is accepted; any other is rejected and counted, and the third in a run steps; the loss of LOCKED goes to HOLDOVER with PPS_LOST; the
nanosecond field returns to 0 and the seconds advance by 1, or take a pending TIME_SET once the PPS state has left LOCKED. -/
def Obligations.ClocksTimeRun : Prop :=
  (∀ e s, exec (.refQualifyWindow e) s = .next { s with power := { s.power with reference := s.power.reference.window e } }) ∧
  (∀ (r : ClockRef) e, r.ready = false → r.windows.length < 7 → r.window e = { r with windows := r.windows ++ [e] }) ∧
  (∀ (r : ClockRef) e, r.ready = false → r.windows.length = 7 → (r.window e).windows = [] ∧
    ((r.window e).ready = true ↔ 0 < (r.windows ++ [e]).sum ∧ ∀ w ∈ r.windows ++ [e],
      50 * (8 * w - (r.windows ++ [e]).sum) ≤ (r.windows ++ [e]).sum ∧ 50 * ((r.windows ++ [e]).sum - 8 * w) ≤ (r.windows ++ [e]).sum)) ∧
  (∀ s, s.power.reference.ready = false → ∃ t, exec .refQualifyTimeout s = .next t ∧ t.kcp.hp0.up = false ∧ t.kcp.hp1.up = false ∧
    (∀ p, (t.port p).state = .down ∨ (t.port p).state = .retired) ∧
    t.mgmt.alertCause.getLsbD 0 = true ∧ t.mem = s.mem ∧ t.ctxs = s.ctxs ∧ t.boot = s.boot) ∧
  (∀ s, s.power.reference.ready = true → exec .refQualifyTimeout s = .next s) ∧
  (∀ pll e s, pll ≠ .reference → exec (.pllLockWindow pll e) s = .next { s with power := s.power.setPll pll ((s.power.pll pll).lockWindow e) }) ∧
  (∀ e s, exec (.pllLockWindow .reference e) s = .next s) ∧
  (∀ (r : ClockRef) (e : Int), (e < -500 ∨ 500 < e → r.lockWindow e = { windows := [], ready := false }) ∧
    (-500 ≤ e → e ≤ 500 → r.ready = false → (r.lockWindow e).ready = decide (3 ≤ r.windows.length)) ∧
    (-500 ≤ e → e ≤ 500 → r.ready = true → r.lockWindow e = r)) ∧
  (∀ (n : Fin 8) s, s.powered = true → (∀ t, Tab.find? s.power.lastLoss n = some t → t + ticksOf 60 < s.power.ticks) →
    ∃ t, exec (.clockFault (.dvfs n)) s = .next t ∧ (t.power.pll (.dvfs n)).ready = false ∧ t.power.enables.getLsbD n.val = false ∧
      t.faults.nextSeq = s.faults.nextSeq + 1 ∧ Tab.find? t.power.lastLoss n = some s.power.ticks ∧ t.mem = s.mem ∧ t.ctxs = s.ctxs) ∧
  (∀ (n : Fin 8) l s, s.powered = true → Tab.find? s.power.lastLoss n = some l → s.power.ticks ≤ l + ticksOf 60 →
    ∃ u : State, exec (.clockFault (.dvfs n)) s = .next (u.startDieReset (.cd n)) ∧ (u.power.pll (.dvfs n)).ready = false ∧
      u.power.enables.getLsbD n.val = false ∧ u.mem = s.mem ∧ u.ctxs = s.ctxs) ∧
  (∀ p s, s.powered = true → (∃ n, p = .serdes n) ∨ (∃ n, p = .hbm n) → ∃ t, exec (.clockFault p) s = .next t ∧ (t.power.pll p).ready = false ∧
    t.faults.nextSeq = s.faults.nextSeq + 1 ∧ t.power.enables = s.power.enables ∧ t.mem = s.mem ∧ t.ctxs = s.ctxs) ∧
  (∀ p s, s.powered = true → p = .management ∨ p = .reference → ∃ t, exec (.clockFault p) s = .next t ∧ (t.power.pll p).ready = false ∧
    t.faults.resetAsked = true ∧ t.faults.nextSeq = s.faults.nextSeq + 1 ∧ t.mem = s.mem ∧ t.ctxs = s.ctxs) ∧
  (∀ (n : Fin 8) s, s.powered = true → (Tab.get {} s.power.cdPll n).ready = false →
    exec (.pllRelock n true) s = .next { s with power := (s.power.setPll (.dvfs n) { ready := true }).enable n true } ∧
    exec (.pllRelock n false) s = .next (s.startDieReset (.cd n))) ∧
  (∀ (n : Fin 8) b s, (Tab.get {} s.power.cdPll n).ready = true → exec (.pllRelock n b) s = .next s) ∧
  (∀ n s, s.powered = true →
    let e := s.power.edgeError
    let u : State := { s with power := { s.power with ppsErr := clampErr e, ppsAt := some s.power.ticks } }
    let run := if 0 < s.power.ppsRun && within n 1000000000 1000 then s.power.ppsRun + 1 else 1
    let v : State := { u with power := { u.power with counters := Tab.count u.power.counters 3 1, ppsRun := run, ppsSince := s.power.ppsSince + n } }
    (s.power.pps = .free → exec (.ppsEdge n) s = .next (u.ppsStep e)) ∧
    (s.power.pps ≠ .free → e.natAbs ≤ 200000 → within (s.power.ppsSince + n) 1000000000 200000 = true →
      exec (.ppsEdge n) s = .next (u.ppsAccept e)) ∧
    (s.power.pps ≠ .free → 200000 < e.natAbs ∨ within (s.power.ppsSince + n) 1000000000 200000 = false →
      exec (.ppsEdge n) s = .next (if 3 ≤ run then v.ppsStep e else v))) ∧
  (∀ (s : State) (e : Int), (s.ppsStep e).power.nanos = 0 ∧ (s.ppsStep e).power.pps = .locked ∧ (s.ppsStep e).power.stepped = true ∧
    (s.ppsStep e).power.seconds = (if e < 0 then s.power.seconds + 1 else s.power.seconds) ∧ (s.ppsStep e).mem = s.mem) ∧
  (∀ (s : State) (e : Int), s.power.pendSec = none → (s.ppsAccept e).power.slewPpb = -e ∧ (s.ppsAccept e).power.pps = .locked ∧
    (s.ppsAccept e).power.nanos = s.power.nanos ∧ (s.ppsAccept e).power.seconds = s.power.seconds) ∧
  (∀ s, s.power.pps = .locked → exec .ppsLost s =
    .next (({ s with power := { s.power with pps := .holdover } }).raise 0x67 none unitModule 0 0)) ∧
  (∀ s, s.power.pps ≠ .locked → exec .ppsLost s = .next s) ∧
  (∀ s, s.power.pendSec = none ∨ s.power.pps = .locked →
    exec .nanosecondFieldWrap s = .next { s with power := { s.power with seconds := s.power.seconds + 1, nanos := 0 } }) ∧
  (∀ s x, s.power.pendSec = some x → s.power.pps ≠ .locked → exec .nanosecondFieldWrap s = .next (s.setSeconds x 0) ∧
    (s.setSeconds x 0).power.seconds = x ∧ (s.setSeconds x 0).power.nanos = 0 ∧ (s.setSeconds x 0).power.secSet = true ∧
    (s.setSeconds x 0).power.pendSec = none)

/-! ### Boot and the management bus (R427 to R460) -/

/-- COLD_BOOT and MODULE_WARM_RESET (R368, R432, R433): a ROM that fails its digest stops the boot at step 1; a reference that does not
qualify stops it at step 2 with the alert, from where a boot begins again once the
reference has qualified; a module whose orderly stop is over has lost its power first; with no slot whose signature holds the
module is in ROM recovery; otherwise the boot is counted and ends at BOOT_DONE or in ROM recovery. -/
def Obligations.BootRun : Prop :=
  (∀ i s, s.boot.stage = 0 ∨ (s.boot.stage = 2 ∧ s.power.reference.ready = true) → s.mgmt.resetLow = false →
    exec (.coldBoot i) s = .next (s.bootUp i)) ∧
  (∀ i s, s.boot.stage = 12 → s.power.railsDown = true → s.mgmt.resetLow = false →
    exec (.coldBoot i) s = .next (s.powerUp.bootUp i) ∧ s.powerUp.mem.bytes = [] ∧ s.powerUp.boot.rollback = s.boot.rollback ∧
    s.powerUp.boot.powerLog = s.boot.powerLog ∧ s.powerUp.power = {} ∧ s.powerUp.ctxs = []) ∧
  (∀ i s, s.mem.busy = none → s.powered = true → s.mgmt.resetLow = false →
    exec (.moduleWarmReset i) s = .next ((s.moduleReset false).bootUp i)) ∧
  (∀ i (s : State), i.romOk = false → (s.bootUp i) = { s with boot := { s.boot with stage := 1 } }) ∧
  (∀ i (s : State), i.romOk = true → i.refOk = false → (s.bootUp i).boot.stage = 2 ∧ (s.bootUp i).mgmt.alertCause.getLsbD 0 = true) ∧
  (∀ i (s : State), i.romOk = true → i.refOk = true → i.sigOkA = false → i.sigOkB = false →
    (s.bootUp i).boot.stage = 11 ∧ (s.bootUp i).boot.recovery = true) ∧
  (∀ i (s : State), i.romOk = true → i.refOk = true →
    (s.bootUp i).boot.bootCount = s.boot.bootCount + 1 ∧
    ((s.bootUp i).boot.stage = 10 ∨ (s.bootUp i).boot.stage = 11 ∧ (s.bootUp i).boot.recovery = true))

/-- What a module reset leaves (R15, R313, R336, R365): no session and no program; every context FREE; no fence and no structure; the
rollback fuses and the queue as they were; a warm reset keeps the HBM bytes, with the buffers flushed; a full reset keeps neither them
nor the event log. WARM_RESET, FULL_RESET, RESET_N_ASSERT and RESET_N_RELEASE complete (R458, R459): a low of 10 µs to 5 s asks for a
warm reset and one of 5 s or more does a full one. -/
def Obligations.ResetsRun : Prop :=
  (∀ (s : State) (full : Bool) c, ((s.moduleReset full).ctx c).state = .free ∧ ((s.moduleReset full).ctx c).program = none) ∧
  (∀ (s : State) (full : Bool), (s.moduleReset full).kcp.sessions = [] ∧ (s.moduleReset full).fences = [] ∧
    (s.moduleReset full).structs = [] ∧ (s.moduleReset full).boot.rollback = s.boot.rollback ∧ (s.moduleReset full).pending = s.pending) ∧
  (∀ s : State, (s.moduleReset true).mem.bytes = [] ∧ (s.moduleReset true).faults.log = []) ∧
  (∀ (s : State) a, a < hbmEnd → Memory.byte (s.moduleReset false).mem.bytes a = Memory.byte s.mem.flush.bytes a) ∧
(∀ s, s.busUp = true → s.powered = true → exec .warmReset s = .next s.askReset ∧ exec .fullReset s = .next (s.moduleReset true)) ∧
  (∀ s, s.powered = true → exec .resetNAssert s = .next { s with mgmt := { s.mgmt with resetLow := true } }) ∧
  (∀ us s, s.powered = true → s.mgmt.resetLow = true →
    (us < 10 → exec (.resetNRelease us) s = .next { s with mgmt := { s.mgmt with resetLow := false } }) ∧
    (10 ≤ us → us < 5000000 → exec (.resetNRelease us) s = .next ({ s with mgmt := { s.mgmt with resetLow := false } }).askReset) ∧
    (5000000 ≤ us → exec (.resetNRelease us) s = .next (({ s with mgmt := { s.mgmt with resetLow := false } }).moduleReset true)))

/-- MGMT_REGISTER_WRITE, ALERT_CAUSE_CLEAR, SETDASA, ENTDAA, RSTDAA and GETSTATUS complete while the module serves the bus (R456, R459, R460).
A word written to ALERT_EN, to MGMT_CTL or to REC_DATA is taken, without its reserved bits; words of one transfer go to consecutive
registers; a word that the transfer ends part-way leaves its register; a transfer that reads returns the registers' words and changes
nothing. A cause written with 1 is cleared and every other one stays, but REF_FAIL while the reference has not qualified and
ROM_RECOVERY while the ROM is in recovery. A dynamic address is taken while there is none and dropped by RSTDAA, and GETSTATUS is
answered. Outside that time the module NAKs and nothing changes. -/
def Obligations.ManagementBusRun : Prop :=
  (∀ (w : W32) s, s.busUp = true →
    exec (.mgmtRegisterWrite 0x014 [w] .whole) s = .next { s with mgmt := { s.mgmt with alertEn := w.setWidth 9 } } ∧
    exec (.mgmtRegisterWrite 0x018 [w] .whole) s = .next { s with mgmt := { s.mgmt with enrollEn := w.getLsbD 2 } } ∧
    exec (.mgmtRegisterWrite 0x010 [w] .whole) s = .next s) ∧
  (∀ (i : Nat) (w : W32) s, s.busUp = true → i < 64 →
    exec (.mgmtRegisterWrite (BitVec.ofNat 16 (0x100 + 4 * i)) [w] .whole) s =
      .next { s with mgmt := { s.mgmt with recData := Tab.put s.mgmt.recData i w } }) ∧
  (∀ (i : Nat) (w v : W32) s, s.busUp = true → i < 63 →
    exec (.mgmtRegisterWrite (BitVec.ofNat 16 (0x100 + 4 * i)) [w, v] .whole) s =
      .next { s with mgmt := { s.mgmt with recData := Tab.put (Tab.put s.mgmt.recData i w) (i + 1) v } }) ∧
  (∀ o (w : W32) (ws : List W32) s, s.busUp = true →
    exec (.mgmtRegisterWrite o [w] .partialWord) s = .next s ∧
    exec (.mgmtRegisterWrite o (ws ++ [w]) .partialWord) s = exec (.mgmtRegisterWrite o ws .whole) s) ∧
  (∀ (o : W16) (n : Nat) s, s.busUp = true → exec (.mgmtRegisterWrite o [] (.reads n)) s =
    .next { s with out := s.out ++ [.mgmtRead ((List.range n).map fun i => s.mgmtWord (o.toNat + 4 * i))] }) ∧
  (∀ s : State, s.mgmtWord 0x010 = s.mgmt.alertCause.setWidth 32 ∧ s.mgmtWord 0x014 = s.mgmt.alertEn.setWidth 32 ∧
    (∀ i, i < 64 → s.mgmtWord (0x100 + 4 * i) = Tab.get 0 s.mgmt.recData i) ∧ s.mgmtWord 0x040 = 0) ∧
  (∀ (m : W32) s, s.busUp = true → ∃ t, exec (.alertCauseClear m) s = .next t ∧
    (∀ i, i < 9 → (t.mgmt.alertCause.getLsbD i = true ↔ s.mgmt.alertCause.getLsbD i = true ∧
      (m.getLsbD i = false ∨ (i = 0 ∧ s.power.reference.ready = false) ∨ (i = 1 ∧ s.boot.recovery = true)))) ∧
    t.mgmt.alertEn = s.mgmt.alertEn ∧ t.mgmt.recData = s.mgmt.recData ∧ t.mem = s.mem ∧ t.ctxs = s.ctxs ∧ t.boot = s.boot) ∧
  (∀ (a : BitVec 7) s, s.busUp = true → s.mgmt.dynAddr = none →
    exec (.setdasa a) s = .next { s with mgmt := { s.mgmt with dynAddr := some a } } ∧
    exec (.entdaa a) s = .next { s with mgmt := { s.mgmt with dynAddr := some a } }) ∧
  (∀ (a b : BitVec 7) s, s.mgmt.dynAddr = some b → exec (.setdasa a) s = .next s ∧ exec (.entdaa a) s = .next s) ∧
  (∀ s, s.busUp = true → exec .rstdaa s = .next { s with mgmt := { s.mgmt with dynAddr := none } } ∧
    ∃ (w : W16) (t : State), exec .getstatus s = .next t ∧ t.out = s.out ++ [Out.mgmtStatus w] ∧ t.mgmt = s.mgmt ∧ t.mem = s.mem ∧
      t.ctxs = s.ctxs ∧ t.boot = s.boot) ∧
  (∀ s, s.busUp = false → (∀ o ws e, exec (.mgmtRegisterWrite o ws e) s = .next s) ∧ (∀ m, exec (.alertCauseClear m) s = .next s) ∧
    (∀ a, exec (.setdasa a) s = .next s ∧ exec (.entdaa a) s = .next s) ∧ exec .rstdaa s = .next s ∧ exec .getstatus s = .next s)

/-- ERASE, PROGRAM and CHECK complete in ROM recovery (R433, R461): the slot is erased, a unit of 256 bytes is programmed from the
data registers, and VALID says whether the slot passes R430. -/
def Obligations.RecoveryFlashRun : Prop :=
  (∀ (k : Fin 2) s, s.recovering = true → exec (.erase k) s = .next { s with
    boot := s.boot.setSlot k {}, mgmt := { s.mgmt with recState := 2 } }) ∧
  (∀ (k : Fin 2) (u : BitVec 18) s, s.recovering = true → exec (.program k u) s = .next { s with
    boot := s.boot.setSlot k ((s.boot.slot? k).write (256 * u.toNat) s.mgmt.recBuffer), mgmt := { s.mgmt with recState := 2 } }) ∧
  (∀ (k : Fin 2) ok s, s.recovering = true → exec (.check k ok) s = .next { s with mgmt := { s.mgmt with
    recState := 2, recValid := s.boot.slotValidNow (s.boot.slot? k) ok } })

/-! ### HBM channels (R294, R299 to R309) -/

/-- RETRAIN_DUE, DRIFT_ALARM and RETRAIN_REQUEST bring an ACTIVE channel into the retrain queue, and the first two leave one that is
queued alone; RETRAIN_START takes the first of the queue while none retrains (R302, R303). RETRAIN_END, SCRUB_STEP and WCB_EVICT
complete (R294, R301, R303, R319): after a retraining that succeeds no channel retrains, and one whose retraining fails is lost; a
clean scrub step moves to the next sector; the oldest entry that is 2 µs old and may be evicted goes. CHANNEL_SILENT, STACK_PHY_FAILURE,
CHANNEL_FENCED and GRANULE_RELOCATE complete (R305, R307, R309): a silent channel is lost; a failed PHY exceeds the Basin and a warm
reset is asked for; a channel above the hourly limit of uncorrectable errors is relocating from its first granule; a seventeenth fence
exceeds the Basin. -/
def Obligations.ChannelsRun : Prop :=
  (∀ (c : Fin 1024) s, (s.mem.chan c).state = .active → s.firmware = true →
    let t : State := { s with mem := { s.mem.setChan c { s.mem.chan c with state := .retrainQueued } with queue := s.mem.queue ++ [c.val] } }
    exec (.retrainDue c) s = .next t ∧ exec (.driftAlarm c) s = .next t) ∧
  (∀ (c : Fin 1024) s, (s.mem.chan c).state = .retrainQueued → exec (.retrainDue c) s = .next s ∧ exec (.driftAlarm c) s = .next s) ∧
  (∀ h (c : W16) s slot, devReady s h slot 0x0804 = true → c.toNat < 1024 → (s.mem.chan c.toNat).state = .active →
    Runs (.retrainRequest h c) s h slot 0x0804 .ok [] fun t =>
      let x : Channel := { t.mem.chan c.toNat with state := .retrainQueued }
      { t with mem := { t.mem.setChan c.toNat x with queue := t.mem.queue ++ [c.toNat] } }) ∧
  (∀ s c r, s.mem.busy = none → s.mem.queue = c :: r → exec .retrainStart s = .next
    { s with mem := { s.mem.setChan c { s.mem.chan c with state := .retraining } with busy := some c, queue := r } }) ∧
  (∀ s c, s.mem.busy = some c → exec .retrainStart s = .next s) ∧
(∀ s c, s.mem.busy = some c → ∃ t, exec (.retrainEnd true) s = .next t ∧ t.mem.busy = none ∧
    t.ctxs = s.ctxs ∧ t.boot = s.boot ∧ t.fences = s.fences) ∧
  (∀ s c, s.mem.busy = some c → exec (.retrainEnd false) s = .next (s.loseChannel c)) ∧
  (∀ (c : Fin 1024) s, (s.mem.chan c).state = .active →
    exec (.scrubStep c .clean) s = .next
      { s with mem := s.mem.setChan c { s.mem.chan c with scrubPos := ((s.mem.chan c).scrubPos + 1) % sectorsPerChannel } }) ∧
  (∀ (c : Fin 1024) r s, (s.mem.chan c).state ≠ .active → exec (.scrubStep c r) s = .next s) ∧
  (∀ (k : Fin 32) e s, ((Tab.get [] s.mem.wcb k).take wcbDepth).find? (fun e => e.due && s.mem.evictable e) = some e →
    exec (.wcbEvict k) s = .next { s with mem := s.mem.evict e }) ∧
(∀ (c : Fin 1024) s, exec (.channelSilent c) s = .next (s.loseChannel c)) ∧
  (∀ (k : Fin 32) s, ∃ t, exec (.stackPhyFailure k) s = .next t ∧ t.mem.exhausted = true ∧ t.faults.resetAsked = true) ∧
  (∀ (c : Fin 1024) ce ue s, (s.mem.chan c).state = .active → 16 < ue → s.mem.fencedCount < 16 →
    ∃ t, exec (.channelFenced c ce ue) s = .next t ∧ (t.mem.chan c).state = .relocating ∧ (t.mem.chan c).cursor = 0 ∧
      t.mem.order = s.mem.order ++ [c.val] ∧ t.mem.bytes = s.mem.bytes ∧ t.ctxs = s.ctxs) ∧
  (∀ (c : Fin 1024) ce ue s, (s.mem.chan c).state = .active → 16 < ue → 16 ≤ s.mem.fencedCount →
    ∃ t, exec (.channelFenced c ce ue) s = .next t ∧ t.mem.exhausted = true ∧ t.faults.resetAsked = true) ∧
  (∀ (c : Fin 1024) s, (s.mem.chan c).state = .relocating → (s.mem.chan c).paused = false → s.firmware = true →
    exec (.granuleRelocate c) s = .next { s with mem := s.mem.relocate c })

/-! ### Group 0x03: memory, streams and the Cistern (R213, R288, R294 to R300, R352 to R355) -/

/-- R295, R304: a write is visible to every later reader, and only where it writes, whatever the buffers hold: each byte of it reads as
written and every byte that lies elsewhere reads as before, so of two writes the later one is read where they overlap. Where a byte lies
is its home: an accumulation buffer that the Reservoir holds keeps its HBM range as its name (R212), and two addresses that name one place
share its byte. -/
def Obligations.WriteVisible : Prop :=
  ∀ (m : Mem) (a c : Nat) (bs cs : List Byte), BuffersWf m →
    let r := (m.write a bs).write c cs
    (∀ i b, cs[i]? = some b → (∀ j, j < cs.length → m.home (c + j) = m.home (c + i) → j = i) → r.byte (c + i) = b) ∧
    (∀ i b, bs[i]? = some b → (∀ j, j < bs.length → m.home (a + j) = m.home (a + i) → j = i) →
      (∀ j, j < cs.length → m.home (c + j) ≠ m.home (a + i)) → r.byte (a + i) = b) ∧
    (∀ x, (∀ j, j < bs.length → m.home (a + j) ≠ m.home x) → (∀ j, j < cs.length → m.home (c + j) ≠ m.home x) → r.byte x = m.byte x) ∧
    (∀ x, m.placed = [] → m.home x = x)

/-- The write-combining buffers keep their form through every step: each entry lies in the list of its stack, one to a sector, with
its bytes in rising order inside the sector. -/
def Obligations.BuffersWfKept : Prop :=
  (∀ s t : State, step s = .next t → BuffersWf s.mem → BuffersWf t.mem) ∧ BuffersWf State.reset.mem

/-- MEM_GRANT and MEM_RELEASE complete (R288, R330): the region is the context's under the lowest free number, and a region that nothing
uses goes. -/
def Obligations.GrantRun : Prop :=
  (∀ h (b n : W64) s slot, ctxReady s h slot 0x0301 [.created, .loaded, .running, .holding, .held] = true →
    (∀ c ∈ memGrantChecks h b n s, c.1 = false) →
    Runs (.memGrant h b n) s h slot 0x0301 .ok (be 2 (s.ctx (hctx h)).freeRegion ++ be 2 0) fun t =>
      t.onCtx (hctx h) fun c => { c with regions := c.regions ++ [((s.ctx (hctx h)).freeRegion, b.toNat, n.toNat)] }) ∧
  (∀ h (g : W16) r s slot, ctxReady s h slot 0x0302 [.created, .loaded, .running, .holding, .held] = true →
    (s.ctx (hctx h)).granted.find? (fun r => r.1 = g.toNat) = some r → s.rangeUsed (hctx h) r.2.1 r.2.2 = false →
    Runs (.memRelease h g) s h slot 0x0302 .ok [] fun t =>
      t.onCtx (hctx h) fun c => { c with regions := c.regions.filter fun r => r.1 ≠ g.toNat })

/-- MEM_WRITE, MEM_READ and MEM_FILL complete (R295, R300, R330): what the host's checks of a range pass, the write or the fill puts at the
address and nowhere else, a read returns the bytes as they stand, and the fence of a fill grows by 1. -/
def Obligations.HostMemoryRun : Prop :=
  (∀ h (a : W64) (d : List Byte) s slot, ctxReady s h slot 0x0303 [.created, .loaded, .running, .holding, .held] = true →
    d.length ≤ 8184 → d.length % 4 = 0 → (∀ c ∈ s.hostRange (hctx h) a d.length false, c.1 = false) → BuffersWf s.mem →
    ∃ t, exec (.memWrite h a d []) s = .next t ∧ .reply (kcpReply h 0x0303 .ok []) ∈ t.out ∧
      (∀ i b, d[i]? = some b → (∀ j, j < d.length → s.mem.home (a.toNat + j) = s.mem.home (a.toNat + i) → j = i) →
        t.mem.byte (a.toNat + i) = b) ∧
      (∀ x, (∀ j, j < d.length → s.mem.home (a.toNat + j) ≠ s.mem.home x) → t.mem.byte x = s.mem.byte x) ∧
      t.fences = s.fences ∧ t.arrays = s.arrays) ∧
  (∀ h (a : W64) (n : W32) s slot, ctxReady s h slot 0x0304 [.created, .loading, .loaded, .running, .holding, .held, .faulted] = true →
    4 ≤ n.toNat → n.toNat ≤ 8188 → n.toNat % 4 = 0 → s.mem.poisonIn a.toNat n.toNat = none →
    (∀ c ∈ s.hostRange (hctx h) a n.toNat true, c.1 = false) →
    ∃ t, exec (.memRead h a n []) s = .next t ∧ .reply (kcpReply h 0x0304 .ok (s.mem.read a.toNat n.toNat)) ∈ t.out ∧
      (∀ x, t.mem.byte x = s.mem.byte x) ∧ t.ctxs = s.ctxs ∧ t.fences = s.fences) ∧
  (∀ h (a n : W64) (p : W32) s slot, ctxReady s h slot 0x0305 [.created, .loaded, .running, .holding, .held] = true →
    (∀ c ∈ s.hostRange (hctx h) a n.toNat false, c.1 = false) → BuffersWf s.mem → n.toNat % 4 = 0 →
    ∃ t, exec (.memFill h a n p 0xFFFF) s = .next t ∧ .reply (kcpReply h 0x0305 .accepted []) ∈ t.out ∧
      (∀ i, i < n.toNat → (∀ j, j < n.toNat → s.mem.home (a.toNat + j) = s.mem.home (a.toNat + i) → j = i) →
        t.mem.byte (a.toNat + i) = (le 4 p.toNat).getD (i % 4) 0) ∧
      (∀ x, (∀ j, j < n.toNat → s.mem.home (a.toNat + j) ≠ s.mem.home x) → t.mem.byte x = s.mem.byte x) ∧ t.fences = s.fences) ∧
  (∀ h (a n : W64) (p : W32) (f : W16) s slot, ctxReady s h slot 0x0305 [.created, .loaded, .running, .holding, .held] = true →
    (∀ c ∈ s.hostRange (hctx h) a n.toNat false, c.1 = false) → s.holds (hctx h) f.toNat = true → f ≠ 0xFFFF →
    RunsThen (.memFill h a n p f) s h slot 0x0305 .accepted []
      (fun t => (t.write a.toNat (fillBytes p n.toNat)).noteHost (hctx h) a.toNat n.toNat)
      fun t => t.signal f.toNat 1)

/-- STREAM_OPEN, STREAM_DATA, STREAM_CLOSE and STREAM_TIMEOUT complete (R352, R353): a host-to-device stream opens, its data lands at its
offset, its close returns the CRC-32C of the range and BAD_CRC where the host's differs, and a silent stream ends with its event. -/
def Obligations.StreamsRun : Prop :=
  (∀ h (n : BitVec 8) (a len : W64) s slot, ctxReady s h slot 0x0306 [.created, .loaded, .running, .holding, .held] = true →
    (∀ c ∈ streamOpenChecks h n 0 a len s, c.1 = false) → (∀ x, s.session? slot = some x → s.readyStream x = none) →
    ∃ t x, exec (.streamOpen h n 0 a len) s = .next t ∧ .reply (kcpReply h 0x0306 .ok []) ∈ t.out ∧ t.session? slot = some x ∧
      { number := n.toNat, context := hctx h, toHost := false, addr := a.toNat, bytes := len.toNat : Stream } ∈ x.streams ∧
      t.mem = s.mem ∧ t.ctxs = s.ctxs) ∧
  (∀ h (n : BitVec 8) (o : W64) (d : List Byte) x s slot,
    ctxReady s h slot 0x0307 [.created, .loaded, .running, .holding, .held] = true →
    (∀ c ∈ streamDataChecks h n o d s, c.1 = false) → s.fetchOf h n.toNat = none → s.streamOf h n.toNat = some x →
    Runs (.streamData h n o d) s h slot 0x0307 .ok [] fun t =>
      let e := d.take (spanBytes (s.streamSpans h n.toNat) - o.toNat)
      ({ t with mem := t.mem.writeSpans (s.streamSpans h n.toNat) o.toNat e }).noteHost (hctx h) (x.addr + o.toNat) e.length) ∧
  (∀ h (n : BitVec 8) (crc : W32) x s slot,
    ctxReady s h slot 0x0308 [.created, .loading, .loaded, .running, .holding, .held, .faulted] = true →
    s.fetchOf h n.toNat = none → s.streamOf h n.toNat = some x → (∀ c ∈ closedChecks (some x), c.1 = false) →
    s.stateBusy (hctx h) x.addr x.bytes true = false → (s.streamSpans h n.toNat).any (fun r => (s.mem.poisonIn r.1 r.2).isSome) = false →
    Runs (.streamClose h n crc) s h slot 0x0308
      (if crc32c (s.mem.readSpans (s.streamSpans h n.toNat)) = crc then .ok else .badCrc)
      (be 4 (crc32c (s.mem.readSpans (s.streamSpans h n.toNat))).toNat)
      fun t => (t.noteReads (s.streamSpans h n.toNat)).onStreams h fun ts => ts.filter fun t => t.number ≠ n.toNat) ∧
  (∀ (k : Fin 16) (n : Fin 32) x u s, s.session? k = some x → n.val < 16 →
    x.streams.find? (fun t => t.number = n.val && t.isOpen) = some u →
    exec (.streamTimeout k n) s = .next (s.timeoutStream k x u) ∧
    ∃ y, (s.timeoutStream k x u).session? k = some y ∧ y.streams.all (fun t => t.number ≠ u.number || t.timedOut) = true)

/-- CISTERN_ATTACH, CISTERN_PREFETCH and SHARD_SET complete (R195, R213, R355): the session serves the context, a fetch of a shard's state
is posted in the order of R208, and a shard's age and powers take the host's values with its step and its blocks unchanged. -/
def Obligations.CisternRun : Prop :=
  (∀ h s slot, ctxReady s h slot 0x0309 [.created, .loaded, .running, .holding, .held] = true →
    RunsThen (.cisternAttach h) s h slot 0x0309 .ok [] (fun t => t.onCtx (hctx h) fun c => { c with cistern := some h.session })
      fun t => t.repost (hctx h)) ∧
  (∀ (c : Fin 64) k s, s.firmware = true → (s.ctx c).fetchable k = true → s.fetchFirst c k = true →
    exec (.cisternPrefetch c k) s = .next (s.postFetch c k)) ∧
  (∀ h (l e : W16) (fb age b1 b2 : W32) i s slot, ctxReady s h slot 0x030A [.loaded, .held] = true →
    (s.ctx (hctx h)).shardAt l.toNat e.toNat fb.toNat = some i → f32in 0 0x3F800000 b1 = true → f32in 0 0x3F800000 b2 = true →
    Runs (.shardSet h l e fb age b1 b2) s h slot 0x030A .ok [] fun t => t.onCtx (hctx h) fun c =>
      { c with shards := c.shards.modify i fun t => { t with age := age, b1pow := b1, b2pow := b2 } })

/-! ### Groups 0x04 and 0x05: programs, grids, steps, fences -/

/-- PROG_LOAD, PROG_UNLOAD, PROG_QUERY, LOAD_DONE and GRID_SUBMIT complete (R336 to R339, R344): a load begins and its end is reported; an
unload releases what the load took; a one-shot grid takes the lowest free slot and its reply names the slot and GSEQ.
R336, R338: what unloading leaves. The context holds no program, fence, grid or shard, and no tile is leased to it. -/
def Obligations.ProgramCommandsRun : Prop :=
  (∀ h (d : W64) (n : W16) s slot, ctxReady s h slot 0x0401 [.created] = true → (∀ c ∈ loadChecks h d n s, c.1 = false) →
    Runs (.progLoad h d n) s h slot 0x0401 .accepted [] fun t => t.onCtx (hctx h) fun x => { x with
      state := .loading, load := some { session := h.session, dir := d.toNat, entries := n.toNat } }) ∧
  (∀ h s slot, ctxReady s h slot 0x0402 [.loaded, .held] = true → (s.ctx (hctx h)).program ≠ none →
    Runs (.progUnload h) s h slot 0x0402 .ok [] fun t => (t.dropProgram (hctx h)).onCtx (hctx h) fun x => { x with state := .created }) ∧
  (∀ h s slot, ctxReady s h slot 0x0403 anyHeld = true →
    Runs (.progQuery h) s h slot 0x0403 .ok (loadParams (s.ctx (hctx h)).loadStat) id) ∧
  (∀ h (a : W64) p k s slot, ctxReady s h slot 0x0404 [.loaded, .held] = true → (s.ctx (hctx h)).program = some p →
    a.toNat < 2 ^ 48 → a.toNat % 64 = 0 → (s.ctx (hctx h)).covers a.toNat 64 = true → s.mem.poisonIn a.toNat 64 = none →
    gridFails s.mem (s.ctx (hctx h)) (s.loadedEnv (hctx h) p) (s.mem.record a.toNat 8) 0 = [] → s.freeGridSlot (hctx h) = some k →
    Runs (.gridSubmit h a) s h slot 0x0404 .ok (be 2 k ++ be 2 0 ++ be 4 (s.ctx (hctx h)).gseq.toNat) fun t =>
      t.submit (hctx h) k (s.mem.record a.toNat 8) none) ∧
  (∀ (c : Fin 64) r t q s, (s.ctx c).state = .loading → (s.ctx c).load = some r → r.recover = false →
    (s.tryLoad c r.dir r.entries false).st = some (t, q) →
    exec (.loadDone c) s = .next (((t.emitAll c q 1).refoldAll c q).announceLayout.reportLoad c r.session .ok (0, 0, 0)) ∧
    (t.ctx c).state = .loaded ∧ (t.ctx c).step = 0) ∧
  (∀ (c : Fin 64) r s, (s.ctx c).state = .loading → (s.ctx c).load = some r →
    (s.tryLoad c r.dir r.entries r.recover).st = none →
    exec (.loadDone c) s = .next ((s.endLoad c .created).reportLoad c r.session (s.tryLoad c r.dir r.entries r.recover).status
      (s.tryLoad c r.dir r.entries r.recover).item)) ∧
  (∀ (s : State) (c : Nat),
    ((s.dropProgram c).ctx c).program = none ∧ ((s.dropProgram c).ctx c).grids = [] ∧ ((s.dropProgram c).ctx c).shards = [] ∧
    (∀ e ∈ (s.dropProgram c).fences, e.2.owner ≠ c) ∧
    (∀ n a, (n, a) ∈ (s.dropProgram c).arrays → ∀ i t, (i, t) ∈ a.tiles → t.ctx = c → t.st = .free) ∧
    (s.dropProgram c).mem = s.mem ∧ (s.dropProgram c).boot = s.boot ∧ (s.dropProgram c).power = s.power)

/-- R350: STEP_RUN adds COUNT to RUN_LEFT, saturating at 2^32 − 1, and the context is RUNNING; in a context without a program it is refused with
NOT_READY. Where a held context resumes, what the host rewrote is read again and its working copies are made again after that (R199, R243; the
placement in this command is log entry 89's). A STEP_HOLD at the next boundary names the last step started, one of a context that no
step runs in only replies (log entry 97), and a STEP_QUERY returns the counters. -/
def Obligations.StepCommandsRun : Prop :=
  (∀ h (n : W32) s slot, ctxReady s h slot 0x0501 [.loaded, .running, .holding] = true → n ≠ 0 → (s.ctx (hctx h)).program ≠ none →
    Runs (.stepRun h n) s h slot 0x0501 .ok [] fun t => t.onCtx (hctx h) fun x => { x with
      state := .running, holdStep := none, holdSess := h.session,
      runLeft := BitVec.ofNat 32 (min (2 ^ 32 - 1) (x.runLeft.toNat + n.toNat)) }) ∧
  (∀ h (n : W32) s slot, ctxReady s h slot 0x0501 [.held] = true → n ≠ 0 → (s.ctx (hctx h)).program ≠ none →
    Runs (.stepRun h n) s h slot 0x0501 .ok [] fun t => (((t.onCtx (hctx h) fun x => { x with
      state := .running, holdStep := none, holdSess := h.session,
      runLeft := BitVec.ofNat 32 (min (2 ^ 32 - 1) (x.runLeft.toNat + n.toNat)) }).rereadUpdate (hctx h)).rereadExperts (hctx h)).remakeRewritten (hctx h)) ∧
  (∀ h (n : W32) s slot, ctxReady s h slot 0x0501 [.created, .loaded, .running, .holding, .held] = true → n ≠ 0 →
    (s.ctx (hctx h)).program = none → Runs (.stepRun h n) s h slot 0x0501 .notReady [] id) ∧
  (∀ h s slot, ctxReady s h slot 0x0502 [.running, .holding] = true → (s.ctx (hctx h)).program ≠ none →
    (s.ctx (hctx h)).step.toNat < (s.ctx (hctx h)).started →
    Runs (.stepHold h 0) s h slot 0x0502 .ok (be 8 (s.ctx (hctx h)).started) fun t => t.onCtx (hctx h) fun x => { x with
      state := .holding, holdStep := some x.started, holdSess := h.session, runLeft := 0 }) ∧
  (∀ h (k : W64) s slot, ctxReady s h slot 0x0502 [.loaded, .held] = true → (s.ctx (hctx h)).program ≠ none →
    Runs (.stepHold h k) s h slot 0x0502 .ok (be 8 (s.ctx (hctx h)).step.toNat) id) ∧
  (∀ h s slot, ctxReady s h slot 0x0503 anyHeld = true →
    Runs (.stepQuery h) s h slot 0x0503 .ok (be 8 (s.ctx (hctx h)).step.toNat ++ be 8 (s.ctx (hctx h)).minShardStep ++
      be 4 (s.ctx (hctx h)).runLeft.toNat ++ be 1 (ctxStateCode (s.ctx (hctx h)).state) ++ be 3 0) id)

/-- FENCE_SIGNAL, FENCE_QUERY and FENCE_NOTIFY complete (R330, R346, R348): the value grows by INC, wrapping at 2^32, and the reply carries
it; a query changes nothing; a notification whose target is not reached waits.
Fence signals from a fence that is frozen are discarded (R362). -/
def Obligations.FenceCommandsRun : Prop :=
  (∀ h (f : W16) (inc : W32) x s slot, ctxReady s h slot 0x0504 [.created, .loaded, .running, .holding, .held] = true →
    inc ≠ 0 → inc.toNat < 2 ^ 31 → f.toNat < 16384 → Tab.find? s.fences f.toNat = some x → x.owner = hctx h → x.frozen = false →
    ∃ t, exec (.fenceSignal h f inc) s = .next t ∧ .reply (kcpReply h 0x0504 .ok (be 4 (x.value + inc).toNat)) ∈ t.out ∧
      Tab.find? t.fences f.toNat = some { x with value := x.value + inc } ∧
      (∀ g, g ≠ f.toNat → Tab.find? t.fences g = Tab.find? s.fences g) ∧ t.mem = s.mem ∧ t.ctxs = s.ctxs) ∧
  (∀ h (f : W16) x s slot, ctxReady s h slot 0x0505 anyHeld = true → f.toNat < 16384 →
    Tab.find? s.fences f.toNat = some x → x.owner = hctx h →
    Runs (.fenceQuery h f) s h slot 0x0505 .ok (be 4 x.value.toNat ++ be 4 x.init.toNat ++ be 2 x.stride.toNat ++ be 2 (bit01 x.host)) id) ∧
  (∀ h (f : W16) (tg : W32) x y s slot, ctxReady s h slot 0x0506 [.created, .loaded, .running, .holding, .held] = true →
    f.toNat < 16384 → Tab.find? s.fences f.toNat = some x → x.owner = hctx h → fenceReached x.value tg = false →
    s.slotOf h.session = some slot → s.session? slot = some y → y.id = h.session → y.notifies.length < 256 →
    ∃ t z, exec (.fenceNotify h f tg) s = .next t ∧ .reply (kcpReply h 0x0506 .ok []) ∈ t.out ∧ t.session? slot = some z ∧
      z.notifies = y.notifies ++ [(f.toNat, tg)] ∧ t.fences = s.fences ∧ t.mem = s.mem ∧ t.ctxs = s.ctxs) ∧
  (∀ (s : State) (f : Nat) (inc : W32) (x : Fence), Tab.find? s.fences f = some x → x.frozen = true → s.signal f inc = s)

/-- R347: every signal adds to the 32-bit value, wrapping (but where the fence is frozen, R362). A wait for a target is satisfied exactly
where the value less the target, modulo 2^32, is below 2^31. In a step grid and its tasks the target for step n is the wait's value plus
(n − 1) times the STRIDE of the fence, modulo 2^32; in a one-shot grid it is the wait's value. A wait once satisfied stays so while
the value moves on by less than 2^31 from its target. -/
def Obligations.FenceWaitRule : Prop :=
  (∀ (s : State) (f : Nat) (inc : W32) (x : Fence), Tab.find? s.fences f = some x → x.frozen = false →
    Tab.find? (s.signal f inc).fences f = some { x with value := BitVec.ofNat 32 (x.value.toNat + inc.toNat) }) ∧
  (∀ (s : State) (f : Nat) (v : W32) (n : Nat) (x : Fence), Tab.find? s.fences f = some x →
    (s.waitOk f v (some n) = true ↔ (x.value.toNat + 2 ^ 32 - (v.toNat + (n - 1) * x.stride.toNat) % 2 ^ 32) % 2 ^ 32 < 2 ^ 31) ∧
    (s.waitOk f v none = true ↔ (x.value.toNat + 2 ^ 32 - v.toNat) % 2 ^ 32 < 2 ^ 31)) ∧
  (∀ v t inc : W32, fenceReached v t = true → (v - t).toNat + inc.toNat < 2 ^ 31 → fenceReached (v + inc) t = true)

/-- STEP_START, STEP_BOUNDARY and TASK_COMPLETE complete (R19, R349, R351): a step starts where the rules let it; a boundary takes the step
counter to the next step; a completed task is listed in its grid once. -/
def Obligations.StepEventsRun : Prop :=
  (∀ (c : Fin 64) s, (s.ctx c).mayStart = true →
    ∃ t, exec (.stepStart c) s = .next t ∧ (t.ctx c).started = (s.ctx c).started + 1 ∧
      (t.ctx c).runLeft = (s.ctx c).runLeft - 1 ∧
      (t.ctx c).state = (if (s.ctx c).runLeft = 1 then .holding else (s.ctx c).state) ∧
      (t.ctx c).step = (s.ctx c).step ∧ t.mem = s.mem ∧ t.fences = s.fences ∧ ∀ d, d ≠ c.val → t.ctx d = s.ctx d) ∧
  (∀ (c : Fin 64) s, (s.ctx c).atBoundary ((s.ctx c).step.toNat + 1) = true → (s.ctx c).state = .running →
    (s.ctx c).folds.holdNext = false →
    ∃ t, exec (.stepBoundary c) s = .next t ∧ (t.ctx c).step = BitVec.ofNat 64 ((s.ctx c).step.toNat + 1) ∧
      (t.ctx c).state = .running ∧ (t.ctx c).started = (s.ctx c).started ∧ t.fences = s.fences) ∧
  (∀ (c : Fin 64) k s, (s.ctx c).atBoundary ((s.ctx c).step.toNat + 1) = true → (s.ctx c).state = .holding →
    (s.ctx c).folds.holdNext = false → (s.ctx c).holdStep = some k → k ≤ (s.ctx c).step.toNat + 1 →
    ∃ t, exec (.stepBoundary c) s = .next t ∧ (t.ctx c).state = .held ∧ (t.ctx c).runLeft = 0) ∧
  (∀ (c : Fin 64) slot task g s, s.fabric.colls = [] → s.fabric.early = [] → (s.ctx c).grid? slot = some g →
    s.eligible c g task = true → s.taskEnded g task = true →
    exec (.taskComplete c slot task) s = .next
      (if g.kind = some .copy then
        (if s.paid c.val = true ∧ s.dmaRuns 0 = true then s.copyTask c slot task ((s.mem.task g.desc task).field 1 47 0) else s)
      else s.completeTask c slot task)) ∧
  (∀ (s : State) c slot task g, (s.ctx c).grid? slot = some g → g.done.contains task = false → task < gridTasks g.desc →
    (s.mem.task g.desc task).field 0 58 58 = 0 → g.done.length + 1 < gridTasks g.desc →
    s.completeTask c slot task = s.onGrid c slot fun g => { g with done := g.done ++ [task], tasks := Tab.drop g.tasks task })

/-! ### Group 0x06: Resident Solve and the roots (R155, R159, R164, R171 to R189) -/

/-- RS_CREATE, RS_DESTROY, RS_FEED, RS_FACTOR, RS_SOLVE, RS_QUERY, RS_GENERATION_RESIDENT and RS_WORK_COMPLETE complete (R155, R184, R187, R189,
R190): the structure takes the lowest free handle and its storage reads zero, a feed is applied whole or not at all, work joins the
structure's queue, and a finished generation becomes the resident one. -/
def Obligations.ResidentRun : Prop :=
  (∀ h (order nblk : W32) (pattern base bytes : W64) (damp : W32) (mode : BitVec 8) s slot,
    ctxReady s h slot 0x0601 [.created, .loaded, .running, .holding, .held] = true →
    (∀ c ∈ rsCreateChecks (hctx h) order nblk pattern base bytes damp mode s, c.1 = false) →
    let r := s.mem.newStruct (hctx h) order nblk pattern base bytes damp mode
    Runs (.rsCreate h order nblk pattern base bytes damp mode) s h slot 0x0601 .ok
      (be 2 s.freeHandle ++ be 2 0 ++ be 4 r.factor.length ++ be 8 (rsBytes nblk.toNat r.factor.length)) fun t =>
        ({ t with mem := t.mem.zeroFill (r.image false) (2 * nblk.toNat * rsBlockBytes) }).setStruct s.freeHandle r) ∧
  (∀ h (hd : W16) r s slot, ctxReady s h slot 0x0602 [.created, .loaded, .running, .holding, .held] = true →
    s.struct? (hctx h) hd = some r → r.work = [] →
    Runs (.rsDestroy h hd) s h slot 0x0602 .ok [] fun t => { t with structs := Tab.drop t.structs hd.toNat }) ∧
  (∀ h (hd : W16) (n : W32) (a : W64) r ds m q s slot, ctxReady s h slot 0x0603 [.created, .loaded, .running, .holding, .held] = true →
    s.struct? (hctx h) hd = some r → badBuffer s (hctx h) a n.toNat = false → s.mem.poisonIn a.toNat n.toNat = none →
    parseDeltas ((s.mem.read a.toNat n.toNat).length / 64 + 1) (s.mem.read a.toNat n.toNat) = some ds →
    feedDeltas ds hd.toNat s.mem r = some (m, q) →
    Runs (.rsFeed h hd n a) s h slot 0x0603 .ok (be 4 ds.length ++ be 4 (q.staged.getD q.gen).toNat ++ be 4 q.gen.toNat)
      fun t => ({ t with mem := m }).setStruct hd.toNat q) ∧
  (∀ h (hd fence : W16) (st : W64) r s slot, ctxReady s h slot 0x0604 [.created, .loaded, .running, .holding, .held] = true →
    s.struct? (hctx h) hd = some r → badFence s (hctx h) fence = false → badBuffer s (hctx h) st 32 = false → r.gen ≠ 0 →
    Runs (.rsFactor h hd fence st) s h slot 0x0604 .accepted [] fun t => t.queueWork hd.toNat r
      { solve := false, refactor := false, fence := fence.toNat, nrhs := 0, b := 0, x := 0, status := st.toNat }) ∧
  (∀ h (hd flags fence : W16) (nrhs : W32) (b x st : W64) r s slot,
    ctxReady s h slot 0x0605 [.created, .loaded, .running, .holding, .held] = true → s.struct? (hctx h) hd = some r →
    flags.toNat ≤ 1 → nrhs ≠ 0 → nrhs.toNat ≤ 16384 → badFence s (hctx h) fence = false →
    badBuffer s (hctx h) b (4 * r.order * nrhs.toNat) = false → badBuffer s (hctx h) x (4 * r.order * nrhs.toNat) = false →
    badBuffer s (hctx h) st 32 = false → r.gen ≠ 0 → (flags = 1 ∨ r.factorGen = some r.gen) →
    Runs (.rsSolve h hd flags fence nrhs b x st) s h slot 0x0605 .accepted [] fun t => t.queueWork hd.toNat r
      { solve := true, refactor := flags = 1, fence := fence.toNat, nrhs := nrhs.toNat, b := b.toNat, x := x.toNat, status := st.toNat }) ∧
  (∀ h (hd : W16) r s slot, ctxReady s h slot 0x0606 anyHeld = true → s.struct? (hctx h) hd = some r →
    Runs (.rsQuery h hd) s h slot 0x0606 .ok (statusParams r.record) id) ∧
  (∀ (hd : Fin 256) r g s, Tab.find? s.structs hd.val = some r → r.lastSeen = true → r.staged = some g → r.running = false →
    exec (.rsGenerationResident hd) s = .next (s.setStruct hd.val
      { r with gen := g, staged := none, lastSeen := false, exchanged := !r.exchanged })) ∧
  (∀ (hd : Fin 256) r w ws s, Tab.find? s.structs hd.val = some r → r.work = w :: ws → s.workOps r w ≤ w.blocks →
    (s.ctx r.owner).state ≠ .purging → (s.ctx r.owner).state ≠ .faulted →
    exec (.rsWorkComplete hd) s = .next (s.endWork hd.val r w ws))

/-- ROOT_CONFIG, ROOT_QUERY, ROOT_PUBLISH, RTE_JOB_START, RTE_PRODUCT_DRAIN and RTE_FAULT complete (R159, R164, R175, R177, R181): the
four words replace the program's configuration, the two stored roots' headers are returned, a restarted job goes first, a residue
error retries the product once and the second halts the engine, a drained tile is followed by the job's next, and after a fault the
engine is not halted and is in service or not as its restart says. -/
def Obligations.RootEnginesRun : Prop :=
  (∀ h (w0 w1 w2 w3 : W64) s slot, ctxReady s h slot 0x0607 [.loaded, .held] = true → rootFails [w0, w1, w2, w3] = [] →
    Runs (.rootConfig h w0 w1 w2 w3) s h slot 0x0607 .ok [] fun t =>
      t.onCtx (hctx h) fun x => { x with program := x.program.map fun p => { p with root := [w0, w1, w2, w3] } }) ∧
  (∀ h (l e : W16) (sd : BitVec 8) (b : W16) d s slot, ctxReady s h slot 0x0608 [.held, .faulted] = true →
    s.factorOf (hctx h) l.toNat e.toNat sd.toNat b.toNat = some d →
    Runs (.rootQuery h l e sd b) s h slot 0x0608 .ok
      ([0, 1].flatMap fun x => params64 (s.mem.record (rootAddr d sd.toNat b.toNat x) 6)) id) ∧
  (∀ (n : Fin 8) x s, s.publishable n.val = some x →
    s.checkWrite x.1.ctx (rootAddr x.2.1 x.1.side x.1.block (s.mem.rootTarget x.2.1 x.1.side x.1.block)) (sBuffer x.2.1 x.1.side) = .ok →
    exec (.rootPublish n) s = .next ((s.setRte n.val { s.rte n.val with publish := (s.rte n.val).publish.erase x.1 }).publishRoot n.val
      x.1 x.2.1 x.2.2)) ∧
  (∀ (n : Fin 8) s, s.rteRuns n.val = true → (s.rte n.val).job = none →
    (∀ j js, (s.rte n.val).restart = j :: js →
      exec (.rteJobStart n) s = .next (s.setRte n.val { s.rte n.val with job := some j.fromStart, restart := js })) ∧
    (∀ x, (s.rte n.val).restart = [] → s.nextRefresh n.val = some x → exec (.rteJobStart n) s = .next (s.startRefresh n.val x.1 x.2))) ∧
  (∀ (n : Fin 8) j s, (s.rte n.val).job = some j → s.rteRuns n.val = true → (s.ctx j.ctx).state ≠ .purging →
    (j.retried = false → exec (.rteProductDrain n true) s = .next (s.setRte n.val { s.rte n.val with
      job := some { j with retried := true, tile := 0 }, counters := Tab.count (s.rte n.val).counters 1 1 })) ∧
    (j.retried = true → exec (.rteProductDrain n true) s = .next (s.setRte n.val { s.rte n.val with halted := true })) ∧
    (j.tile + 1 < j.outTiles →
      exec (.rteProductDrain n false) s = .next (s.setRte n.val { s.rte n.val with job := some { j with tile := j.tile + 1 } }))) ∧
  (∀ (n : Fin 8) (b : Bool) s, s.firmware = true → (s.rte n.val).inService = true →
    ∃ t, exec (.rteFault n b) s = .next t ∧ (t.rte n.val).halted = false ∧ (t.rte n.val).inService = b ∧ t.mem = s.mem)

/-! ### Group 0x07: telemetry (R246, R248, R289, R330, R422) -/

/-- COUNTER_READ, REG_READ, REG_CLEAR, CAPTURE_READ, CAPTURE_ARM, TABLE_READ, IDLE_READ, IDLE_CLEAR and IDLE_SATURATED complete: a read
returns the words as they stand, only REG_CLEAR, CAPTURE_ARM and IDLE_CLEAR change anything, and they change what their row says. -/
def Obligations.TelemetryRun : Prop :=
  (∀ h (b u i n : W16) s slot, b.toNat < 12 → u.toNat < counterUnits b.toNat → i.toNat + n.toNat ≤ counterCount b.toNat →
    (if counterOfCtx b.toNat then ctxReady s h slot 0x0701 anyHeld else devReady s h slot 0x0701) = true →
    Runs (.counterRead h b u i n) s h slot 0x0701 .ok
      (params64 (((s.counterBlock (hctx h) b.toNat u.toNat).drop i.toNat).take n.toNat)) id) ∧
  (∀ h (a : W64) (n : W16) s slot, ctxReady s h slot 0x0702 anyHeld = true → n ≠ 0 → n.toNat ≤ 256 → badRegs a n.toNat = false →
    Runs (.regRead h a n false) s h slot 0x0702 .ok
      (params32 ((List.range n.toNat).map fun i => (s.latchTime a.toNat n.toNat).regWord (a.toNat + 4 * i)))
      fun t => t.latchTime a.toNat n.toNat) ∧
  (∀ h (a : W64) (m : W32) s slot, ctxReady s h slot 0x0703 anyHeld = true → badRegs a 1 = false → m &&& ~~~(w1cMask a.toNat) = 0 →
    Runs (.regClear h a m) s h slot 0x0703 .ok [] fun t => t.clearReg a.toNat m) ∧
  (∀ h s slot, ctxReady s h slot 0x0704 anyHeld = true →
    Runs (.captureRead h) s h slot 0x0704 .ok (params32 ((List.range 8).map fun i => (s.ctx (hctx h)).capture.getD i 0)) id) ∧
  (∀ h s slot, ctxReady s h slot 0x0705 anyHeld = true →
    Runs (.captureArm h) s h slot 0x0705 .ok [] fun t => t.onCtx (hctx h) fun x => { x with armed := true }) ∧
  (∀ h (k n : W16) (i : W32) s slot, ctxReady s h slot 0x0706 anyHeld = true → k.toNat ≤ 4 → n ≠ 0 → n.toNat ≤ 64 →
    i.toNat + n.toNat ≤ s.tableSize (hctx h) k.toNat → (k.toNat = 1 ∨ k.toNat = 4 → (s.ctx (hctx h)).program ≠ none) →
    Runs (.tableRead h k n i) s h slot 0x0706 .ok
      ((List.range n.toNat).flatMap fun j => s.tableEntry (hctx h) k.toNat (i.toNat + j)) id) ∧
  (∀ h s slot, ctxReady s h slot 0x0707 anyHeld = true →
    Runs (.idleRead h) s h slot 0x0707 .ok (params64 (s.ctx (hctx h)).idleWords) id) ∧
  (∀ h (m : W16) s slot, ctxReady s h slot 0x0708 anyHeld = true →
    Runs (.idleClear h m) s h slot 0x0708 .ok [] fun t => t.onCtx (hctx h) fun x => { x with
      idleSat := x.idleSat &&& ~~~m, idle := x.idle.filter fun e => !m.getLsbD e.1 }) ∧
  (∀ (c : Fin 64) (k : Fin 12) s, (s.ctx c).state ≠ .free → (s.ctx c).idleSat.getLsbD k.val = false →
    ∃ t, exec (.idleSaturated c k) s = .next t ∧ Tab.find? (t.ctx c).idle k.val = some idleTop ∧ (t.ctx c).idleSat.getLsbD k.val = true ∧
      t.faults.nextSeq = s.faults.nextSeq + 1 ∧ t.mem = s.mem ∧ ∀ d, d ≠ c.val → t.ctx d = s.ctx d)

/-! ### Recovery, digests, purges (R362 to R366, R383 to R398) -/

/-- RECOVER_BEGIN, RECOVER_POINT, RECOVER_LOAD, REBUILD_QUERY, DIGEST_READ and DIVERGENCE_READ complete (R383, R384, R394 to R398). -/
def Obligations.RecoveryCommandsRun : Prop :=
  (∀ h s slot, ctxReady s h slot 0x0810 [.created, .loaded, .running, .holding, .held, .faulted] = true →
    Runs (.recoverBegin h) s h slot 0x0810 .accepted [] fun t =>
      let u := t.onCtx (hctx h) fun x => { x with recovery := { x.recovery with begun := true, quiesced := false, session := h.session } }
      (u.purge (hctx h) (u.faults.nextSeq - 1)).flushParity (hctx h)) ∧
  (∀ h (n : W64) q s slot, ctxReady s h slot 0x0811 [.faulted] = true → s.plan (hctx h) = some q →
    (s.ctx (hctx h)).recovery.quiesced = true → (s.ctx (hctx h)).step.toNat ≤ n.toNat + 1 →
    (s.ctx (hctx h)).recovery.lost.length + bit01 (!(s.badSlots q).isEmpty) ≤ 1 →
    Runs (.recoverPoint h n) s h slot 0x0811 .ok [] fun t => t.recoverPoint (hctx h) q n.toNat) ∧
  (∀ h (d : W64) (n : W16) (p : W64) (f : W32) s slot, ctxReady s h slot 0x0814 [.created, .faulted] = true → f.toNat < 2 →
    (∀ c ∈ loadChecks h d n s, c.1 = false) →
    Runs (.recoverLoad h d n p f) s h slot 0x0814 .accepted [] fun t => t.onCtx (hctx h) fun x =>
      let r : LoadReq := { session := h.session, dir := d.toNat, entries := n.toNat, recover := true, rejoin := f = 1, point := p.toNat }
      { x with state := .loading, load := some r }) ∧
  (∀ h s slot, ctxReady s h slot 0x0815 anyHeld = true →
    let x := (s.ctx (hctx h)).recovery
    Runs (.rebuildQuery h) s h slot 0x0815 .ok
      (be 4 x.blocks ++ be 4 (x.blocks - x.todoBlocks.length) ++ be 4 x.slots ++ be 4 (x.slots - x.todoSlots.length)) id) ∧
  (∀ h (l : W64) d s slot, ctxReady s h slot 0x0818 anyHeld = true →
    (s.ctx (hctx h)).folds.digests.find? (fun d => d.1 = l.toNat) = some d →
    Runs (.digestRead h l) s h slot 0x0818 .ok (be 8 l.toNat ++ be 1 (Config.digestState d.2.2).toNat ++ be 3 0 ++ be 32 d.2.1.toNat) id) ∧
  (∀ h d ds s slot, ctxReady s h slot 0x0819 anyHeld = true → (s.ctx (hctx h)).folds.granules = d :: ds →
    Runs (.divergenceRead h) s h slot 0x0819 .ok (be 8 d.region ++ be 2 d.granule ++
      be 2 (Config.divergenceState (divPhaseCode (s.ctx (hctx h)).folds.phase)).toNat ++ be 4 (differing d.folds)) id)

/-- RECOVER_READY, REBUILD_BLOCK, FOLD_SELF_CHECK, DIGEST_FORM, DIGEST_COMPARE, GRANULE_LOCALISE and DIVERGENCE_REPAIR complete (R383, R391,
R394 to R397): each has its effect where its condition holds; a self-check that is due and passes only moves to the next region with one region less due. -/
def Obligations.RecoveryEventsRun : Prop :=
  (∀ (c : Fin 64) s, (s.ctx c).state = .faulted → (s.ctx c).recovery.begun = true → (s.ctx c).recovery.quiesced = false →
    (s.ctx c).parityIdle = true →
    ∃ t, exec (.recoverReady c) s = .next t ∧ (t.ctx c).recovery.quiesced = true ∧ (t.ctx c).state = .faulted ∧ t.mem = s.mem ∧
      ∀ d, d ≠ c.val → t.ctx d = s.ctx d) ∧
  (∀ (c : Fin 64) (n : Nat) q r x s, s.plan c = some q → q.p.parityOn = some r → (s.ctx c).takesFrames = true →
    q.ownedBlocks[n]? = some x → (s.ctx c).recovery.todoBlocks.contains n = true →
    exec (.rebuildBlock c n) s = .next (s.rebuildBlock c q r n x.1 x.2)) ∧
  (∀ (c : Fin 64) q u b o s, s.plan c = some q → 0 < (s.ctx c).folds.checkDue → q.regionAt ((s.ctx c).folds.checkPos % max 1 q.regions) = some (u, b, o) →
    (∃ x, (s.ctx c).blockAt u b = some x ∧ x.2.phase = .idle) → ((s.ctx c).state = .running ∨ (s.ctx c).state = .holding) →
    s.foldHolds c q u b o ((s.ctx c).folds.checkPos % max 1 q.regions) = true →
    exec (.foldSelfCheck c) s = .next (s.onFolds c fun f => { f with
      checkPos := (((s.ctx c).folds.checkPos % max 1 q.regions) + 1) % max 1 q.regions, checkDue := f.checkDue - 1 })) ∧
  (∀ (c : Fin 64) q n s, s.plan c = some q → s.formable c q = some n →
    exec (.digestForm c) s = .next (s.formDigest c q n)) ∧
  (∀ (c : Fin 64) q x s, s.plan c = some q → s.comparable c q = some x →
    exec (.digestCompare c) s = .next (s.compareDigests c q x.1 x.2)) ∧
  (∀ (s : State) c q n ds, differing ds = 0 → s.compareDigests c q n ds = s.onFolds c fun f => { f with
    digests := f.digests.map (fun d => if d.1 = n then (d.1, d.2.1, true) else d)
    peers := f.peers.filter (fun e => e.1 % 64 ≠ labelPlace q.p.digestInt n), suspects := false }) ∧
  (∀ (c : Fin 64) (n : Nat) q u b i x s, s.plan c = some q → q.ownedBlocks[n]? = some (u, b) → (s.ctx c).blockAt u b = some (i, x) →
    (s.ctx c).folds.awaits q u b x.step = true → x.phase = .idle →
    exec (.granuleLocalise c n) s = .next
      ((((q.listedIn u b (s.ctx c).folds.regions).foldl (fun s r => s.localiseRegion c q r) (s.setBlock c i b { x with holdFix := true })).onFolds
        c fun f => { f with localised := f.localised ++ [n] }).concludeLocalise c q)) ∧
  (∀ (c : Fin 64) q s, s.plan c = some q → (s.ctx c).folds.phase = .located → (s.ctx c).folds.granules = [] →
    exec (.divergenceRepair c) s = .next (s.endLocalise c .none))

/-- CONTEXT_PURGED, PURGE_UNIT_TIMEOUT and ENGINE_RESET complete (R362, R363, R366): a purge whose engines are all reset and whose
passes have all ended ends in FAULTED with its snapshot; a unit that does not answer is noted and its reset asked for; a reset that ends well is taken off the list,
counted and reported. -/
def Obligations.PurgeEventsRun : Prop :=
  (∀ (c : Fin 64) p s, (s.ctx c).state = .purging → s.faults.coreUp = true → (s.ctx c).purge = some p →
    (p.hung ++ p.late).any (fun e => s.faults.engines.contains e) = false → s.passUnderWay c.val = false →
    ∃ t, exec (.contextPurged c) s = .next t ∧ (t.ctx c).state = .faulted ∧ (t.ctx c).purge = none ∧
      (t.ctx c).snapshot = s.snapImage c p ∧ t.boot = s.boot) ∧
  (∀ (c : Fin 64) (e : Engine) (late : Bool) p s, (s.ctx c).state = .purging → s.faults.coreUp = true → (s.ctx c).purge = some p →
    p.asked.contains e = true → p.hung.contains e = false → p.late.contains e = false →
    ∃ t, exec (.purgeUnitTimeout c e late) s = .next t ∧ (t.ctx c).state = .purging ∧
      (t.ctx c).purge = some (if late then { p with late := p.late ++ [e] } else { p with hung := p.hung ++ [e] }) ∧
      t.faults.engines.contains e = true ∧ t.mem = s.mem) ∧
  (∀ (e : Engine) (us : Nat) s, s.faults.engines.contains e = true → s.faults.coreUp = true →
    exec (.engineReset e true us) s = .next (((({ s with faults := { s.faults with engines := s.faults.engines.filter (· ≠ e) } }).countFault
      1 1).raise 0x32 none (engineUnit e) (s.reissued e) (BitVec.ofNat 32 us)).reissue e))

/-! ### The fabric (R249 to R286) -/

/-- The sequenced frames WRITE, READ_REQ, READ_RESP, SIGNAL, DISPATCH, DELTA, PARITY and COLL complete (R121, R154, R255, R261 to R263, R277,
R379): a frame that is in form, new in its stream and for a context that takes frames has its row's effect, and its stream is
acknowledged.
What a WRITE lands (R255, R263, R286, R348): a payload inside the context's memory is written at the address, and a fence that the
context holds waits for the message's end; one outside the context's memory raises BAD_FABRIC_ADDR and purges the context. -/
def Obligations.FrameStreamsRun : Prop :=
  (∀ f p s, frameHere s f 0x01 clsData p.length = true → frameNew s f clsData p.length = true →
    exec (.write f p) s = .next (State.streamBooks f clsData ((s.frameBooks f p.length).landWrite f p))) ∧
  (∀ f p s, frameHere s f 0x03 clsReply p.length = true → frameNew s f clsReply p.length = true →
    exec (.readResp f p) s = .next (State.streamBooks f clsReply ((s.frameBooks f p.length).landWrite f p))) ∧
  (∀ f s, frameHere s f 0x04 clsData 0 = true → frameNew s f clsData 0 = true → f.arg.msb = true → f.arg.toNat % 2 ^ 48 = 0 →
    exec (.signal f) s = .next (State.streamBooks f clsData ((s.frameBooks f 0).landWrite f []))) ∧
  (∀ f (q : W64) (n : W32) s, frameHere s f 0x02 clsData 16 = true → frameNew s f clsData 16 = true →
    ((s.frameBooks f 16).ctx f.context.val).coversHbm f.arg.toNat n.toNat = true →
    exec (.readReq f q { bytes := n }) s = .next (State.streamBooks f clsData ((s.frameBooks f 16).answerRead f q n.toNat, .plain f.last))) ∧
  (∀ f p s, frameHere s f 0x05 clsData p.length = true → frameNew s f clsData p.length = true →
    let t := s.frameBooks f p.length
    exec (.dispatch f p) s = .next (State.streamBooks f clsData ({ t with fabric := { t.fabric with
      dispatch := Tab.modify [] t.fabric.dispatch (f.context.val * 2 ^ 15 + f.src.toNat) (· ++ (List.range (p.length / 8)).map fun i =>
        (f.arg.toNat / 8 + i, BitVec.ofNat 64 (leNat (slice p (8 * i) 8)))) } }, .plain f.last))) ∧
  (∀ f p s, frameHere s f 0x06 clsData p.length = true → frameNew s f clsData p.length = true →
    exec (.delta f p) s = .next (State.streamBooks f clsData (s.frameBooks f p.length,
      .part 0x06 f.context.val f.first f.last (f.arg.toNat % 2 ^ 48) p))) ∧
  (∀ f p r s, frameHere s f 0x07 clsData p.length = true → frameNew s f clsData p.length = true →
    let t := s.frameBooks f p.length
    let off := f.arg.toNat % 2 ^ 48
    (t.ctx f.context.val).program.bind Program.parityOn = some r → off + p.length ≤ r.field 2 47 0 →
    exec (.parity f p) s = .next (State.streamBooks f clsData (t.write (r.field 1 47 0 + off) p,
      .part 0x07 f.context.val f.first f.last off p))) ∧
  (∀ f p cut s, frameHere s f 0x10 clsColl p.length = true → frameNew s f clsColl p.length = true →
    (s.frameBooks f p.length).groupCut f.context.val (fieldOf f.arg 63 52) = some cut → fieldOf f.arg 51 48 < 2 →
    let e : EarlySeg := { ctx := f.context.val, group := fieldOf f.arg 63 52, op := fieldOf f.arg 51 48, offset := f.arg.toNat % 2 ^ 48
                          data := p, port := f.port, vc := f.vc.toNat, units := rxUnits p.length }
    (s.frameBooks f p.length).strangeSeg e = false →
    let t := (s.frameBooks f p.length).onPort f.port fun x => { x with freed := Tab.modify 0 x.freed f.vc.toNat (· - rxUnits p.length) }
    exec (.coll f p) s = .next (State.streamBooks f clsColl
      (({ t with fabric := { t.fabric with early := t.fabric.early ++ [e] } }).drainEarly, .plain f.last))) ∧
(∀ f p (s : State), f.arg.getLsbD 48 = false → p ≠ [] → (s.ctx f.context.val).coversHbm (f.arg.toNat % 2 ^ 48) p.length = true →
    f.arg.msb = false → (∀ q, (s.ctx f.context.val).program = some q → q.recovery = none) →
    (s.landWrite f p).1.mem = s.mem.write (f.arg.toNat % 2 ^ 48) p ∧ (s.landWrite f p).2 = .plain f.last) ∧
  (∀ f p (s : State), f.arg.getLsbD 48 = false → p ≠ [] → (s.ctx f.context.val).coversHbm (f.arg.toNat % 2 ^ 48) p.length = false →
    s.landWrite f p = (s.badFabricAddr f (f.arg.toNat % 2 ^ 48), .plain f.last)) ∧
  (∀ f (s : State), f.arg.getLsbD 48 = false → f.arg.msb = true → s.holds f.context.val (fieldOf f.arg 62 49) = true →
    s.landWrite f [] = (s, .fence f.context.val (fieldOf f.arg 62 49) f.last))

/-- The frames E2E_ACK, E2E_NACK and ROUTE_UPDATE and the link frames DISCOVER, HOP_NAK, CREDIT and LINK_STATE complete (R253, R257, R259, R262,
R268, R271, R281): a NACK sends the named frames again, a route update is installed and passed on along the ring, a record is noted and
checked while its port is not up, a seventeenth HOP_NAK in a run loses the port, and a change of the far end's lanes is answered and
restriped for. -/
def Obligations.ControlFramesRun : Prop :=
  (∀ f s, frameHere s f 0x20 clsReply 0 = true → exec (.e2eAck f) s = .next (s.frameBooks f 0)) ∧
  (∀ f s, frameHere s f 0x21 clsReply 0 = true →
    exec (.e2eNack f) s = .next ((s.frameBooks f 0).resend (fieldOf f.arg 15 14) f.src.toNat (fieldOf f.arg 63 40) (fieldOf f.arg 39 16))) ∧
  (∀ f l a pl k s, frameHere s f 0x22 clsReply 0 = true → (s.frameBooks f 0).layout? = some l →
    portPlace l f.port.val = some (a, pl, k) → fieldOf f.arg 63 59 = a →
    exec (.routeUpdate f) s = .next (((s.frameBooks f 0).setDetour l a (fieldOf f.arg 58 52) (f.arg.getLsbD 51)).sendRoute l a (!pl) f.arg)) ∧
  (∀ f (bs ts : List Byte) s, linkHere s f [.discovery, .held, .up] = true → badDiscover (bs ++ ts) = false →
    let t := s.hopAcked f.port.val f.hopAck
    let u := (t.onPort f.port.val fun x => x.hear (parseDiscover (bs ++ ts)) t.power.ppsSteps t.now).checkRecord f.port.val (parseDiscover (bs ++ ts))
    ((t.port f.port.val).state = .up → exec (.discover f bs ts) s = .next t) ∧
    ((t.port f.port.val).state ≠ .up →
      exec (.discover f bs ts) s = .next (if (u.port f.port.val).state = .up then u else u.sendDiscover f.port.val))) ∧
  (∀ f s, linkHere s f [.up] = true → f.arg.toNat < 2 ^ 16 →
    let t := ((s.hopAcked f.port.val f.hopAck).hopAcked f.port.val (f.arg.setWidth 16)).onPort f.port.val fun x => { x with fails := x.fails + 1 }
    exec (.hopNak f) s = .next (if 17 ≤ (t.port f.port.val).fails then t.losePort f.port.val
      else t.replayFrom f.port.val (t.port f.port.val).replay)) ∧
  (∀ f (ks : List W32) s, linkHere s f [.discovery, .up] = true → ks.length = 6 →
    exec (.credit f ks) s = .next (((s.hopAcked f.port.val f.hopAck).onPort f.port.val fun x => { x with credits := ks }).pumpOut f.port.val)) ∧
  (∀ f s, linkHere s f [.up] = true → f.arg.toNat < 16 →
    let t := s.hopAcked f.port.val f.hopAck
    let u := t.onPort f.port.val fun x => { x with farGood := f.arg.setWidth 4 }
    (f.arg.setWidth 4 = (t.port f.port.val).farGood → exec (.linkState f) s = .next (u.restripeCommon f.port.val)) ∧
    (f.arg.setWidth 4 ≠ (t.port f.port.val).farGood → exec (.linkState f) s =
      .next ((u.sendLink f.port.val 0x33 ((u.port f.port.val).good.setWidth 64) []).restripeCommon f.port.val)))

/-- PORT_LINK_UP, LANE_DROP, LANE_READMIT, FAR_END_SILENT, PORT_LOST, LINK_UP, VC_SHARE, FCS_ERROR_FRAME, DISCARDED_FRAME and HOP_ACK_INTERVAL
complete (R250 to R253, R256 to R258, R267, R280, R281, R284). -/
def Obligations.PortEventsRun : Prop :=
  (∀ (p : Fin 32) (m : Media) s, s.powered = true → 9 ≤ s.boot.stage → (s.port p.val).state = .down → s.unnamed p.val = false →
    (∀ q, (s.port q).lost = false) →
    ∃ t, exec (.portLinkUp p m) s = .next t ∧ (t.port p.val).media = some m ∧ (m.kind = .other → (t.port p.val).mediaBad = true) ∧
      (t.port p.val).state = (if m.kind = .other then .down else .discovery) ∧ t.mem = s.mem ∧ t.ctxs = s.ctxs) ∧
  (∀ (p : Fin 32) (m : Media) s, s.unnamed p.val = true → exec (.portLinkUp p m) s = .next s) ∧
  (∀ (p : Fin 32) (l : Fin 4) s, (s.port p.val).state = .up → (s.port p.val).good.getLsbD l = true →
    let m := (s.port p.val).good &&& ~~~(1#4 <<< l.val)
    exec (.laneDrop p l) s =
      .next (((s.onPort p.val fun x => { x with good := m }).sendLink p.val 0x33 (m.setWidth 64) []).restripeCommon p.val)) ∧
  (∀ (p : Fin 32) (l : Fin 4) s, (s.port p.val).state = .up → (s.port p.val).good.getLsbD l = false →
    (∀ t, (s.port p.val).readmit = some t → t + 1000000000 ≤ s.upNs) →
    let m := (s.port p.val).good ||| 1#4 <<< l.val
    exec (.laneReadmit p l) s =
      .next ((s.onPort p.val fun x => { x with readmit := some s.upNs, good := m }).sendLink p.val 0x33 (m.setWidth 64) [])) ∧
  (∀ (p : Fin 32) s, (s.port p.val).state = .up ∨ (s.port p.val).state = .discovery ∨ (s.port p.val).state = .held → s.layout? = none →
    ∃ t, exec (.portLost p) s = .next t ∧ exec (.farEndSilent p) s = .next t ∧ (t.port p.val).state = .down ∧ (t.port p.val).lanes = 0 ∧
      (t.port p.val).replay = [] ∧ (t.port p.val).waiting = [] ∧ t.faults.nextSeq = s.faults.nextSeq + 1 ∧ t.mem = s.mem ∧ t.ctxs = s.ctxs) ∧
  (∀ (a : Fin 5) (k : Fin 64) l pl s, s.layout? = some l → s.linkLower l a pl = k.val → s.workingPorts l a pl ≠ [] →
    s.fabric.detours.contains (a.val, k.val) = true →
    exec (.linkUp a k) s = .next
      ((((s.raise 0x13 none unitModule (linkArg a k) 0).setDetour l a k false).sendRoute l a true (routeArg a k false)).sendRoute l a false
        (routeArg a k false))) ∧
  (∀ (p : Fin 32) (v : W32) s, (s.port p.val).state = .down →
    (((List.range 6).map fun k => fieldOf v (4 * k + 3) (4 * k)).all (fun n => decide (2 ≤ n) && decide (n ≤ 14)) = true →
      ((List.range 6).map fun k => fieldOf v (4 * k + 3) (4 * k)).foldl (· + ·) 0 = 24 →
      exec (.vcShare p v) s = .next (s.onPort p.val fun x => { x with vcShare := v &&& 0xFFFFFF })) ∧
    (((List.range 6).map fun k => fieldOf v (4 * k + 3) (4 * k)).foldl (· + ·) 0 ≠ 24 →
      exec (.vcShare p v) s = .next (s.onPort p.val fun x => { x with cfgErr := true }))) ∧
  (∀ (p : Fin 32) s, (s.port p.val).state = .up →
    ∃ t, exec (.fcsErrorFrame p) s = .next t ∧ (t.port p.val).fcsErr = stick (s.port p.val).fcsErr ∧ (t.port p.val).nakOut = true ∧
      .link (BitVec.ofNat 5 p.val).toFin (s.ethHdr p.val) 0x30 (s.port p.val).hopRx ((s.port p.val).hopRx.setWidth 64) [] ∈ t.out ∧
      (t.port p.val).hopRx = (s.port p.val).hopRx ∧ t.mem = s.mem ∧ t.ctxs = s.ctxs) ∧
  (∀ (p : Fin 32) s, (s.port p.val).state = .up →
    exec (.discardedFrame p .pause) s = .next (s.countPort p.val 7 1) ∧ exec (.discardedFrame p .tagged) s = .next (s.countPort p.val 8 1) ∧
    exec (.discardedFrame p .etype) s = .next (s.countPort p.val 8 1)) ∧
  (∀ (p : Fin 32) f n s, (s.port p.val).state = .up → s.carriesFrames = true → f.etype = s.fabric.etype → f.dstMac = s.portMac p.val → f.ver = 1 →
    f.hopSeq = ((s.hopAcked p.val f.hopAck).port p.val).hopRx →
    exec (.discardedFrame p (.badOp f n)) s =
      .next (((s.hopBooks { f with port := p } n).freeUnitsAt p.val f.vc.toNat (rxUnits n)).hdrErr p.val)) ∧
  (∀ (p : Fin 32) s, s.handleLost.pollColls.injectAll = s → (s.port p.val).state = .up → (s.port p.val).ackOwed = true →
    ∃ t, exec (.hopAckInterval p) s = .next t ∧ t = (s.onPort p.val fun x => { x with ackOwed := false }).emit
      (.link (BitVec.ofNat 5 p.val).toFin (s.ethHdr p.val) 0x31 (s.port p.val).hopRx 0 (s.port p.val).granted))

/-- COLLECTIVE_START and DISPATCH_ACCEPT complete (R121, R242, R277, R343): a transfer task starts its messages; the next entry of the
oldest stalled task is taken, and the stall counter starts again. -/
def Obligations.CollectivesRun : Prop :=
  (∀ (c : Fin 64) slot t g s, (s.ctx c.val).grid? slot = some g → s.eligible c.val g t = true → (g.task t).joined = false →
    g.kind = some .xfer → exec (.collectiveStart c slot t) s = .next (s.startXfer c.val slot t (s.mem.task g.desc t))) ∧
  (∀ (a : Fin 192) r d w e es s, (s.array a.val).runs.find? VxuRun.stalls = some r → r.queue = (d, w) :: e :: es →
    exec (.dispatchAccept a) s = .next (((s.acceptEntry r d w).onArray a.val fun y => { y with stalled := 0 }).keepRun a.val
      { r with queue := e :: es, sent := r.sent + 1 })) ∧
  (∀ (a : Fin 192) s, (s.array a.val).runs.find? VxuRun.stalls = none → exec (.dispatchAccept a) s = .next s)

/-! ### The arrays and the VXUs (R70 to R104) -/

/-- PASS_START, PASS_END, SLUICE_HANDOVER, ZREL_CLEAR_DONE and VXU_ISSUE_GROUP complete (R72, R84, R98, R99, R104): a feeding array takes the
pass its scheduler picks; a parity error replays the oldest pass once and the second one stops the array for its test, with one event for
each run that fails; the Sluice takes the hand-over register while it has a free slot; a cleared tile reads zero. A VXU serves the Sluice
first, memory in a sixteenth group, and while a task waits for its collective engine nothing for 16 turns. -/
def Obligations.ArrayPassesRun : Prop :=
  (∀ (a : Fin 192) c g t r b n i s, s.arrayFeeds a = true → (s.countDelays a).pickPass a = some (.task c g t r b n i) →
    exec (.passStart a) s = .next ((s.countDelays a).startRun a c g t r b n i)) ∧
  (∀ (a : Fin 192) p ps s, s.arrayOn a = true → (s.array a.val).passes = p :: ps →
    (∀ n ecc, 0 < n → p.replayed = false → exec (.passEnd a n ecc) s =
      .next ((s.countParityEvents a.val (min p.cols n)).onArray a.val fun x => { x with passes := { p with replayed := true } :: ps })) ∧
    (∀ n ecc, 0 < n → p.replayed = true → ∃ t, exec (.passEnd a n ecc) s = .next t ∧ (t.array a.val).katRun = true ∧
      p ∉ (t.array a.val).passes ∧ t.mem = s.mem) ∧
    (∀ ecc, p.fin = false ∨ (s.array a.val).handover = none → exec (.passEnd a 0 ecc) s = .next (s.endPass a.val p ecc)) ∧
    (∀ ecc, p.fin = true → (s.array a.val).handover ≠ none → exec (.passEnd a 0 ecc) s = .next s)) ∧
  (∀ (a : Fin 192) e s, s.arrayOn a = true → (s.array a.val).slots.length < 8 → (s.array a.val).transfer = [] →
    (s.array a.val).handover = some e →
    exec (.sluiceHandover a) s = .next ((s.onArray a.val fun x => { x with handover := none }).enterSluice a.val e)) ∧
  (∀ (a : Fin 192) (i : Fin 16) s, (Tab.get {} (s.array a.val).tiles i.val).clearing = true →
    exec (.zrelClearDone a i) s = .next (s.onTile a.val i.val fun x => { x with clearing := false, elems := [], seen := [] })) ∧
  (∀ (a : Fin 192) ecc s, s.arrayOn a = true →
    ((s.array a.val).runs.any VxuRun.stalls = false → ∀ e, s.sluiceHead a.val = some e → s.memReady a.val = false ∨ (s.array a.val).memWaited < 15 →
      exec (.vxuIssueGroup a ecc []) s = .next (s.sluiceGroup a.val e ecc)) ∧
    ((s.array a.val).runs.any VxuRun.stalls = false →
      s.sluiceHead a.val = none ∨ (s.memReady a.val = true ∧ 15 ≤ (s.array a.val).memWaited) →
      exec (.vxuIssueGroup a ecc []) s = .next (s.memGroup a.val)) ∧
    ((s.array a.val).runs.any VxuRun.stalls = true → (s.array a.val).stalled < 16 →
      exec (.vxuIssueGroup a ecc []) s = .next (s.onArray a.val fun x => { x with stalled := x.stalled + 1 })) ∧
    ((s.array a.val).runs.any VxuRun.stalls = true → 16 ≤ (s.array a.val).stalled → ∀ e, s.sluiceHead a.val = some e →
      exec (.vxuIssueGroup a ecc []) s = .next (s.sluiceGroup a.val e ecc)))

/-- KAT_DUE, KAT_END, SPARE_CTL, SKEW_TRIM, RUN_KAT, RESUME and RETIRE complete (R85 to R92): a due or asked test is under way until
its end; a pass ends it with the array as it was, a column failure halts the array and is counted; a repair register takes its
writable bits on a drained array, which halts where the two then disagree; a halted array resumes once they agree and a test has passed
since. -/
def Obligations.ArrayRepairRun : Prop :=
  (∀ (a : Fin 192) s, s.arrayOn a = true → (s.array a.val).halted = false →
    exec (.katDue a) s = .next (s.onArray a.val fun x => { x with katRun := true })) ∧
  (∀ (a : Fin 192) s, s.cdRuns (a.val / 24) = true → (s.array a.val).retired = false → (s.array a.val).passes = [] →
    (s.firmware = true → exec (.runKat a) s = .next (s.onArray a.val fun x => { x with katRun := true })) ∧
    ((s.array a.val).katRun = true →
      exec (.katEnd a .pass) s = .next (s.onArray a.val fun x => { x with katRun := false, katPassed := true, fedBy := 0, katNs := s.upNs }) ∧
      ∃ t, exec (.katEnd a .column) s = .next t ∧ (t.array a.val).halted = true ∧ (t.array a.val).katRun = false ∧
        (t.array a.val).katPassed = false ∧ (t.array a.val).katFails = stick (s.array a.val).katFails ∧ t.mem = s.mem)) ∧
  (∀ (a : Fin 192) (v : W32) s, s.firmware = true → (s.array a.val).retired = false → (s.array a.val).passes = [] →
    (∃ t, exec (.spareCtl a v) s = .next t ∧ (t.array a.val).spareCtl = v &&& 0xDFDFDFDF ∧ (t.array a.val).katPassed = false ∧ t.mem = s.mem ∧ t.ctxs = s.ctxs ∧
      ((t.array a.val).halted = true ↔ (s.array a.val).halted = true ∨ trimMismatch (v &&& 0xDFDFDFDF) (s.array a.val).skewTrim = true)) ∧
    ∃ t, exec (.skewTrim a v) s = .next t ∧ (t.array a.val).skewTrim = v &&& 0x9F9F9F9F ∧ t.mem = s.mem ∧ t.ctxs = s.ctxs) ∧
  (∀ (a : Fin 192) s, s.firmware = true → (s.array a.val).retired = false → (s.array a.val).halted = true → (s.array a.val).katRun = false →
    (s.array a.val).katPassed = true → trimMismatch (s.array a.val).spareCtl (s.array a.val).skewTrim = false →
    ∃ t, exec (.resume a) s = .next t ∧ (t.array a.val).halted = false ∧ (t.array a.val).spareCtl = (s.array a.val).spareCtl ∧ t.mem = s.mem) ∧
  (∀ (a : Fin 192) s, (s.array a.val).katPassed = false → exec (.resume a) s = .next s) ∧
  (∀ (a : Fin 192) s, s.firmware = true → (s.array a.val).retired = false → ∃ t, exec (.retire a) s = .next t ∧ t = s.retireArray a.val)

/-! ### The weight update and the statistics (R127 to R135, R191 to R219) -/

/-- STAT_ABSORPTION, BLOCK_UPDATE_START, WRITE_SWEEP_START, BLOCK_COMMIT and LATE_UPDATE complete (R127, R192, R201, R207, R215): each has its
effect where its conditions hold; a block's gradient must have landed whole, an engine takes its blocks in order and sweeps one at a time,
and a late update takes only the slots of the shard's next step. -/
def Obligations.UpdateEventsRun : Prop :=
  (∀ (c : Fin 64) (i b : Nat) x s, s.site? c.val i b = some x → s.fuuRuns (x.q.dieOf x.u) = true →
    s.unitBlock (x.q.dieOf x.u) s.startReady = some (c.val, i, b) →
    exec (.blockUpdateStart c i b) s =
      .next (s.startBlock c.val i x (x.t.step + 1) ((List.range x.n).map fun j => Tab.get 0 x.block.grad j) false)) ∧
  (∀ (c : Fin 64) (i b : Nat) x s, s.site? c.val i b = some x → s.fuuRuns (x.q.dieOf x.u) = true → (s.fuu (x.q.dieOf x.u)).sweep = none →
    s.unitBlock (x.q.dieOf x.u) (fun c _ x => s.sweepReady c x) = some (c.val, i, b) →
    s.checkReads c.val (x.sweepReads (x.t.step + 1)) = .ok →
    s.checkWrite c.val (x.q.wcAt x.u b (x.t.step + 2)) (wcBytes x.q.p.update * x.n) = .ok →
    let t := (s.noteReads (x.sweepReads (x.t.step + 1))).countSweeps (x.q.dieOf x.u) (if x.block.rule = .root ∨ x.block.rule = .damped then 2 else 1) x.n
    exec (.writeSweepStart c i b) s = .next ((t.setBlock c.val i b
      { x.block with phase := .swept, sweep := some (t.mem.sweepBlock x (x.t.step + 1)) }).setFuu (x.q.dieOf x.u)
        { t.fuu (x.q.dieOf x.u) with sweep := some (c.val, i, b), lastCtx := c.val })) ∧
  (∀ (c : Fin 64) (i b : Nat) x r s, s.site? c.val i b = some x → x.block.sweep = some r → x.block.phase = .swept →
    (s.fuu (x.q.dieOf x.u)).sweep = some (c.val, i, b) → s.fuuRuns (x.q.dieOf x.u) = true →
    (s.ctx c.val).state = .running ∨ (s.ctx c.val).state = .holding →
    exec (.blockCommit c i b) s = .next
      (((s.setFuu (x.q.dieOf x.u) { s.fuu (x.q.dieOf x.u) with sweep := none }).commitBlock c.val i x r).closeShard c.val i)) ∧
  (∀ (c : Fin 64) (i : Nat) t g x s, (s.ctx c.val).shards[i]? = some t → t.late.filter (fun g => g.step = t.step + 1) = [g] →
    s.site? c.val i g.block = some x → g.grad.length = x.n → s.fuuRuns (x.q.dieOf x.u) = true → s.mayStart c.val i x g.step = true →
    exec (.lateUpdate c i) s = .next (s.startBlock c.val i x g.step (gradList x.n g.grad) true)) ∧
  (∀ (c : Fin 64) (l e side q : Nat) p k d ms s, (s.ctx c.val).program = some p → (s.ctx c.val).state = .running →
    p.stats.findIdx? (fun d => uLayer d = l && uExpert d = e && !sGrad d) = some k → p.stats[k]? = some d → side < 2 → q < sFactors d side →
    let n := (s.ctx c.val).absorbedStep k side q + 1
    let a := s.statArray c.val ((p.actBlocks.findIdx? fun y => y.1 = k && y.2.2.1 = side && y.2.2.2 = q).getD 0)
    let rs := [(sumAddr d side q, 4 * sBlock d side * sBlock d side), (factorAddr d side q ((n + 1) % 2), sBuffer d side)]
    n ≤ (s.ctx c.val).started → sGroups d ≤ (s.ctx c.val).groupsAdded n k side q → (s.ctx c.val).mayAbsorb k side q n = true →
    s.memberSums c.val d k side q n = some ms → s.cdRuns (a / 24) = true → s.checkReads c.val rs = .ok →
    s.checkWrite c.val (factorAddr d side q (n % 2)) (sBuffer d side) = .ok →
    exec (.statAbsorption c l e side q) s = .next ((s.noteReads rs).absorb c.val (a / 24) d k side q n ms))

/-! ### Event counters (R332, R423) -/

/-- R332, R423: COUNTER_READ with CONTEXT 0xFF returns KCP_DROPS, KCP_BAD_CRC and KCP_DUPLICATES in that order from counter 1 of block 8, and
BURN_MJ, ENERGY_MJ, SHAPE_SHORT_MS and PPS_REJECTS as block 11, unit 0, and changes nothing; they are 64 bits wide and wrap, and a
module reset returns all seven to 0. -/
def Obligations.EventCountersRead : Prop :=
  (∀ h s slot, devReady s h slot 0x0701 = true →
    Runs (.counterRead h 8 0 1 3) s h slot 0x0701 .ok (params64 [s.kcp.drops, s.kcp.badCrc, s.kcp.duplicates]) id ∧
    Runs (.counterRead h 11 0 0 4) s h slot 0x0701 .ok (params64 ((List.range 4).map fun i => Tab.get 0 s.power.counters i)) id) ∧
  (∀ (t : Tab W64) (i n : Nat), Tab.get 0 (Tab.count t i n) i = BitVec.ofNat 64 ((Tab.get 0 t i).toNat + n)) ∧
  (∀ (s : State) (full : Bool), (s.moduleReset full).kcp.drops = 0 ∧ (s.moduleReset full).kcp.badCrc = 0 ∧
    (s.moduleReset full).kcp.duplicates = 0 ∧ ∀ i, Tab.get 0 (s.moduleReset full).power.counters i = 0)

/-! ### The reset pin (R458) -/

/-- R458: a low of at least 10 µs and less than 5 s asks for a module warm reset, which then runs, one of 5 s or more performs a full reset,
as DEV_RESET level 2 does, and a shorter one leaves the state as it was. While the pin is low the module does not start, takes no KCP
packet and does not answer the management bus. During an orderly stop the pin does nothing. -/
def Obligations.ResetPinRule : Prop :=
  (∀ us s, s.powered = true → s.mgmt.resetLow = true → 10 ≤ us → us < 5000000 →
    ∃ t, exec (.resetNRelease us) s = .next t ∧ t = ({ s with mgmt := { s.mgmt with resetLow := false } }).askReset ∧
      ∀ i, s.mem.busy = none → exec (.moduleWarmReset i) t = .next ((t.moduleReset false).bootUp i)) ∧
  (∀ us s, s.powered = true → s.mgmt.resetLow = true → 5000000 ≤ us →
    exec (.resetNRelease us) s = .next (({ s with mgmt := { s.mgmt with resetLow := false } }).moduleReset true)) ∧
  (∀ h s slot, devReady s h slot 0x0106 = true →
    RunsThen (.devReset h 2) s h slot 0x0106 .ok [] id fun t => t.moduleReset true) ∧
  (∀ us s, s.powered = true → s.mgmt.resetLow = false → us < 10 →
    ∃ t, exec .resetNAssert s = .next t ∧ t.mgmt.resetLow = true ∧ exec (.resetNRelease us) t = .next s) ∧
  (∀ s, s.mgmt.resetLow = true →
    (∀ i, exec (.coldBoot i) s = .next s ∧ exec (.moduleWarmReset i) s = .next s) ∧ (∀ p, s.kcpUp p = false) ∧
    (∀ o ws e, exec (.mgmtRegisterWrite o ws e) s = .next s) ∧ (∀ m, exec (.alertCauseClear m) s = .next s) ∧
    (∀ a, exec (.setdasa a) s = .next s ∧ exec (.entdaa a) s = .next s) ∧ exec .rstdaa s = .next s ∧ exec .getstatus s = .next s ∧
    exec .warmReset s = .next s ∧ exec .fullReset s = .next s) ∧
  (∀ us s, s.power.stopCause ≠ none → exec .resetNAssert s = .next s ∧ exec (.resetNRelease us) s = .next s)
end

