-- ==== Sys2Proof/Laws/Dispatch.lean ====
section
/-!
SUPPORT. Each command executes by its own meaning.
-/
namespace Sys2Proof.Machine

open Sys2Proof

@[simp] theorem exec_devInfo h s : exec (.devInfo h) s = execDevInfo h s := rfl
@[simp] theorem exec_devSet h id value s : exec (.devSet h id value) s = execDevSet h id value s := rfl
@[simp] theorem exec_devGet h id s : exec (.devGet h id) s = execDevGet h id s := rfl
@[simp] theorem exec_powerState h value s : exec (.powerState h value) s = execPowerState h value s := rfl
@[simp] theorem exec_regulatorSet h partition rate bucket s : exec (.regulatorSet h partition rate bucket) s = execRegulatorSet h partition rate bucket s := rfl
@[simp] theorem exec_timeSet h seconds s : exec (.timeSet h seconds) s = execTimeSet h seconds s := rfl
@[simp] theorem exec_devReset h level s : exec (.devReset h level) s = execDevReset h level s := rfl
@[simp] theorem exec_ctxCreate h priority partition s : exec (.ctxCreate h priority partition) s = execCtxCreate h priority partition s := rfl
@[simp] theorem exec_ctxDestroy h s : exec (.ctxDestroy h) s = execCtxDestroy h s := rfl
@[simp] theorem exec_ctxQuery h s : exec (.ctxQuery h) s = execCtxQuery h s := rfl
@[simp] theorem exec_ctxPurge h s : exec (.ctxPurge h) s = execCtxPurge h s := rfl
@[simp] theorem exec_ctxPriority h priority s : exec (.ctxPriority h priority) s = execCtxPriority h priority s := rfl
@[simp] theorem exec_memGrant h base bytes s : exec (.memGrant h base bytes) s = execMemGrant h base bytes s := rfl
@[simp] theorem exec_memRelease h region s : exec (.memRelease h region) s = execMemRelease h region s := rfl
@[simp] theorem exec_memWrite h addr data parityErrors s : exec (.memWrite h addr data parityErrors) s = execMemWrite h addr data parityErrors s := rfl
@[simp] theorem exec_memRead h addr bytes parityErrors s : exec (.memRead h addr bytes parityErrors) s = execMemRead h addr bytes parityErrors s := rfl
@[simp] theorem exec_memFill h addr bytes pattern fence s : exec (.memFill h addr bytes pattern fence) s = execMemFill h addr bytes pattern fence s := rfl
@[simp] theorem exec_streamOpen h stream dir addr bytes s : exec (.streamOpen h stream dir addr bytes) s = execStreamOpen h stream dir addr bytes s := rfl
@[simp] theorem exec_streamData h stream offset data s : exec (.streamData h stream offset data) s = execStreamData h stream offset data s := rfl
@[simp] theorem exec_streamClose h stream crc s : exec (.streamClose h stream crc) s = execStreamClose h stream crc s := rfl
@[simp] theorem exec_streamTimeout slot stream s : exec (.streamTimeout slot stream) s = execStreamTimeout slot stream s := rfl
@[simp] theorem exec_cisternAttach h s : exec (.cisternAttach h) s = execCisternAttach h s := rfl
@[simp] theorem exec_shardSet h layer expert firstBlock momentAge b1pow b2pow s : exec (.shardSet h layer expert firstBlock momentAge b1pow b2pow) s = execShardSet h layer expert firstBlock momentAge b1pow b2pow s := rfl
@[simp] theorem exec_cisternPrefetch ctx shard s : exec (.cisternPrefetch ctx shard) s = execCisternPrefetch ctx shard s := rfl
@[simp] theorem exec_progLoad h dir entries s : exec (.progLoad h dir entries) s = execProgLoad h dir entries s := rfl
@[simp] theorem exec_loadDone ctx s : exec (.loadDone ctx) s = execLoadDone ctx s := rfl
@[simp] theorem exec_progUnload h s : exec (.progUnload h) s = execProgUnload h s := rfl
@[simp] theorem exec_progQuery h s : exec (.progQuery h) s = execProgQuery h s := rfl
@[simp] theorem exec_gridSubmit h grid s : exec (.gridSubmit h grid) s = execGridSubmit h grid s := rfl
@[simp] theorem exec_stepRun h count s : exec (.stepRun h count) s = execStepRun h count s := rfl
@[simp] theorem exec_stepHold h atStep s : exec (.stepHold h atStep) s = execStepHold h atStep s := rfl
@[simp] theorem exec_stepQuery h s : exec (.stepQuery h) s = execStepQuery h s := rfl
@[simp] theorem exec_fenceSignal h fence inc s : exec (.fenceSignal h fence inc) s = execFenceSignal h fence inc s := rfl
@[simp] theorem exec_fenceQuery h fence s : exec (.fenceQuery h fence) s = execFenceQuery h fence s := rfl
@[simp] theorem exec_fenceNotify h fence target s : exec (.fenceNotify h fence target) s = execFenceNotify h fence target s := rfl
@[simp] theorem exec_rsCreate h order nblkA pattern memBase memBytes damp mode s : exec (.rsCreate h order nblkA pattern memBase memBytes damp mode) s = execRsCreate h order nblkA pattern memBase memBytes damp mode s := rfl
@[simp] theorem exec_rsDestroy h handle s : exec (.rsDestroy h handle) s = execRsDestroy h handle s := rfl
@[simp] theorem exec_rsFeed h handle bytes src s : exec (.rsFeed h handle bytes src) s = execRsFeed h handle bytes src s := rfl
@[simp] theorem exec_rsFactor h handle fence status s : exec (.rsFactor h handle fence status) s = execRsFactor h handle fence status s := rfl
@[simp] theorem exec_rsSolve h handle flags fence nrhs b x status s : exec (.rsSolve h handle flags fence nrhs b x status) s = execRsSolve h handle flags fence nrhs b x status s := rfl
@[simp] theorem exec_rsQuery h handle s : exec (.rsQuery h handle) s = execRsQuery h handle s := rfl
@[simp] theorem exec_rsGenerationResident handle s : exec (.rsGenerationResident handle) s = execRsGenerationResident handle s := rfl
@[simp] theorem exec_rsWorkComplete handle s : exec (.rsWorkComplete handle) s = execRsWorkComplete handle s := rfl
@[simp] theorem exec_rootConfig h w0 w1 w2 w3 s : exec (.rootConfig h w0 w1 w2 w3) s = execRootConfig h w0 w1 w2 w3 s := rfl
@[simp] theorem exec_rootQuery h layer expert side block s : exec (.rootQuery h layer expert side block) s = execRootQuery h layer expert side block s := rfl
@[simp] theorem exec_counterRead h block unit first count s : exec (.counterRead h block unit first count) s = execCounterRead h block unit first count s := rfl
@[simp] theorem exec_regRead h addr words silent s : exec (.regRead h addr words silent) s = execRegRead h addr words silent s := rfl
@[simp] theorem exec_regClear h addr mask s : exec (.regClear h addr mask) s = execRegClear h addr mask s := rfl
@[simp] theorem exec_captureRead h s : exec (.captureRead h) s = execCaptureRead h s := rfl
@[simp] theorem exec_captureArm h s : exec (.captureArm h) s = execCaptureArm h s := rfl
@[simp] theorem exec_tableRead h table count first s : exec (.tableRead h table count first) s = execTableRead h table count first s := rfl
@[simp] theorem exec_idleRead h s : exec (.idleRead h) s = execIdleRead h s := rfl
@[simp] theorem exec_idleClear h mask s : exec (.idleClear h mask) s = execIdleClear h mask s := rfl
@[simp] theorem exec_eventRead h first count s : exec (.eventRead h first count) s = execEventRead h first count s := rfl
@[simp] theorem exec_snapshotRead h offset bytes s : exec (.snapshotRead h offset bytes) s = execSnapshotRead h offset bytes s := rfl
@[simp] theorem exec_dumpRead h offset bytes s : exec (.dumpRead h offset bytes) s = execDumpRead h offset bytes s := rfl
@[simp] theorem exec_retrainRequest h channel s : exec (.retrainRequest h channel) s = execRetrainRequest h channel s := rfl
@[simp] theorem exec_recoverBegin h s : exec (.recoverBegin h) s = execRecoverBegin h s := rfl
@[simp] theorem exec_recoverReady ctx s : exec (.recoverReady ctx) s = execRecoverReady ctx s := rfl
@[simp] theorem exec_recoverPoint h point s : exec (.recoverPoint h point) s = execRecoverPoint h point s := rfl
@[simp] theorem exec_peerSet h position state tag servedBy s : exec (.peerSet h position state tag servedBy) s = execPeerSet h position state tag servedBy s := rfl
@[simp] theorem exec_spareAssign h position s : exec (.spareAssign h position) s = execSpareAssign h position s := rfl
@[simp] theorem exec_recoverLoad h dir entries point flags s : exec (.recoverLoad h dir entries point flags) s = execRecoverLoad h dir entries point flags s := rfl
@[simp] theorem exec_rebuildQuery h s : exec (.rebuildQuery h) s = execRebuildQuery h s := rfl
@[simp] theorem exec_digestRead h label s : exec (.digestRead h label) s = execDigestRead h label s := rfl
@[simp] theorem exec_divergenceRead h s : exec (.divergenceRead h) s = execDivergenceRead h s := rfl
@[simp] theorem exec_unitReset h unitKind unitIndex s : exec (.unitReset h unitKind unitIndex) s = execUnitReset h unitKind unitIndex s := rfl
@[simp] theorem exec_dieReset h dieKind index s : exec (.dieReset h dieKind index) s = execDieReset h dieKind index s := rfl
@[simp] theorem exec_dumpTake h s : exec (.dumpTake h) s = execDumpTake h s := rfl
@[simp] theorem exec_sessionOpen h challenge sig sigOk s : exec (.sessionOpen h challenge sig sigOk) s = execSessionOpen h challenge sig sigOk s := rfl
@[simp] theorem exec_sessionClose h s : exec (.sessionClose h) s = execSessionClose h s := rfl
@[simp] theorem exec_sessionTimeout slot s : exec (.sessionTimeout slot) s = execSessionTimeout slot s := rfl
@[simp] theorem exec_challengeExpiry addr port s : exec (.challengeExpiry addr port) s = execChallengeExpiry addr port s := rfl
@[simp] theorem exec_hostAck h s : exec (.hostAck h) s = execHostAck h s := rfl
@[simp] theorem exec_d2hResend slot sequence s : exec (.d2hResend slot sequence) s = execD2hResend slot sequence s := rfl
@[simp] theorem exec_identInfo h s : exec (.identInfo h) s = execIdentInfo h s := rfl
@[simp] theorem exec_identKeyRead h s : exec (.identKeyRead h) s = execIdentKeyRead h s := rfl
@[simp] theorem exec_attest h nonce s : exec (.attest h nonce) s = execAttest h nonce s := rfl
@[simp] theorem exec_fwBegin h slot bytes s : exec (.fwBegin h slot bytes) s = execFwBegin h slot bytes s := rfl
@[simp] theorem exec_fwWrite h offset data s : exec (.fwWrite h offset data) s = execFwWrite h offset data s := rfl
@[simp] theorem exec_fwEnd h sigOk s : exec (.fwEnd h sigOk) s = execFwEnd h sigOk s := rfl
@[simp] theorem exec_fwActivate h slot sigOk s : exec (.fwActivate h slot sigOk) s = execFwActivate h slot sigOk s := rfl
@[simp] theorem exec_fwCommit h advance s : exec (.fwCommit h advance) s = execFwCommit h advance s := rfl
@[simp] theorem exec_ownerEnroll h pub s : exec (.ownerEnroll h pub) s = execOwnerEnroll h pub s := rfl
@[simp] theorem exec_ownerReplace h pub sig sigOk s : exec (.ownerReplace h pub sig sigOk) s = execOwnerReplace h pub sig sigOk s := rfl
@[simp] theorem exec_ownerRemove h sig sigOk s : exec (.ownerRemove h sig sigOk) s = execOwnerRemove h sig sigOk s := rfl
@[simp] theorem exec_hostPortLinkUp port common400 lane1 s : exec (.hostPortLinkUp port common400 lane1) s = execHostPortLinkUp port common400 lane1 s := rfl
@[simp] theorem exec_hostPortLaneLoss port lane s : exec (.hostPortLaneLoss port lane) s = execHostPortLaneLoss port lane s := rfl
@[simp] theorem exec_hostPortRetry400G port trained s : exec (.hostPortRetry400G port trained) s = execHostPortRetry400G port trained s := rfl
@[simp] theorem exec_dhcpRenew port addr gateway prefixLen leaseSec s : exec (.dhcpRenew port addr gateway prefixLen leaseSec) s = execDhcpRenew port addr gateway prefixLen leaseSec s := rfl
@[simp] theorem exec_routerAdvertisement port pfx s : exec (.routerAdvertisement port pfx) s = execRouterAdvertisement port pfx s := rfl
@[simp] theorem exec_neighborDiscovery port msg s : exec (.neighborDiscovery port msg) s = execNeighborDiscovery port msg s := rfl
@[simp] theorem exec_arpRequest port target sender s : exec (.arpRequest port target sender) s = execArpRequest port target sender s := rfl
@[simp] theorem exec_icmpEchoRequest port v6 dst src payload s : exec (.icmpEchoRequest port v6 dst src payload) s = execIcmpEchoRequest port v6 dst src payload s := rfl
@[simp] theorem exec_write f payload s : exec (.write f payload) s = execWrite f payload s := rfl
@[simp] theorem exec_readReq f requester length s : exec (.readReq f requester length) s = execReadReq f requester length s := rfl
@[simp] theorem exec_readResp f payload s : exec (.readResp f payload) s = execReadResp f payload s := rfl
@[simp] theorem exec_signal f s : exec (.signal f) s = execSignal f s := rfl
@[simp] theorem exec_dispatch f payload s : exec (.dispatch f payload) s = execDispatch f payload s := rfl
@[simp] theorem exec_delta f payload s : exec (.delta f payload) s = execDelta f payload s := rfl
@[simp] theorem exec_parity f payload s : exec (.parity f payload) s = execParity f payload s := rfl
@[simp] theorem exec_coll f payload s : exec (.coll f payload) s = execColl f payload s := rfl
@[simp] theorem exec_e2eAck f s : exec (.e2eAck f) s = execE2eAck f s := rfl
@[simp] theorem exec_e2eNack f s : exec (.e2eNack f) s = execE2eNack f s := rfl
@[simp] theorem exec_routeUpdate f s : exec (.routeUpdate f) s = execRouteUpdate f s := rfl
@[simp] theorem exec_hopNak f s : exec (.hopNak f) s = execHopNak f s := rfl
@[simp] theorem exec_credit f counts s : exec (.credit f counts) s = execCredit f counts s := rfl
@[simp] theorem exec_discover f record stamps s : exec (.discover f record stamps) s = execDiscover f record stamps s := rfl
@[simp] theorem exec_linkState f s : exec (.linkState f) s = execLinkState f s := rfl
@[simp] theorem exec_fcsErrorFrame port s : exec (.fcsErrorFrame port) s = execFcsErrorFrame port s := rfl
@[simp] theorem exec_discardedFrame port kind s : exec (.discardedFrame port kind) s = execDiscardedFrame port kind s := rfl
@[simp] theorem exec_hopAckInterval port s : exec (.hopAckInterval port) s = execHopAckInterval port s := rfl
@[simp] theorem exec_portLinkUp port media s : exec (.portLinkUp port media) s = execPortLinkUp port media s := rfl
@[simp] theorem exec_laneDrop port lane s : exec (.laneDrop port lane) s = execLaneDrop port lane s := rfl
@[simp] theorem exec_laneReadmit port lane s : exec (.laneReadmit port lane) s = execLaneReadmit port lane s := rfl
@[simp] theorem exec_farEndSilent port s : exec (.farEndSilent port) s = execFarEndSilent port s := rfl
@[simp] theorem exec_portLost port s : exec (.portLost port) s = execPortLost port s := rfl
@[simp] theorem exec_linkUp axis lower s : exec (.linkUp axis lower) s = execLinkUp axis lower s := rfl
@[simp] theorem exec_vcShare port value s : exec (.vcShare port value) s = execVcShare port value s := rfl
@[simp] theorem exec_collectiveStart ctx slot task s : exec (.collectiveStart ctx slot task) s = execCollectiveStart ctx slot task s := rfl
@[simp] theorem exec_stepStart ctx s : exec (.stepStart ctx) s = execStepStart ctx s := rfl
@[simp] theorem exec_stepBoundary ctx s : exec (.stepBoundary ctx) s = execStepBoundary ctx s := rfl
@[simp] theorem exec_taskComplete ctx slot task s : exec (.taskComplete ctx slot task) s = execTaskComplete ctx slot task s := rfl
@[simp] theorem exec_passStart array s : exec (.passStart array) s = execPassStart array s := rfl
@[simp] theorem exec_passEnd array parityErrors ecc s : exec (.passEnd array parityErrors ecc) s = execPassEnd array parityErrors ecc s := rfl
@[simp] theorem exec_sluiceHandover array s : exec (.sluiceHandover array) s = execSluiceHandover array s := rfl
@[simp] theorem exec_vxuIssueGroup vxu ecc parityErrors s : exec (.vxuIssueGroup vxu ecc parityErrors) s = execVxuIssueGroup vxu ecc parityErrors s := rfl
@[simp] theorem exec_zrelClearDone array tile s : exec (.zrelClearDone array tile) s = execZrelClearDone array tile s := rfl
@[simp] theorem exec_dispatchAccept vxu s : exec (.dispatchAccept vxu) s = execDispatchAccept vxu s := rfl
@[simp] theorem exec_katDue array s : exec (.katDue array) s = execKatDue array s := rfl
@[simp] theorem exec_katEnd array result s : exec (.katEnd array result) s = execKatEnd array result s := rfl
@[simp] theorem exec_spareCtl array value s : exec (.spareCtl array value) s = execSpareCtl array value s := rfl
@[simp] theorem exec_skewTrim array value s : exec (.skewTrim array value) s = execSkewTrim array value s := rfl
@[simp] theorem exec_retire array s : exec (.retire array) s = execRetire array s := rfl
@[simp] theorem exec_runKat array s : exec (.runKat array) s = execRunKat array s := rfl
@[simp] theorem exec_resume array s : exec (.resume array) s = execResume array s := rfl
@[simp] theorem exec_statAbsorption ctx layer expert side block s : exec (.statAbsorption ctx layer expert side block) s = execStatAbsorption ctx layer expert side block s := rfl
@[simp] theorem exec_rteJobStart engine s : exec (.rteJobStart engine) s = execRteJobStart engine s := rfl
@[simp] theorem exec_rteProductDrain engine residueError s : exec (.rteProductDrain engine residueError) s = execRteProductDrain engine residueError s := rfl
@[simp] theorem exec_rootPublish engine s : exec (.rootPublish engine) s = execRootPublish engine s := rfl
@[simp] theorem exec_rteFault engine testPassed s : exec (.rteFault engine testPassed) s = execRteFault engine testPassed s := rfl
@[simp] theorem exec_blockUpdateStart ctx shard block s : exec (.blockUpdateStart ctx shard block) s = execBlockUpdateStart ctx shard block s := rfl
@[simp] theorem exec_writeSweepStart ctx shard block s : exec (.writeSweepStart ctx shard block) s = execWriteSweepStart ctx shard block s := rfl
@[simp] theorem exec_blockCommit ctx shard block s : exec (.blockCommit ctx shard block) s = execBlockCommit ctx shard block s := rfl
@[simp] theorem exec_lateUpdate ctx shard s : exec (.lateUpdate ctx shard) s = execLateUpdate ctx shard s := rfl
@[simp] theorem exec_wcbEvict stack s : exec (.wcbEvict stack) s = execWcbEvict stack s := rfl
@[simp] theorem exec_scrubStep channel result s : exec (.scrubStep channel result) s = execScrubStep channel result s := rfl
@[simp] theorem exec_retrainDue channel s : exec (.retrainDue channel) s = execRetrainDue channel s := rfl
@[simp] theorem exec_driftAlarm channel s : exec (.driftAlarm channel) s = execDriftAlarm channel s := rfl
@[simp] theorem exec_retrainStart s : exec .retrainStart s = execRetrainStart s := rfl
@[simp] theorem exec_retrainEnd passed s : exec (.retrainEnd passed) s = execRetrainEnd passed s := rfl
@[simp] theorem exec_channelSilent channel s : exec (.channelSilent channel) s = execChannelSilent channel s := rfl
@[simp] theorem exec_channelFenced channel ceInHour ueInHour s : exec (.channelFenced channel ceInHour ueInHour) s = execChannelFenced channel ceInHour ueInHour s := rfl
@[simp] theorem exec_granuleRelocate channel s : exec (.granuleRelocate channel) s = execGranuleRelocate channel s := rfl
@[simp] theorem exec_contextPurged ctx s : exec (.contextPurged ctx) s = execContextPurged ctx s := rfl
@[simp] theorem exec_purgeUnitTimeout ctx unit confirmLate s : exec (.purgeUnitTimeout ctx unit confirmLate) s = execPurgeUnitTimeout ctx unit confirmLate s := rfl
@[simp] theorem exec_engineReset unit testPassed durationUs s : exec (.engineReset unit testPassed durationUs) s = execEngineReset unit testPassed durationUs s := rfl
@[simp] theorem exec_dieResetComplete die outcome s : exec (.dieResetComplete die outcome) s = execDieResetComplete die outcome s := rfl
@[simp] theorem exec_moduleWarmReset inputs s : exec (.moduleWarmReset inputs) s = execModuleWarmReset inputs s := rfl
@[simp] theorem exec_watchdogExpiry s : exec .watchdogExpiry s = execWatchdogExpiry s := rfl
@[simp] theorem exec_coreRestart cause imageOk s : exec (.coreRestart cause imageOk) s = execCoreRestart cause imageOk s := rfl
@[simp] theorem exec_coreRestartTimeout s : exec .coreRestartTimeout s = execCoreRestartTimeout s := rfl
@[simp] theorem exec_dumpWrite cause sequencerOnly s : exec (.dumpWrite cause sequencerOnly) s = execDumpWrite cause sequencerOnly s := rfl
@[simp] theorem exec_dumpUnitTimeout unitKind unitIndex s : exec (.dumpUnitTimeout unitKind unitIndex) s = execDumpUnitTimeout unitKind unitIndex s := rfl
@[simp] theorem exec_rebuildBlock ctx block s : exec (.rebuildBlock ctx block) s = execRebuildBlock ctx block s := rfl
@[simp] theorem exec_foldSelfCheck ctx s : exec (.foldSelfCheck ctx) s = execFoldSelfCheck ctx s := rfl
@[simp] theorem exec_digestForm ctx s : exec (.digestForm ctx) s = execDigestForm ctx s := rfl
@[simp] theorem exec_digestCompare ctx s : exec (.digestCompare ctx) s = execDigestCompare ctx s := rfl
@[simp] theorem exec_granuleLocalise ctx block s : exec (.granuleLocalise ctx block) s = execGranuleLocalise ctx block s := rfl
@[simp] theorem exec_divergenceRepair ctx s : exec (.divergenceRepair ctx) s = execDivergenceRepair ctx s := rfl
@[simp] theorem exec_inputThrottle vin s : exec (.inputThrottle vin) s = execInputThrottle vin s := rfl
@[simp] theorem exec_inputThrottleEnd vin s : exec (.inputThrottleEnd vin) s = execInputThrottleEnd vin s := rfl
@[simp] theorem exec_inputCut vin s : exec (.inputCut vin) s = execInputCut vin s := rfl
@[simp] theorem exec_inputRecovered vin rideUs s : exec (.inputRecovered vin rideUs) s = execInputRecovered vin rideUs s := rfl
@[simp] theorem exec_surge vinMax durationUs s : exec (.surge vinMax durationUs) s = execSurge vinMax durationUs s := rfl
@[simp] theorem exec_surgeTimeout vinMax s : exec (.surgeTimeout vinMax) s = execSurgeTimeout vinMax s := rfl
@[simp] theorem exec_overVoltage vin s : exec (.overVoltage vin) s = execOverVoltage vin s := rfl
@[simp] theorem exec_holdupExhausted s : exec .holdupExhausted s = execHoldupExhausted s := rfl
@[simp] theorem exec_orderlyStop cause s : exec (.orderlyStop cause) s = execOrderlyStop cause s := rfl
@[simp] theorem exec_holdupMeasure milliJoules s : exec (.holdupMeasure milliJoules) s = execHoldupMeasure milliJoules s := rfl
@[simp] theorem exec_dvfsEvaluate r s : exec (.dvfsEvaluate r) s = execDvfsEvaluate r s := rfl
@[simp] theorem exec_dvfsStep s : exec .dvfsStep s = execDvfsStep s := rfl
@[simp] theorem exec_envelopeUpdate demand pIn maxBurn s : exec (.envelopeUpdate demand pIn maxBurn) s = execEnvelopeUpdate demand pIn maxBurn s := rfl
@[simp] theorem exec_thermalTrip tMax sensor s : exec (.thermalTrip tMax sensor) s = execThermalTrip tMax sensor s := rfl
@[simp] theorem exec_refQualifyWindow edges s : exec (.refQualifyWindow edges) s = execRefQualifyWindow edges s := rfl
@[simp] theorem exec_refQualifyTimeout s : exec .refQualifyTimeout s = execRefQualifyTimeout s := rfl
@[simp] theorem exec_pllLockWindow pll ppmError s : exec (.pllLockWindow pll ppmError) s = execPllLockWindow pll ppmError s := rfl
@[simp] theorem exec_clockFault pll s : exec (.clockFault pll) s = execClockFault pll s := rfl
@[simp] theorem exec_pllRelock n locked s : exec (.pllRelock n locked) s = execPllRelock n locked s := rfl
@[simp] theorem exec_ppsEdge sinceLastNs s : exec (.ppsEdge sinceLastNs) s = execPpsEdge sinceLastNs s := rfl
@[simp] theorem exec_ppsLost s : exec .ppsLost s = execPpsLost s := rfl
@[simp] theorem exec_coldBoot inputs s : exec (.coldBoot inputs) s = execColdBoot inputs s := rfl
@[simp] theorem exec_resetNRelease lowUs s : exec (.resetNRelease lowUs) s = execResetNRelease lowUs s := rfl
@[simp] theorem exec_warmReset s : exec .warmReset s = execWarmReset s := rfl
@[simp] theorem exec_fullReset s : exec .fullReset s = execFullReset s := rfl
@[simp] theorem exec_alertCauseClear mask s : exec (.alertCauseClear mask) s = execAlertCauseClear mask s := rfl
@[simp] theorem exec_erase slot s : exec (.erase slot) s = execErase slot s := rfl
@[simp] theorem exec_program slot unit s : exec (.program slot unit) s = execProgram slot unit s := rfl
@[simp] theorem exec_check slot sigOk s : exec (.check slot sigOk) s = execCheck slot sigOk s := rfl
@[simp] theorem exec_mgmtRegisterWrite offset words tail s : exec (.mgmtRegisterWrite offset words tail) s = execMgmtRegisterWrite offset words tail s := rfl
@[simp] theorem exec_setdasa addr s : exec (.setdasa addr) s = execSetdasa addr s := rfl
@[simp] theorem exec_entdaa addr s : exec (.entdaa addr) s = execEntdaa addr s := rfl
@[simp] theorem exec_rstdaa s : exec .rstdaa s = execRstdaa s := rfl
@[simp] theorem exec_getstatus s : exec .getstatus s = execGetstatus s := rfl
@[simp] theorem exec_idleSaturated ctx cause s : exec (.idleSaturated ctx cause) s = execIdleSaturated ctx cause s := rfl
@[simp] theorem exec_nanosecondFieldWrap s : exec .nanosecondFieldWrap s = execNanosecondFieldWrap s := rfl
@[simp] theorem exec_resetNAssert s : exec .resetNAssert s = execResetNAssert s := rfl
@[simp] theorem exec_stackPhyFailure stack s : exec (.stackPhyFailure stack) s = execStackPhyFailure stack s := rfl
@[simp] theorem exec_inputPowerOverLimit watts s : exec (.inputPowerOverLimit watts) s = execInputPowerOverLimit watts s := rfl
@[simp] theorem exec_kcpPacketDrop port reason s : exec (.kcpPacketDrop port reason) s = execKcpPacketDrop port reason s := rfl

end Sys2Proof.Machine
end

