-- ==== Sys2Proof/Laws/Tab.lean ====
section
/-!
SUPPORT. The laws of sparse tables and of byte memory: a read after a write, what a write leaves, and that every operation keeps
the canonical form.
-/
namespace Sys2Proof.Machine

variable {α : Type}

/-! ### Reading a table -/

@[simp] theorem Tab.find?_nil (i : Nat) : Tab.find? ([] : Tab α) i = none := rfl

theorem Tab.find?_cons (k : Nat) (v : α) (t : Tab α) (i : Nat) :
    Tab.find? ((k, v) :: t) i = if k = i then some v else Tab.find? t i := rfl

/-- A read after a write to the same index gives the value written. -/
@[simp] theorem Tab.find?_put (t : Tab α) (i : Nat) (v : α) : Tab.find? (Tab.put t i v) i = some v := by
  induction t with
  | nil => simp [Tab.put, Tab.find?]
  | cons e r ih =>
    obtain ⟨k, w⟩ := e
    unfold Tab.put
    split
    · simp [Tab.find?]
    · split
      · simp [Tab.find?]
      · simp [Tab.find?, ih]; omega

/-- A write leaves every other index. -/
theorem Tab.find?_put_ne (t : Tab α) {i j : Nat} (v : α) (h : j ≠ i) : Tab.find? (Tab.put t i v) j = Tab.find? t j := by
  induction t with
  | nil => simp [Tab.put, Tab.find?]; omega
  | cons e r ih =>
    obtain ⟨k, w⟩ := e
    unfold Tab.put
    split
    · simp only [Tab.find?]; rw [if_neg (Ne.symm h)]
    · split
      · rename_i h1; subst h1
        simp only [Tab.find?]; rw [if_neg (Ne.symm h), if_neg (Ne.symm h)]
      · simp only [Tab.find?, ih]

@[simp] theorem Tab.get_put (d : α) (t : Tab α) (i : Nat) (v : α) : Tab.get d (Tab.put t i v) i = v := by simp [Tab.get]

theorem Tab.get_put_ne (d : α) (t : Tab α) {i j : Nat} (v : α) (h : j ≠ i) : Tab.get d (Tab.put t i v) j = Tab.get d t j := by
  simp [Tab.get, Tab.find?_put_ne t v h]

/-- A write of one index, read at another. -/
theorem Tab.get_put_of (d : α) (t : Tab α) (i j : Nat) (v : α) :
    Tab.get d (Tab.put t i v) j = if j = i then v else Tab.get d t j := by
  split
  · next h => subst h; simp
  · next h => exact Tab.get_put_ne d t v h

@[simp] theorem Tab.get_modify (d : α) (t : Tab α) (i : Nat) (f : α → α) : Tab.get d (Tab.modify d t i f) i = f (Tab.get d t i) := by
  simp [Tab.modify]

theorem Tab.get_modify_ne (d : α) (t : Tab α) {i j : Nat} (f : α → α) (h : j ≠ i) :
    Tab.get d (Tab.modify d t i f) j = Tab.get d t j := by simp [Tab.modify, Tab.get_put_ne d t _ h]

@[simp] theorem Tab.find?_drop (t : Tab α) (i : Nat) : Tab.find? (Tab.drop t i) i = none := by
  induction t with
  | nil => rfl
  | cons e r ih =>
    obtain ⟨k, w⟩ := e
    unfold Tab.drop at ih ⊢
    rw [List.filter_cons]
    split
    · rename_i h; simp only [decide_eq_true_eq] at h; simp only [Tab.find?, if_neg h]; exact ih
    · exact ih

theorem Tab.find?_drop_ne (t : Tab α) {i j : Nat} (h : j ≠ i) : Tab.find? (Tab.drop t i) j = Tab.find? t j := by
  induction t with
  | nil => rfl
  | cons e r ih =>
    obtain ⟨k, w⟩ := e
    unfold Tab.drop at ih ⊢
    rw [List.filter_cons]
    split
    · simp only [Tab.find?]; rw [ih]
    · rename_i h1
      have hk : k = i := by simpa using h1
      rw [ih]; simp only [Tab.find?]; rw [if_neg (by omega)]

/-- A value that a table lists. -/
theorem Tab.mem_of_find? {t : Tab α} {i : Nat} {v : α} (h : Tab.find? t i = some v) : (i, v) ∈ t := by
  induction t with
  | nil => simp [Tab.find?] at h
  | cons e r ih =>
    obtain ⟨k, w⟩ := e
    unfold Tab.find? at h
    split at h
    · rename_i hk; injection h with h; subst hk h; exact List.mem_cons_self ..
    · exact List.mem_cons_of_mem _ (ih h)

theorem Tab.find?_mapAll (t : Tab α) (f : Nat → α → α) (i : Nat) : Tab.find? (Tab.mapAll t f) i = (Tab.find? t i).map (f i) := by
  induction t with
  | nil => rfl
  | cons e r ih =>
    obtain ⟨k, w⟩ := e
    simp only [Tab.mapAll, List.map_cons, Tab.find?] at ih ⊢
    split
    · rename_i h; subst h; rfl
    · exact ih

/-- What an entry of a written table is. -/
theorem Tab.mem_put {t : Tab α} {i : Nat} {v : α} {e : Nat × α} (h : e ∈ Tab.put t i v) : e = (i, v) ∨ e ∈ t := by
  induction t with
  | nil => simpa [Tab.put] using h
  | cons x r ih =>
    obtain ⟨k, w⟩ := x
    unfold Tab.put at h
    split at h
    · simpa using h
    · split at h
      · simp only [List.mem_cons] at h ⊢; rcases h with h | h <;> simp [h]
      · simp only [List.mem_cons] at h ⊢
        rcases h with h | h
        · simp [h]
        · rcases ih h with h | h <;> simp [h]

/-! ### The canonical form of a table -/

theorem Tab.wf_cons (k : Nat) (v : α) (t : Tab α) :
    Tab.wf ((k, v) :: t) = true ↔ (∀ e ∈ t, k < e.1) ∧ Tab.wf t = true := by
  simp [Tab.wf, List.all_eq_true]

theorem Tab.wf_put {t : Tab α} (h : Tab.wf t = true) (i : Nat) (v : α) : Tab.wf (Tab.put t i v) = true := by
  induction t with
  | nil => simp [Tab.put, Tab.wf]
  | cons e r ih =>
    obtain ⟨k, w⟩ := e
    obtain ⟨h1, h2⟩ := (Tab.wf_cons k w r).1 h
    unfold Tab.put
    split
    · rename_i hi
      refine (Tab.wf_cons ..).2 ⟨?_, h⟩
      intro e he
      rcases List.mem_cons.1 he with rfl | he
      · exact hi
      · have := h1 e he; omega
    · split
      · rename_i hk; subst hk; exact (Tab.wf_cons ..).2 ⟨h1, h2⟩
      · refine (Tab.wf_cons ..).2 ⟨?_, ih h2⟩
        intro e he
        rcases Tab.mem_put he with rfl | he
        · show k < i; omega
        · exact h1 e he

theorem Tab.wf_filter {t : Tab α} (h : Tab.wf t = true) (p : Nat × α → Bool) : Tab.wf (List.filter p t) = true := by
  induction t with
  | nil => rfl
  | cons e r ih =>
    obtain ⟨k, w⟩ := e
    obtain ⟨h1, h2⟩ := (Tab.wf_cons k w r).1 h
    rw [List.filter_cons]
    split
    · exact (Tab.wf_cons ..).2 ⟨fun e he => h1 e (List.mem_filter.1 he).1, ih h2⟩
    · exact ih h2

theorem Tab.wf_drop {t : Tab α} (h : Tab.wf t = true) (i : Nat) : Tab.wf (Tab.drop t i) = true := Tab.wf_filter h _

/-- The indices of a canonical table do not repeat. -/
theorem Tab.nodup_of_wf {t : Tab α} (h : Tab.wf t = true) : (List.map Prod.fst t).Nodup := by
  induction t with
  | nil => exact List.nodup_nil
  | cons e r ih =>
    obtain ⟨k, w⟩ := e
    obtain ⟨h1, h2⟩ := (Tab.wf_cons k w r).1 h
    refine List.nodup_cons.2 ⟨?_, ih h2⟩
    intro hm
    obtain ⟨e, he, hk⟩ := List.mem_map.1 hm
    have h3 := h1 e he
    rw [hk] at h3
    exact absurd h3 (Nat.lt_irrefl _)

/-! ### Byte memory -/

/-- A read after a write to the same address gives the byte written. -/
@[simp] theorem Memory.byte_write (m : Memory) (a : Nat) (b : Byte) : Memory.byte (Memory.write m a b) a = b := by
  unfold Memory.byte Memory.write
  split
  · next h => subst h; simp [Tab.get]
  · simp

/-- A write leaves every other address. -/
theorem Memory.byte_write_ne (m : Memory) {a x : Nat} (b : Byte) (h : x ≠ a) : Memory.byte (Memory.write m a b) x = Memory.byte m x := by
  unfold Memory.byte Memory.write
  split
  · simp [Tab.get, Tab.find?_drop_ne m h]
  · exact Tab.get_put_ne 0 m b h

theorem Memory.wf_write {m : Memory} (h : Memory.wf m = true) (a : Nat) (b : Byte) : Memory.wf (Memory.write m a b) = true := by
  simp only [Memory.wf, Bool.and_eq_true, List.all_eq_true, decide_eq_true_eq] at h ⊢
  unfold Memory.write
  split
  · exact ⟨Tab.wf_drop h.1 a, fun e he => h.2 e (List.mem_filter.1 he).1⟩
  · next hb =>
    refine ⟨Tab.wf_put h.1 a b, fun e he => ?_⟩
    rcases Tab.mem_put he with rfl | he
    · exact hb
    · exact h.2 e he

theorem Memory.wf_filter {m : Memory} (h : Memory.wf m = true) (p : Nat × Byte → Bool) : Memory.wf (List.filter p m) = true := by
  simp only [Memory.wf, Bool.and_eq_true, List.all_eq_true, decide_eq_true_eq] at h ⊢
  exact ⟨Tab.wf_filter h.1 p, fun e he => h.2 e (List.mem_filter.1 he).1⟩

theorem Memory.wf_writes {m : Memory} (h : Memory.wf m = true) (a : Nat) (bs : List Byte) : Memory.wf (Memory.writes m a bs) = true := by
  induction bs generalizing m a with
  | nil => exact h
  | cons b r ih => exact ih (Memory.wf_write h a b) (a + 1)

theorem Memory.wf_clear {m : Memory} (h : Memory.wf m = true) (a n : Nat) : Memory.wf (Memory.clear m a n) = true :=
  Memory.wf_filter h _

/-- What a write of consecutive bytes leaves outside them. -/
theorem Memory.byte_writes_ne (m : Memory) (a : Nat) (bs : List Byte) {x : Nat} (h : x < a ∨ a + bs.length ≤ x) :
    Memory.byte (Memory.writes m a bs) x = Memory.byte m x := by
  induction bs generalizing m a with
  | nil => rfl
  | cons b r ih =>
    rw [List.length_cons] at h
    exact (ih _ (a + 1) (by omega)).trans (Memory.byte_write_ne m b (by omega))

/-- What a write of consecutive bytes puts there. -/
theorem Memory.byte_writes (m : Memory) (a : Nat) (bs : List Byte) {i : Nat} {b : Byte} (h : bs[i]? = some b) :
    Memory.byte (Memory.writes m a bs) (a + i) = b := by
  induction bs generalizing m a i with
  | nil => simp at h
  | cons c r ih =>
    cases i with
    | zero =>
      have hc : c = b := by simpa using h
      subst hc
      exact (Memory.byte_writes_ne _ (a + 1) r (by omega)).trans (Memory.byte_write m a c)
    | succ i =>
      have := ih (Memory.write m a c) (a + 1) (by simpa using h)
      rw [show a + (i + 1) = a + 1 + i by omega]
      exact this

end Sys2Proof.Machine
end

