-- ==== Sys2Proof/Laws/Event.lean ====
section
/-!
SUPPORT. What raising an event and answering a packet can do: the log grows, sessions and what leaves the module change, and nothing else.
-/
namespace Sys2Proof.Machine

open Sys2Proof

/-- `t` is `s` but for the sessions and what leaves the module. -/
def State.Spoke (s t : State) : Prop := ∃ ss o, t = { s with kcp := { s.kcp with sessions := ss }, out := o }

theorem State.Spoke.refl (s : State) : s.Spoke s := ⟨_, _, rfl⟩
theorem State.Spoke.trans {s t u : State} (h : s.Spoke t) (g : t.Spoke u) : s.Spoke u := by
  obtain ⟨a, b, rfl⟩ := h; obtain ⟨c, d, rfl⟩ := g; exact ⟨c, d, rfl⟩
theorem State.Spoke.foldl {α : Type} (f : State → α → State) (hf : ∀ (s : State) a, s.Spoke (f s a)) (l : List α) : ∀ s : State, s.Spoke (l.foldl f s) := by
  induction l with
  | nil => exact fun s => .refl s
  | cons a r ih => exact fun s => (hf s a).trans (ih _)

theorem State.spoke_setSession (s : State) (k : Nat) (x : Session) : s.Spoke (s.setSession k x) := ⟨_, _, rfl⟩
theorem State.spoke_emit (s : State) (o : Out) : s.Spoke (s.emit o) := ⟨_, _, rfl⟩
theorem State.spoke_sendReply (s : State) (r : Reply) : s.Spoke (s.sendReply r) := by
  unfold State.sendReply; split
  · exact s.spoke_emit _
  · exact .refl s
theorem State.spoke_notify (s : State) (k : Nat) (op : W16) (c : BitVec 8) (ps : List Byte) : s.Spoke (s.notify k op c ps) := by
  unfold State.notify; split
  · exact .refl s
  · dsimp only; split
    · split
      · exact (s.spoke_setSession _ _).trans (State.spoke_emit _ _)
      · exact s.spoke_setSession _ _
    · exact s.spoke_setSession _ _
theorem State.spoke_notifyAll (s : State) (op : W16) (c : BitVec 8) (ps : List Byte) : s.Spoke (s.notifyAll op c ps) :=
  State.Spoke.foldl (fun s (e : Nat × Session) => s.notify e.1 op c ps) (fun s e => s.spoke_notify e.1 op c ps) s.kcp.sessions s
theorem State.spoke_answer (s : State) (k : Nat) (h : KcpHdr) (op : W16) (st : Status) (ps : List Byte) : s.Spoke (s.answer k h op st ps) := by
  unfold State.answer; dsimp only; split
  · exact s.spoke_sendReply _
  · exact (s.spoke_setSession _ _).trans (State.spoke_sendReply _ _)

/-- The event that `raise` records. -/
def State.eventOf (s : State) (code : Nat) (ctx : Option Nat) (u : EventUnit) (arg : W64) (aux : W32) (fw : Bool) : Event :=
  { seq := s.faults.nextSeq, code := BitVec.ofNat 16 code, cls := eventClass code fw, ctx := ctx, unitKind := u.kind, unitIndex := u.index
    aux := aux, time := s.now, arg := arg }

/-- Raising an event: its record joins the log, which keeps the newest 65,536, the next SEQ grows, and sessions are told. -/
theorem State.spoke_raise (s : State) (code : Nat) (ctx : Option Nat) (u : EventUnit) (arg : W64) (aux : W32) (fw : Bool) :
    State.Spoke { s with faults := { s.faults with
      log := (s.faults.log ++ [s.eventOf code ctx u arg aux fw]).drop ((s.faults.log ++ [s.eventOf code ctx u arg aux fw]).length - 65536)
      nextSeq := s.faults.nextSeq + 1 } } (s.raise code ctx u arg aux fw) :=
  State.spoke_notifyAll _ _ _ _

/-! ### What stays -/

theorem State.Spoke.ctx {s t : State} (h : s.Spoke t) (c : Nat) : t.ctx c = s.ctx c := by obtain ⟨_, _, rfl⟩ := h; rfl
theorem State.Spoke.port {s t : State} (h : s.Spoke t) (p : Nat) : t.port p = s.port p := by obtain ⟨_, _, rfl⟩ := h; rfl
theorem State.Spoke.array {s t : State} (h : s.Spoke t) (n : Nat) : t.array n = s.array n := by obtain ⟨_, _, rfl⟩ := h; rfl
theorem State.Spoke.rte {s t : State} (h : s.Spoke t) (n : Nat) : t.rte n = s.rte n := by obtain ⟨_, _, rfl⟩ := h; rfl
theorem State.Spoke.pending {s t : State} (h : s.Spoke t) : t.pending = s.pending := by obtain ⟨_, _, rfl⟩ := h; rfl
theorem State.Spoke.free {s t : State} (h : s.Spoke t) : t.free = s.free := by obtain ⟨_, _, rfl⟩ := h; rfl
theorem State.Spoke.ctxs {s t : State} (h : s.Spoke t) : t.ctxs = s.ctxs := by obtain ⟨_, _, rfl⟩ := h; rfl
theorem State.Spoke.fences {s t : State} (h : s.Spoke t) : t.fences = s.fences := by obtain ⟨_, _, rfl⟩ := h; rfl
theorem State.Spoke.arrays {s t : State} (h : s.Spoke t) : t.arrays = s.arrays := by obtain ⟨_, _, rfl⟩ := h; rfl
theorem State.Spoke.mem {s t : State} (h : s.Spoke t) : t.mem = s.mem := by obtain ⟨_, _, rfl⟩ := h; rfl
theorem State.Spoke.fabric {s t : State} (h : s.Spoke t) : t.fabric = s.fabric := by obtain ⟨_, _, rfl⟩ := h; rfl
theorem State.Spoke.rtes {s t : State} (h : s.Spoke t) : t.rtes = s.rtes := by obtain ⟨_, _, rfl⟩ := h; rfl
theorem State.Spoke.structs {s t : State} (h : s.Spoke t) : t.structs = s.structs := by obtain ⟨_, _, rfl⟩ := h; rfl
theorem State.Spoke.fuus {s t : State} (h : s.Spoke t) : t.fuus = s.fuus := by obtain ⟨_, _, rfl⟩ := h; rfl
theorem State.Spoke.lnt {s t : State} (h : s.Spoke t) : t.lnt = s.lnt := by obtain ⟨_, _, rfl⟩ := h; rfl
theorem State.Spoke.power {s t : State} (h : s.Spoke t) : t.power = s.power := by obtain ⟨_, _, rfl⟩ := h; rfl
theorem State.Spoke.boot {s t : State} (h : s.Spoke t) : t.boot = s.boot := by obtain ⟨_, _, rfl⟩ := h; rfl
theorem State.Spoke.mgmt {s t : State} (h : s.Spoke t) : t.mgmt = s.mgmt := by obtain ⟨_, _, rfl⟩ := h; rfl
theorem State.Spoke.faults {s t : State} (h : s.Spoke t) : t.faults = s.faults := by obtain ⟨_, _, rfl⟩ := h; rfl

/-! ### sendReply -/

@[simp] theorem State.sendReply_pending (s : State) (r : Reply) : (s.sendReply r).pending = s.pending := (s.spoke_sendReply r).pending
@[simp] theorem State.sendReply_free (s : State) (r : Reply) : (s.sendReply r).free = s.free := (s.spoke_sendReply r).free
@[simp] theorem State.sendReply_ctxs (s : State) (r : Reply) : (s.sendReply r).ctxs = s.ctxs := (s.spoke_sendReply r).ctxs
@[simp] theorem State.sendReply_fences (s : State) (r : Reply) : (s.sendReply r).fences = s.fences := (s.spoke_sendReply r).fences
@[simp] theorem State.sendReply_arrays (s : State) (r : Reply) : (s.sendReply r).arrays = s.arrays := (s.spoke_sendReply r).arrays
@[simp] theorem State.sendReply_mem (s : State) (r : Reply) : (s.sendReply r).mem = s.mem := (s.spoke_sendReply r).mem
@[simp] theorem State.sendReply_fabric (s : State) (r : Reply) : (s.sendReply r).fabric = s.fabric := (s.spoke_sendReply r).fabric
@[simp] theorem State.sendReply_rtes (s : State) (r : Reply) : (s.sendReply r).rtes = s.rtes := (s.spoke_sendReply r).rtes
@[simp] theorem State.sendReply_structs (s : State) (r : Reply) : (s.sendReply r).structs = s.structs := (s.spoke_sendReply r).structs
@[simp] theorem State.sendReply_fuus (s : State) (r : Reply) : (s.sendReply r).fuus = s.fuus := (s.spoke_sendReply r).fuus
@[simp] theorem State.sendReply_lnt (s : State) (r : Reply) : (s.sendReply r).lnt = s.lnt := (s.spoke_sendReply r).lnt
@[simp] theorem State.sendReply_power (s : State) (r : Reply) : (s.sendReply r).power = s.power := (s.spoke_sendReply r).power
@[simp] theorem State.sendReply_boot (s : State) (r : Reply) : (s.sendReply r).boot = s.boot := (s.spoke_sendReply r).boot
@[simp] theorem State.sendReply_mgmt (s : State) (r : Reply) : (s.sendReply r).mgmt = s.mgmt := (s.spoke_sendReply r).mgmt
@[simp] theorem State.sendReply_faults (s : State) (r : Reply) : (s.sendReply r).faults = s.faults := (s.spoke_sendReply r).faults
@[simp] theorem State.sendReply_ctx (s : State) (r : Reply) (c' : Nat) : (s.sendReply r).ctx c' = s.ctx c' := (s.spoke_sendReply r).ctx c'
@[simp] theorem State.sendReply_port (s : State) (r : Reply) (p : Nat) : (s.sendReply r).port p = s.port p := (s.spoke_sendReply r).port p
@[simp] theorem State.sendReply_array (s : State) (r : Reply) (i : Nat) : (s.sendReply r).array i = s.array i := (s.spoke_sendReply r).array i
@[simp] theorem State.sendReply_rte (s : State) (r : Reply) (i : Nat) : (s.sendReply r).rte i = s.rte i := (s.spoke_sendReply r).rte i

/-! ### notify -/

@[simp] theorem State.notify_pending (s : State) (k : Nat) (op : W16) (c : BitVec 8) (ps : List Byte) : (s.notify k op c ps).pending = s.pending := (s.spoke_notify k op c ps).pending
@[simp] theorem State.notify_free (s : State) (k : Nat) (op : W16) (c : BitVec 8) (ps : List Byte) : (s.notify k op c ps).free = s.free := (s.spoke_notify k op c ps).free
@[simp] theorem State.notify_ctxs (s : State) (k : Nat) (op : W16) (c : BitVec 8) (ps : List Byte) : (s.notify k op c ps).ctxs = s.ctxs := (s.spoke_notify k op c ps).ctxs
@[simp] theorem State.notify_fences (s : State) (k : Nat) (op : W16) (c : BitVec 8) (ps : List Byte) : (s.notify k op c ps).fences = s.fences := (s.spoke_notify k op c ps).fences
@[simp] theorem State.notify_arrays (s : State) (k : Nat) (op : W16) (c : BitVec 8) (ps : List Byte) : (s.notify k op c ps).arrays = s.arrays := (s.spoke_notify k op c ps).arrays
@[simp] theorem State.notify_mem (s : State) (k : Nat) (op : W16) (c : BitVec 8) (ps : List Byte) : (s.notify k op c ps).mem = s.mem := (s.spoke_notify k op c ps).mem
@[simp] theorem State.notify_fabric (s : State) (k : Nat) (op : W16) (c : BitVec 8) (ps : List Byte) : (s.notify k op c ps).fabric = s.fabric := (s.spoke_notify k op c ps).fabric
@[simp] theorem State.notify_rtes (s : State) (k : Nat) (op : W16) (c : BitVec 8) (ps : List Byte) : (s.notify k op c ps).rtes = s.rtes := (s.spoke_notify k op c ps).rtes
@[simp] theorem State.notify_structs (s : State) (k : Nat) (op : W16) (c : BitVec 8) (ps : List Byte) : (s.notify k op c ps).structs = s.structs := (s.spoke_notify k op c ps).structs
@[simp] theorem State.notify_fuus (s : State) (k : Nat) (op : W16) (c : BitVec 8) (ps : List Byte) : (s.notify k op c ps).fuus = s.fuus := (s.spoke_notify k op c ps).fuus
@[simp] theorem State.notify_lnt (s : State) (k : Nat) (op : W16) (c : BitVec 8) (ps : List Byte) : (s.notify k op c ps).lnt = s.lnt := (s.spoke_notify k op c ps).lnt
@[simp] theorem State.notify_power (s : State) (k : Nat) (op : W16) (c : BitVec 8) (ps : List Byte) : (s.notify k op c ps).power = s.power := (s.spoke_notify k op c ps).power
@[simp] theorem State.notify_boot (s : State) (k : Nat) (op : W16) (c : BitVec 8) (ps : List Byte) : (s.notify k op c ps).boot = s.boot := (s.spoke_notify k op c ps).boot
@[simp] theorem State.notify_mgmt (s : State) (k : Nat) (op : W16) (c : BitVec 8) (ps : List Byte) : (s.notify k op c ps).mgmt = s.mgmt := (s.spoke_notify k op c ps).mgmt
@[simp] theorem State.notify_faults (s : State) (k : Nat) (op : W16) (c : BitVec 8) (ps : List Byte) : (s.notify k op c ps).faults = s.faults := (s.spoke_notify k op c ps).faults
@[simp] theorem State.notify_ctx (s : State) (k : Nat) (op : W16) (c : BitVec 8) (ps : List Byte) (c' : Nat) : (s.notify k op c ps).ctx c' = s.ctx c' := (s.spoke_notify k op c ps).ctx c'
@[simp] theorem State.notify_port (s : State) (k : Nat) (op : W16) (c : BitVec 8) (ps : List Byte) (p : Nat) : (s.notify k op c ps).port p = s.port p := (s.spoke_notify k op c ps).port p
@[simp] theorem State.notify_array (s : State) (k : Nat) (op : W16) (c : BitVec 8) (ps : List Byte) (i : Nat) : (s.notify k op c ps).array i = s.array i := (s.spoke_notify k op c ps).array i
@[simp] theorem State.notify_rte (s : State) (k : Nat) (op : W16) (c : BitVec 8) (ps : List Byte) (i : Nat) : (s.notify k op c ps).rte i = s.rte i := (s.spoke_notify k op c ps).rte i

/-! ### notifyAll -/

@[simp] theorem State.notifyAll_pending (s : State) (op : W16) (c : BitVec 8) (ps : List Byte) : (s.notifyAll op c ps).pending = s.pending := (s.spoke_notifyAll op c ps).pending
@[simp] theorem State.notifyAll_free (s : State) (op : W16) (c : BitVec 8) (ps : List Byte) : (s.notifyAll op c ps).free = s.free := (s.spoke_notifyAll op c ps).free
@[simp] theorem State.notifyAll_ctxs (s : State) (op : W16) (c : BitVec 8) (ps : List Byte) : (s.notifyAll op c ps).ctxs = s.ctxs := (s.spoke_notifyAll op c ps).ctxs
@[simp] theorem State.notifyAll_fences (s : State) (op : W16) (c : BitVec 8) (ps : List Byte) : (s.notifyAll op c ps).fences = s.fences := (s.spoke_notifyAll op c ps).fences
@[simp] theorem State.notifyAll_arrays (s : State) (op : W16) (c : BitVec 8) (ps : List Byte) : (s.notifyAll op c ps).arrays = s.arrays := (s.spoke_notifyAll op c ps).arrays
@[simp] theorem State.notifyAll_mem (s : State) (op : W16) (c : BitVec 8) (ps : List Byte) : (s.notifyAll op c ps).mem = s.mem := (s.spoke_notifyAll op c ps).mem
@[simp] theorem State.notifyAll_fabric (s : State) (op : W16) (c : BitVec 8) (ps : List Byte) : (s.notifyAll op c ps).fabric = s.fabric := (s.spoke_notifyAll op c ps).fabric
@[simp] theorem State.notifyAll_rtes (s : State) (op : W16) (c : BitVec 8) (ps : List Byte) : (s.notifyAll op c ps).rtes = s.rtes := (s.spoke_notifyAll op c ps).rtes
@[simp] theorem State.notifyAll_structs (s : State) (op : W16) (c : BitVec 8) (ps : List Byte) : (s.notifyAll op c ps).structs = s.structs := (s.spoke_notifyAll op c ps).structs
@[simp] theorem State.notifyAll_fuus (s : State) (op : W16) (c : BitVec 8) (ps : List Byte) : (s.notifyAll op c ps).fuus = s.fuus := (s.spoke_notifyAll op c ps).fuus
@[simp] theorem State.notifyAll_lnt (s : State) (op : W16) (c : BitVec 8) (ps : List Byte) : (s.notifyAll op c ps).lnt = s.lnt := (s.spoke_notifyAll op c ps).lnt
@[simp] theorem State.notifyAll_power (s : State) (op : W16) (c : BitVec 8) (ps : List Byte) : (s.notifyAll op c ps).power = s.power := (s.spoke_notifyAll op c ps).power
@[simp] theorem State.notifyAll_boot (s : State) (op : W16) (c : BitVec 8) (ps : List Byte) : (s.notifyAll op c ps).boot = s.boot := (s.spoke_notifyAll op c ps).boot
@[simp] theorem State.notifyAll_mgmt (s : State) (op : W16) (c : BitVec 8) (ps : List Byte) : (s.notifyAll op c ps).mgmt = s.mgmt := (s.spoke_notifyAll op c ps).mgmt
@[simp] theorem State.notifyAll_faults (s : State) (op : W16) (c : BitVec 8) (ps : List Byte) : (s.notifyAll op c ps).faults = s.faults := (s.spoke_notifyAll op c ps).faults
@[simp] theorem State.notifyAll_ctx (s : State) (op : W16) (c : BitVec 8) (ps : List Byte) (c' : Nat) : (s.notifyAll op c ps).ctx c' = s.ctx c' := (s.spoke_notifyAll op c ps).ctx c'
@[simp] theorem State.notifyAll_port (s : State) (op : W16) (c : BitVec 8) (ps : List Byte) (p : Nat) : (s.notifyAll op c ps).port p = s.port p := (s.spoke_notifyAll op c ps).port p
@[simp] theorem State.notifyAll_array (s : State) (op : W16) (c : BitVec 8) (ps : List Byte) (i : Nat) : (s.notifyAll op c ps).array i = s.array i := (s.spoke_notifyAll op c ps).array i
@[simp] theorem State.notifyAll_rte (s : State) (op : W16) (c : BitVec 8) (ps : List Byte) (i : Nat) : (s.notifyAll op c ps).rte i = s.rte i := (s.spoke_notifyAll op c ps).rte i

/-! ### answer -/

@[simp] theorem State.answer_pending (s : State) (k : Nat) (h : KcpHdr) (op : W16) (st : Status) (ps : List Byte) : (s.answer k h op st ps).pending = s.pending := (s.spoke_answer k h op st ps).pending
@[simp] theorem State.answer_free (s : State) (k : Nat) (h : KcpHdr) (op : W16) (st : Status) (ps : List Byte) : (s.answer k h op st ps).free = s.free := (s.spoke_answer k h op st ps).free
@[simp] theorem State.answer_ctxs (s : State) (k : Nat) (h : KcpHdr) (op : W16) (st : Status) (ps : List Byte) : (s.answer k h op st ps).ctxs = s.ctxs := (s.spoke_answer k h op st ps).ctxs
@[simp] theorem State.answer_fences (s : State) (k : Nat) (h : KcpHdr) (op : W16) (st : Status) (ps : List Byte) : (s.answer k h op st ps).fences = s.fences := (s.spoke_answer k h op st ps).fences
@[simp] theorem State.answer_arrays (s : State) (k : Nat) (h : KcpHdr) (op : W16) (st : Status) (ps : List Byte) : (s.answer k h op st ps).arrays = s.arrays := (s.spoke_answer k h op st ps).arrays
@[simp] theorem State.answer_mem (s : State) (k : Nat) (h : KcpHdr) (op : W16) (st : Status) (ps : List Byte) : (s.answer k h op st ps).mem = s.mem := (s.spoke_answer k h op st ps).mem
@[simp] theorem State.answer_fabric (s : State) (k : Nat) (h : KcpHdr) (op : W16) (st : Status) (ps : List Byte) : (s.answer k h op st ps).fabric = s.fabric := (s.spoke_answer k h op st ps).fabric
@[simp] theorem State.answer_rtes (s : State) (k : Nat) (h : KcpHdr) (op : W16) (st : Status) (ps : List Byte) : (s.answer k h op st ps).rtes = s.rtes := (s.spoke_answer k h op st ps).rtes
@[simp] theorem State.answer_structs (s : State) (k : Nat) (h : KcpHdr) (op : W16) (st : Status) (ps : List Byte) : (s.answer k h op st ps).structs = s.structs := (s.spoke_answer k h op st ps).structs
@[simp] theorem State.answer_fuus (s : State) (k : Nat) (h : KcpHdr) (op : W16) (st : Status) (ps : List Byte) : (s.answer k h op st ps).fuus = s.fuus := (s.spoke_answer k h op st ps).fuus
@[simp] theorem State.answer_lnt (s : State) (k : Nat) (h : KcpHdr) (op : W16) (st : Status) (ps : List Byte) : (s.answer k h op st ps).lnt = s.lnt := (s.spoke_answer k h op st ps).lnt
@[simp] theorem State.answer_power (s : State) (k : Nat) (h : KcpHdr) (op : W16) (st : Status) (ps : List Byte) : (s.answer k h op st ps).power = s.power := (s.spoke_answer k h op st ps).power
@[simp] theorem State.answer_boot (s : State) (k : Nat) (h : KcpHdr) (op : W16) (st : Status) (ps : List Byte) : (s.answer k h op st ps).boot = s.boot := (s.spoke_answer k h op st ps).boot
@[simp] theorem State.answer_mgmt (s : State) (k : Nat) (h : KcpHdr) (op : W16) (st : Status) (ps : List Byte) : (s.answer k h op st ps).mgmt = s.mgmt := (s.spoke_answer k h op st ps).mgmt
@[simp] theorem State.answer_faults (s : State) (k : Nat) (h : KcpHdr) (op : W16) (st : Status) (ps : List Byte) : (s.answer k h op st ps).faults = s.faults := (s.spoke_answer k h op st ps).faults
@[simp] theorem State.answer_ctx (s : State) (k : Nat) (h : KcpHdr) (op : W16) (st : Status) (ps : List Byte) (c' : Nat) : (s.answer k h op st ps).ctx c' = s.ctx c' := (s.spoke_answer k h op st ps).ctx c'
@[simp] theorem State.answer_port (s : State) (k : Nat) (h : KcpHdr) (op : W16) (st : Status) (ps : List Byte) (p : Nat) : (s.answer k h op st ps).port p = s.port p := (s.spoke_answer k h op st ps).port p
@[simp] theorem State.answer_array (s : State) (k : Nat) (h : KcpHdr) (op : W16) (st : Status) (ps : List Byte) (i : Nat) : (s.answer k h op st ps).array i = s.array i := (s.spoke_answer k h op st ps).array i
@[simp] theorem State.answer_rte (s : State) (k : Nat) (h : KcpHdr) (op : W16) (st : Status) (ps : List Byte) (i : Nat) : (s.answer k h op st ps).rte i = s.rte i := (s.spoke_answer k h op st ps).rte i

/-! ### raise -/

@[simp] theorem State.raise_pending (s : State) (code : Nat) (ctx : Option Nat) (u : EventUnit) (arg : W64) (aux : W32) (fw : Bool) : (s.raise code ctx u arg aux fw).pending = s.pending := (s.spoke_raise code ctx u arg aux fw).pending
@[simp] theorem State.raise_free (s : State) (code : Nat) (ctx : Option Nat) (u : EventUnit) (arg : W64) (aux : W32) (fw : Bool) : (s.raise code ctx u arg aux fw).free = s.free := (s.spoke_raise code ctx u arg aux fw).free
@[simp] theorem State.raise_ctxs (s : State) (code : Nat) (ctx : Option Nat) (u : EventUnit) (arg : W64) (aux : W32) (fw : Bool) : (s.raise code ctx u arg aux fw).ctxs = s.ctxs := (s.spoke_raise code ctx u arg aux fw).ctxs
@[simp] theorem State.raise_fences (s : State) (code : Nat) (ctx : Option Nat) (u : EventUnit) (arg : W64) (aux : W32) (fw : Bool) : (s.raise code ctx u arg aux fw).fences = s.fences := (s.spoke_raise code ctx u arg aux fw).fences
@[simp] theorem State.raise_arrays (s : State) (code : Nat) (ctx : Option Nat) (u : EventUnit) (arg : W64) (aux : W32) (fw : Bool) : (s.raise code ctx u arg aux fw).arrays = s.arrays := (s.spoke_raise code ctx u arg aux fw).arrays
@[simp] theorem State.raise_mem (s : State) (code : Nat) (ctx : Option Nat) (u : EventUnit) (arg : W64) (aux : W32) (fw : Bool) : (s.raise code ctx u arg aux fw).mem = s.mem := (s.spoke_raise code ctx u arg aux fw).mem
@[simp] theorem State.raise_fabric (s : State) (code : Nat) (ctx : Option Nat) (u : EventUnit) (arg : W64) (aux : W32) (fw : Bool) : (s.raise code ctx u arg aux fw).fabric = s.fabric := (s.spoke_raise code ctx u arg aux fw).fabric
@[simp] theorem State.raise_rtes (s : State) (code : Nat) (ctx : Option Nat) (u : EventUnit) (arg : W64) (aux : W32) (fw : Bool) : (s.raise code ctx u arg aux fw).rtes = s.rtes := (s.spoke_raise code ctx u arg aux fw).rtes
@[simp] theorem State.raise_structs (s : State) (code : Nat) (ctx : Option Nat) (u : EventUnit) (arg : W64) (aux : W32) (fw : Bool) : (s.raise code ctx u arg aux fw).structs = s.structs := (s.spoke_raise code ctx u arg aux fw).structs
@[simp] theorem State.raise_fuus (s : State) (code : Nat) (ctx : Option Nat) (u : EventUnit) (arg : W64) (aux : W32) (fw : Bool) : (s.raise code ctx u arg aux fw).fuus = s.fuus := (s.spoke_raise code ctx u arg aux fw).fuus
@[simp] theorem State.raise_lnt (s : State) (code : Nat) (ctx : Option Nat) (u : EventUnit) (arg : W64) (aux : W32) (fw : Bool) : (s.raise code ctx u arg aux fw).lnt = s.lnt := (s.spoke_raise code ctx u arg aux fw).lnt
@[simp] theorem State.raise_power (s : State) (code : Nat) (ctx : Option Nat) (u : EventUnit) (arg : W64) (aux : W32) (fw : Bool) : (s.raise code ctx u arg aux fw).power = s.power := (s.spoke_raise code ctx u arg aux fw).power
@[simp] theorem State.raise_boot (s : State) (code : Nat) (ctx : Option Nat) (u : EventUnit) (arg : W64) (aux : W32) (fw : Bool) : (s.raise code ctx u arg aux fw).boot = s.boot := (s.spoke_raise code ctx u arg aux fw).boot
@[simp] theorem State.raise_mgmt (s : State) (code : Nat) (ctx : Option Nat) (u : EventUnit) (arg : W64) (aux : W32) (fw : Bool) : (s.raise code ctx u arg aux fw).mgmt = s.mgmt := (s.spoke_raise code ctx u arg aux fw).mgmt
@[simp] theorem State.raise_ctx (s : State) (code : Nat) (ctx : Option Nat) (u : EventUnit) (arg : W64) (aux : W32) (fw : Bool) (c : Nat) : (s.raise code ctx u arg aux fw).ctx c = s.ctx c := by
  simp only [State.ctx, State.raise_ctxs]
@[simp] theorem State.raise_port (s : State) (code : Nat) (ctx : Option Nat) (u : EventUnit) (arg : W64) (aux : W32) (fw : Bool) (p : Nat) : (s.raise code ctx u arg aux fw).port p = s.port p := by
  simp only [State.port, State.raise_fabric]
@[simp] theorem State.raise_array (s : State) (code : Nat) (ctx : Option Nat) (u : EventUnit) (arg : W64) (aux : W32) (fw : Bool) (i : Nat) : (s.raise code ctx u arg aux fw).array i = s.array i := by
  simp only [State.array, State.raise_arrays]
@[simp] theorem State.raise_rte (s : State) (code : Nat) (ctx : Option Nat) (u : EventUnit) (arg : W64) (aux : W32) (fw : Bool) (i : Nat) : (s.raise code ctx u arg aux fw).rte i = s.rte i := by
  simp only [State.rte, State.raise_rtes]
theorem State.raise_faults (s : State) (code : Nat) (ctx : Option Nat) (u : EventUnit) (arg : W64) (aux : W32) (fw : Bool) :
    (s.raise code ctx u arg aux fw).faults = { s.faults with
      log := (s.faults.log ++ [s.eventOf code ctx u arg aux fw]).drop ((s.faults.log ++ [s.eventOf code ctx u arg aux fw]).length - 65536)
      nextSeq := s.faults.nextSeq + 1 } := (s.spoke_raise code ctx u arg aux fw).faults
@[simp] theorem State.raise_nextSeq (s : State) (code : Nat) (ctx : Option Nat) (u : EventUnit) (arg : W64) (aux : W32) (fw : Bool) : (s.raise code ctx u arg aux fw).faults.nextSeq = s.faults.nextSeq + 1 := by
  rw [s.raise_faults]
@[simp] theorem State.raise_coreUp (s : State) (code : Nat) (ctx : Option Nat) (u : EventUnit) (arg : W64) (aux : W32) (fw : Bool) : (s.raise code ctx u arg aux fw).faults.coreUp = s.faults.coreUp := by
  rw [s.raise_faults]
@[simp] theorem State.raise_engines (s : State) (code : Nat) (ctx : Option Nat) (u : EventUnit) (arg : W64) (aux : W32) (fw : Bool) : (s.raise code ctx u arg aux fw).faults.engines = s.faults.engines := by
  rw [s.raise_faults]
@[simp] theorem State.raise_dies (s : State) (code : Nat) (ctx : Option Nat) (u : EventUnit) (arg : W64) (aux : W32) (fw : Bool) : (s.raise code ctx u arg aux fw).faults.dies = s.faults.dies := by
  rw [s.raise_faults]
@[simp] theorem State.raise_resetAsked (s : State) (code : Nat) (ctx : Option Nat) (u : EventUnit) (arg : W64) (aux : W32) (fw : Bool) : (s.raise code ctx u arg aux fw).faults.resetAsked = s.faults.resetAsked := by
  rw [s.raise_faults]
@[simp] theorem State.raise_restart (s : State) (code : Nat) (ctx : Option Nat) (u : EventUnit) (arg : W64) (aux : W32) (fw : Bool) : (s.raise code ctx u arg aux fw).faults.restart = s.faults.restart := by
  rw [s.raise_faults]
@[simp] theorem State.raise_dump (s : State) (code : Nat) (ctx : Option Nat) (u : EventUnit) (arg : W64) (aux : W32) (fw : Bool) : (s.raise code ctx u arg aux fw).faults.dump = s.faults.dump := by
  rw [s.raise_faults]
@[simp] theorem State.raise_dumps (s : State) (code : Nat) (ctx : Option Nat) (u : EventUnit) (arg : W64) (aux : W32) (fw : Bool) : (s.raise code ctx u arg aux fw).faults.dumps = s.faults.dumps := by
  rw [s.raise_faults]
@[simp] theorem State.raise_counters (s : State) (code : Nat) (ctx : Option Nat) (u : EventUnit) (arg : W64) (aux : W32) (fw : Bool) : (s.raise code ctx u arg aux fw).faults.counters = s.faults.counters := by
  rw [s.raise_faults]

/-! ### stuck -/

@[simp] theorem State.stuck_pending (s : State) (old addr lsb : Nat) : (s.stuck old addr lsb).pending = s.pending := by
  unfold State.stuck; split <;> simp
@[simp] theorem State.stuck_free (s : State) (old addr lsb : Nat) : (s.stuck old addr lsb).free = s.free := by
  unfold State.stuck; split <;> simp
@[simp] theorem State.stuck_ctxs (s : State) (old addr lsb : Nat) : (s.stuck old addr lsb).ctxs = s.ctxs := by
  unfold State.stuck; split <;> simp
@[simp] theorem State.stuck_fences (s : State) (old addr lsb : Nat) : (s.stuck old addr lsb).fences = s.fences := by
  unfold State.stuck; split <;> simp
@[simp] theorem State.stuck_arrays (s : State) (old addr lsb : Nat) : (s.stuck old addr lsb).arrays = s.arrays := by
  unfold State.stuck; split <;> simp
@[simp] theorem State.stuck_mem (s : State) (old addr lsb : Nat) : (s.stuck old addr lsb).mem = s.mem := by
  unfold State.stuck; split <;> simp
@[simp] theorem State.stuck_fabric (s : State) (old addr lsb : Nat) : (s.stuck old addr lsb).fabric = s.fabric := by
  unfold State.stuck; split <;> simp
@[simp] theorem State.stuck_rtes (s : State) (old addr lsb : Nat) : (s.stuck old addr lsb).rtes = s.rtes := by
  unfold State.stuck; split <;> simp
@[simp] theorem State.stuck_structs (s : State) (old addr lsb : Nat) : (s.stuck old addr lsb).structs = s.structs := by
  unfold State.stuck; split <;> simp
@[simp] theorem State.stuck_fuus (s : State) (old addr lsb : Nat) : (s.stuck old addr lsb).fuus = s.fuus := by
  unfold State.stuck; split <;> simp
@[simp] theorem State.stuck_lnt (s : State) (old addr lsb : Nat) : (s.stuck old addr lsb).lnt = s.lnt := by
  unfold State.stuck; split <;> simp
@[simp] theorem State.stuck_power (s : State) (old addr lsb : Nat) : (s.stuck old addr lsb).power = s.power := by
  unfold State.stuck; split <;> simp
@[simp] theorem State.stuck_boot (s : State) (old addr lsb : Nat) : (s.stuck old addr lsb).boot = s.boot := by
  unfold State.stuck; split <;> simp
@[simp] theorem State.stuck_mgmt (s : State) (old addr lsb : Nat) : (s.stuck old addr lsb).mgmt = s.mgmt := by
  unfold State.stuck; split <;> simp
@[simp] theorem State.stuck_ctx (s : State) (old addr lsb c : Nat) : (s.stuck old addr lsb).ctx c = s.ctx c := by
  unfold State.stuck; split <;> simp
@[simp] theorem State.stuck_port (s : State) (old addr lsb p : Nat) : (s.stuck old addr lsb).port p = s.port p := by
  unfold State.stuck; split <;> simp
@[simp] theorem State.stuck_array (s : State) (old addr lsb i : Nat) : (s.stuck old addr lsb).array i = s.array i := by
  unfold State.stuck; split <;> simp
@[simp] theorem State.stuck_rte (s : State) (old addr lsb i : Nat) : (s.stuck old addr lsb).rte i = s.rte i := by
  unfold State.stuck; split <;> simp
@[simp] theorem State.stuck_coreUp (s : State) (old addr lsb : Nat) : (s.stuck old addr lsb).faults.coreUp = s.faults.coreUp := by
  unfold State.stuck; split <;> simp
@[simp] theorem State.stuck_engines (s : State) (old addr lsb : Nat) : (s.stuck old addr lsb).faults.engines = s.faults.engines := by
  unfold State.stuck; split <;> simp
@[simp] theorem State.stuck_dies (s : State) (old addr lsb : Nat) : (s.stuck old addr lsb).faults.dies = s.faults.dies := by
  unfold State.stuck; split <;> simp
@[simp] theorem State.stuck_resetAsked (s : State) (old addr lsb : Nat) : (s.stuck old addr lsb).faults.resetAsked = s.faults.resetAsked := by
  unfold State.stuck; split <;> simp
@[simp] theorem State.stuck_restart (s : State) (old addr lsb : Nat) : (s.stuck old addr lsb).faults.restart = s.faults.restart := by
  unfold State.stuck; split <;> simp
@[simp] theorem State.stuck_dump (s : State) (old addr lsb : Nat) : (s.stuck old addr lsb).faults.dump = s.faults.dump := by
  unfold State.stuck; split <;> simp

end Sys2Proof.Machine
end

