-- ==== Sys2Proof/Laws/Kcp.lean ====
section
/-!
SUPPORT. What a KCP command can do: a command that is next is executed, and one whose checks all pass has its effect.
-/
namespace Sys2Proof.Machine

open Sys2Proof

/-- A packet that is next in its session reaches the status checks. -/
theorem KcpCmd.arrive_of_next (k : KcpCmd) (self : Instr) (h : KcpHdr) (s : State) (slot : Nat) (hn : s.kcpNext h slot = true) :
    k.arrive self h s = k.run h slot s := by
  simp only [State.kcpNext, Bool.and_eq_true, Bool.not_eq_true', decide_eq_true_eq] at hn
  obtain ⟨⟨⟨hu, hb⟩, hs⟩, hx⟩ := hn
  cases hy : s.session? slot with
  | none => simp [hy] at hx
  | some x =>
    have he : h.sequence = x.expected := by simpa [hy] using hx
    simp [KcpCmd.arrive, hu, hb, hs, hy, KcpCmd.sequence, seqPlace, he]

/-- Checks that all pass give no refusal. -/
theorem verdict_eq_none {cs : List Check} (hc : ∀ c ∈ cs, c.1 = false) : verdict cs = none := by
  unfold verdict
  induction cs with
  | nil => rfl
  | cons c r ih =>
    have h1 : c.1 = false := hc c (by simp)
    simp only [List.foldl_cons, h1]
    exact ih fun d hd => hc d (by simp [hd])

/-- A command all of whose checks pass has its effect, and its reply is sent. -/
theorem KcpCmd.run_of_ok (k : KcpCmd) (h : KcpHdr) (slot : Nat) (s : State) (hv : k.verdict h (s.take slot h) = none) :
    k.run h slot s = k.after ((k.effect (s.take slot h)).st.answer slot h k.opcode (k.effect (s.take slot h)).status
      (k.effect (s.take slot h)).params) := by
  simp [KcpCmd.run, hv]

/-! ### The session's books touch nothing but the session -/

@[simp] theorem State.take_ctxs (s : State) (slot : Nat) (h : KcpHdr) : (s.take slot h).ctxs = s.ctxs := by
  unfold State.take; split <;> rfl
@[simp] theorem State.take_mem (s : State) (slot : Nat) (h : KcpHdr) : (s.take slot h).mem = s.mem := by
  unfold State.take; split <;> rfl
@[simp] theorem State.take_boot (s : State) (slot : Nat) (h : KcpHdr) : (s.take slot h).boot = s.boot := by
  unfold State.take; split <;> rfl
@[simp] theorem State.take_power (s : State) (slot : Nat) (h : KcpHdr) : (s.take slot h).power = s.power := by
  unfold State.take; split <;> rfl
@[simp] theorem State.take_faults (s : State) (slot : Nat) (h : KcpHdr) : (s.take slot h).faults = s.faults := by
  unfold State.take; split <;> rfl
@[simp] theorem State.take_fabric (s : State) (slot : Nat) (h : KcpHdr) : (s.take slot h).fabric = s.fabric := by
  unfold State.take; split <;> rfl
@[simp] theorem State.take_arrays (s : State) (slot : Nat) (h : KcpHdr) : (s.take slot h).arrays = s.arrays := by
  unfold State.take; split <;> rfl
@[simp] theorem State.take_rtes (s : State) (slot : Nat) (h : KcpHdr) : (s.take slot h).rtes = s.rtes := by
  unfold State.take; split <;> rfl
@[simp] theorem State.take_fuus (s : State) (slot : Nat) (h : KcpHdr) : (s.take slot h).fuus = s.fuus := by
  unfold State.take; split <;> rfl
@[simp] theorem State.take_structs (s : State) (slot : Nat) (h : KcpHdr) : (s.take slot h).structs = s.structs := by
  unfold State.take; split <;> rfl
@[simp] theorem State.take_fences (s : State) (slot : Nat) (h : KcpHdr) : (s.take slot h).fences = s.fences := by
  unfold State.take; split <;> rfl
@[simp] theorem State.take_out (s : State) (slot : Nat) (h : KcpHdr) : (s.take slot h).out = s.out := by
  unfold State.take; split <;> rfl
@[simp] theorem State.take_free (s : State) (slot : Nat) (h : KcpHdr) : (s.take slot h).free = s.free := by
  unfold State.take; split <;> rfl
@[simp] theorem State.take_mgmt (s : State) (slot : Nat) (h : KcpHdr) : (s.take slot h).mgmt = s.mgmt := by
  unfold State.take; split <;> rfl
@[simp] theorem State.take_lnt (s : State) (slot : Nat) (h : KcpHdr) : (s.take slot h).lnt = s.lnt := by
  unfold State.take; split <;> rfl
@[simp] theorem State.take_settings (s : State) (slot : Nat) (h : KcpHdr) : (s.take slot h).kcp.settings = s.kcp.settings := by
  unfold State.take; split <;> rfl
@[simp] theorem State.take_challenges (s : State) (slot : Nat) (h : KcpHdr) : (s.take slot h).kcp.challenges = s.kcp.challenges := by
  unfold State.take; split <;> rfl
@[simp] theorem State.take_ctx (s : State) (slot : Nat) (h : KcpHdr) (c : Nat) : (s.take slot h).ctx c = s.ctx c := by
  simp [State.ctx]
@[simp] theorem State.take_sleeps (s : State) (slot : Nat) (h : KcpHdr) (op : W16) : (s.take slot h).sleeps op = s.sleeps op := by
  simp [State.sleeps]

/-- What `kcpReady` says of the common checks. -/
theorem KcpCmd.common_ok (k : KcpCmd) (h : KcpHdr) (s : State) (hr : h.reserved = false) (hl : h.badLen = false)
    (hd : (k.need ≠ .ctx ∧ h.context = 0xFF) ∨
      (k.need ≠ .none ∧ h.context.toNat < 64 ∧ stateGate (s.ctx h.context.toNat).state k.cls = none)) :
    ∀ c ∈ k.common h s, c.1 = false := by
  intro c hc
  rcases hd with ⟨hn, hx⟩ | ⟨hn, hx, hg⟩
  · have : h.context.toNat = 255 := by rw [hx]; rfl
    simp [KcpCmd.common, this, hr, hl] at hc
    rcases hc with rfl | rfl <;> simp [hn]
  · simp [KcpCmd.common, hx, hg, hr, hl] at hc
    have : h.context.toNat ≠ 255 := by omega
    rcases hc with rfl | rfl
    · simp [hn, this]
    · simp; omega

/-- A ready device command whose own checks pass executes. -/
theorem KcpCmd.arrive_dev (k : KcpCmd) (self : Instr) (h : KcpHdr) (s : State) (slot : Nat) (hr : devReady s h slot k.opcode = true)
    (hn : k.need ≠ .ctx) (hc : ∀ c ∈ k.checks (s.take slot h), c.1 = false) :
    k.arrive self h s = k.after ((k.effect (s.take slot h)).st.answer slot h k.opcode (k.effect (s.take slot h)).status
      (k.effect (s.take slot h)).params) := by
  simp only [devReady, kcpReady, Bool.and_eq_true, Bool.not_eq_true', decide_eq_true_eq] at hr
  obtain ⟨⟨⟨⟨h1, h2⟩, h3⟩, h4⟩, h5⟩ := hr
  rw [k.arrive_of_next self h s slot h1, k.run_of_ok]
  apply verdict_eq_none
  intro c hm
  simp only [List.mem_append, List.mem_singleton] at hm
  rcases hm with (hm | rfl) | hm
  · exact k.common_ok h _ h2 h3 (.inl ⟨hn, h5⟩) c hm
  · simpa using h4
  · exact hc c hm

/-- A ready command that names a context, in a state that accepts it, executes when its own checks pass. -/
theorem KcpCmd.arrive_ctx (k : KcpCmd) (self : Instr) (h : KcpHdr) (s : State) (slot : Nat) (sts : List CtxState)
    (hr : ctxReady s h slot k.opcode sts = true) (hn : k.need ≠ .none) (hg : ∀ st ∈ sts, stateGate st k.cls = none)
    (hc : ∀ c ∈ k.checks (s.take slot h), c.1 = false) :
    k.arrive self h s = k.after ((k.effect (s.take slot h)).st.answer slot h k.opcode (k.effect (s.take slot h)).status
      (k.effect (s.take slot h)).params) := by
  simp only [ctxReady, kcpReady, Bool.and_eq_true, Bool.not_eq_true', decide_eq_true_eq, List.contains_iff_mem] at hr
  obtain ⟨⟨⟨⟨⟨h1, h2⟩, h3⟩, h4⟩, h5⟩, h6⟩ := hr
  rw [k.arrive_of_next self h s slot h1, k.run_of_ok]
  apply verdict_eq_none
  intro c hm
  simp only [List.mem_append, List.mem_singleton] at hm
  rcases hm with (hm | rfl) | hm
  · refine k.common_ok h _ h2 h3 (.inr ⟨hn, h5, ?_⟩) c hm
    rw [State.take_ctx]
    exact hg _ h6
  · simpa using h4
  · exact hc c hm

/-- `KcpCmd.arrive_dev` for a command written out. -/
theorem KcpCmd.arrive_dev_mk {op : W16} {need : CtxNeed} {cls : CmdClass} {checks : State → List Check} {effect : State → KcpDone}
    {after : State → State} (self : Instr) (h : KcpHdr) (s : State) (slot : Nat) (hr : devReady s h slot op = true) (hn : need ≠ .ctx)
    (hc : ∀ c ∈ checks (s.take slot h), c.1 = false) :
    KcpCmd.arrive { opcode := op, need := need, cls := cls, checks := checks, effect := effect, after := after } self h s =
      after ((effect (s.take slot h)).st.answer slot h op (effect (s.take slot h)).status (effect (s.take slot h)).params) :=
  KcpCmd.arrive_dev _ self h s slot hr hn hc

/-- `KcpCmd.arrive_ctx` for a command written out. -/
theorem KcpCmd.arrive_ctx_mk {op : W16} {need : CtxNeed} {cls : CmdClass} {checks : State → List Check} {effect : State → KcpDone}
    {after : State → State} (self : Instr) (h : KcpHdr) (s : State) (slot : Nat) (sts : List CtxState)
    (hr : ctxReady s h slot op sts = true) (hn : need ≠ .none) (hg : ∀ st ∈ sts, stateGate st cls = none)
    (hc : ∀ c ∈ checks (s.take slot h), c.1 = false) :
    KcpCmd.arrive { opcode := op, need := need, cls := cls, checks := checks, effect := effect, after := after } self h s =
      after ((effect (s.take slot h)).st.answer slot h op (effect (s.take slot h)).status (effect (s.take slot h)).params) :=
  KcpCmd.arrive_ctx _ self h s slot sts hr hn hg hc

end Sys2Proof.Machine
end

