-- ==== Sys2Proof/Laws/Mem.lean ====
section
/-!
SUPPORT. Device memory: what each operation on it can do to the bytes that readers see, to the canonical form of the bytes and to
the form of the write-combining buffers.
-/
namespace Sys2Proof.Machine

open Sys2Proof

/-! ### Lists of offsets and bytes -/

/-- The listed bytes as a table of offsets. -/
theorem lookup_eq_find? (l : List (Nat × Byte)) (k : Nat) : l.lookup k = Tab.find? l k := by
  induction l with
  | nil => rfl
  | cons e r ih =>
    obtain ⟨j, b⟩ := e
    simp only [List.lookup, Tab.find?]
    by_cases h : j = k
    · subst h; simp
    · have : (k == j) = false := by simp; omega
      rw [this, if_neg h]; exact ih

/-- Writing listed bytes at a base leaves an address that none of them names. -/
theorem Memory.byte_foldl_ne (l : List (Nat × Byte)) (m : Memory) (base x : Nat) (h : ∀ e ∈ l, base + e.1 ≠ x) :
    Memory.byte (l.foldl (fun y e => Memory.write y (base + e.1) e.2) m) x = Memory.byte m x := by
  induction l generalizing m with
  | nil => rfl
  | cons e r ih =>
    rw [List.foldl_cons, ih _ fun e he => h e (List.mem_cons_of_mem _ he)]
    exact Memory.byte_write_ne m e.2 (Ne.symm (h e (List.mem_cons_self ..)))

/-- Writing listed bytes at a base puts each of them at its place. -/
theorem Memory.byte_foldl (l : List (Nat × Byte)) (hn : (l.map Prod.fst).Nodup) (m : Memory) (base k : Nat) (b : Byte)
    (h : l.lookup k = some b) : Memory.byte (l.foldl (fun y e => Memory.write y (base + e.1) e.2) m) (base + k) = b := by
  induction l generalizing m with
  | nil => simp at h
  | cons e r ih =>
    obtain ⟨j, c⟩ := e
    rw [List.map_cons, List.nodup_cons] at hn
    rw [List.foldl_cons]
    simp only [List.lookup] at h
    by_cases hj : k = j
    · subst hj
      have hc : c = b := by simpa using h
      subst hc
      rw [Memory.byte_foldl_ne]
      · exact Memory.byte_write ..
      · intro e he hx
        have : e.1 = k := by omega
        exact hn.1 (List.mem_map.2 ⟨e, he, this⟩)
    · have : (k == j) = false := by simpa using hj
      rw [this] at h
      exact ih hn.2 _ h

theorem Memory.wf_foldl (l : List (Nat × Byte)) (base : Nat) {m : Memory} (h : Memory.wf m = true) :
    Memory.wf (l.foldl (fun y e => Memory.write y (base + e.1) e.2) m) = true := by
  induction l generalizing m with
  | nil => exact h
  | cons e r ih => exact ih (Memory.wf_write h ..)

/-- The offsets and bytes of consecutive bytes from an offset. -/
def laid (off : Nat) (bs : List Byte) : List (Nat × Byte) := bs.zipIdx.map fun e => (off + e.2, e.1)

theorem laid_nodup (off : Nat) (bs : List Byte) : ((laid off bs).map Prod.fst).Nodup := by
  have : (laid off bs).map Prod.fst = (List.range' 0 bs.length).map (off + ·) := by
    unfold laid
    rw [List.map_map]
    have : (Prod.fst ∘ fun (e : Byte × Nat) => (off + e.2, e.1)) = (off + ·) ∘ Prod.snd := rfl
    rw [this, ← List.map_map, List.zipIdx_map_snd]
  rw [this]
  exact (List.nodup_range').map fun a b h => by simpa using h

theorem laid_mem {off : Nat} {bs : List Byte} {e : Nat × Byte} (h : e ∈ laid off bs) :
    off ≤ e.1 ∧ e.1 < off + bs.length := by
  unfold laid at h
  obtain ⟨⟨b, i⟩, h1, rfl⟩ := List.mem_map.1 h
  obtain ⟨_, h2, _⟩ := List.mem_zipIdx h1
  simp at h2 ⊢; omega

theorem laid_lookup (off : Nat) (bs : List Byte) (i : Nat) : (laid off bs).lookup (off + i) = bs[i]? := by
  suffices ∀ n, ((bs.zipIdx n).map fun e => (off + e.2, e.1)).lookup (off + (n + i)) = bs[i]? by simpa [laid] using this 0
  induction bs generalizing i with
  | nil => intro n; simp
  | cons b r ih =>
    intro n
    rw [List.zipIdx_cons, List.map_cons, List.lookup]
    cases i with
    | zero => simp
    | succ i =>
      have : (off + (n + (i + 1)) == off + n) = false := by simp
      simp only [this]
      have := ih i (n + 1)
      rw [show n + 1 + i = n + (i + 1) by omega] at this
      simpa using this

theorem laid_lookup_lt (off : Nat) (bs : List Byte) (k : Nat) (h : k < off ∨ off + bs.length ≤ k) : (laid off bs).lookup k = none := by
  rw [lookup_eq_find?]
  by_contra hc
  obtain ⟨b, hb⟩ := Option.ne_none_iff_exists'.1 hc
  have := laid_mem (Tab.mem_of_find? hb)
  simp only at this; omega

/-- Later bytes replace earlier ones. -/
theorem mergeBytes_lookup (new old : List (Nat × Byte)) (hn : (new.map Prod.fst).Nodup) (k : Nat) :
    (mergeBytes old new).lookup k = (new.lookup k).or (old.lookup k) := by
  simp only [lookup_eq_find?]
  unfold mergeBytes
  induction new generalizing old with
  | nil => rfl
  | cons e r ih =>
    obtain ⟨j, b⟩ := e
    rw [List.map_cons, List.nodup_cons] at hn
    rw [List.foldl_cons, ih _ hn.2]
    simp only [Tab.find?]
    by_cases h : j = k
    · subst h
      have : Tab.find? r j = none := by
        by_contra hc
        obtain ⟨c, hc⟩ := Option.ne_none_iff_exists'.1 hc
        exact hn.1 (List.mem_map.2 ⟨(j, c), Tab.mem_of_find? hc, rfl⟩)
      rw [this]; simp
    · rw [if_neg h, Tab.find?_put_ne _ _ (Ne.symm h)]

theorem mergeBytes_wf (new : List (Nat × Byte)) {old : List (Nat × Byte)} (h : Tab.wf old = true) : Tab.wf (mergeBytes old new) = true := by
  unfold mergeBytes
  induction new generalizing old with
  | nil => exact h
  | cons e r ih => exact ih (Tab.wf_put h ..)

theorem mergeBytes_mem (new : List (Nat × Byte)) {old : List (Nat × Byte)} {e : Nat × Byte} (h : e ∈ mergeBytes old new) :
    e ∈ old ∨ e ∈ new := by
  unfold mergeBytes at h
  induction new generalizing old with
  | nil => exact .inl h
  | cons x r ih =>
    rcases ih h with h | h
    · rcases Tab.mem_put h with rfl | h
      · exact .inr (List.mem_cons_self ..)
      · exact .inl h
    · exact .inr (List.mem_cons_of_mem _ h)

/-- A canonical list of all 64 offsets of a sector has a byte at each. -/
theorem full_lookup {l : List (Nat × Byte)} (hw : (l.map Prod.fst).Nodup) (hl : l.length = 64) (hb : ∀ e ∈ l, e.1 < 64) (k : Nat) (hk : k < 64) :
    ∃ b, l.lookup k = some b := by
  have hm : k ∈ l.map Prod.fst := by
    by_contra hc
    have h1 : (k :: l.map Prod.fst).Nodup := List.nodup_cons.2 ⟨hc, hw⟩
    have h2 : (k :: l.map Prod.fst) ⊆ List.range 64 := by
      intro x hx
      rcases List.mem_cons.1 hx with rfl | hx
      · exact List.mem_range.2 hk
      · obtain ⟨e, he, rfl⟩ := List.mem_map.1 hx
        exact List.mem_range.2 (hb e he)
    have := (List.subperm_of_subset h1 h2).length_le
    simp [hl] at this
  rw [lookup_eq_find?]
  clear hl hb hk hw
  induction l with
  | nil => cases hm
  | cons x r ih =>
    obtain ⟨i, c⟩ := x
    simp only [Tab.find?]
    split
    · exact ⟨c, rfl⟩
    · next h =>
      rcases List.mem_cons.1 hm with he | he
      · exact absurd he.symm h
      · exact ih he

/-! ### Addresses and sectors -/

theorem channelOf_sector (a : Nat) : channelOf (a / 64 * 64) = channelOf a := by
  unfold channelOf
  have : a / 64 * 64 / 4096 = a / 4096 := by omega
  rw [this]

theorem isReservoir_sector (a : Nat) : isReservoir (a / 64 * 64) = isReservoir a := by
  unfold isReservoir reservoirBase
  apply decide_eq_decide.2; omega

theorem isReservoir_at {sec k : Nat} (h64 : sec % 64 = 0) (hk : k < 64) : isReservoir (sec + k) = isReservoir sec := by
  rw [← isReservoir_sector (sec + k), show (sec + k) / 64 * 64 = sec by omega]

/-! ### Where the byte of an address lies -/

theorem Mem.home_reservoir (m : Mem) {a : Nat} (h : isReservoir a = true) : m.home a = a := by
  unfold Mem.home; rw [if_pos h]

/-- An address whose byte does not lie in the Reservoir names itself. -/
theorem Mem.home_hbm (m : Mem) {a : Nat} (h : isReservoir (m.home a) = false) : m.home a = a := by
  unfold Mem.home at h ⊢
  split
  · rfl
  · next ha =>
    rw [if_neg ha] at h
    split
    · next p hp =>
      simp only [hp] at h
      dsimp only
      split
      · next hr => rw [if_pos hr] at h; rw [hr] at h; cases h
      · rfl
    · rfl

theorem Mem.isReservoir_of_home (m : Mem) {a : Nat} (h : isReservoir (m.home a) = false) : isReservoir a = false := by
  rw [m.home_hbm h] at h; exact h

/-- Two memories place bytes alike: the same buffers in the Reservoir, the same channel states and the same degraded map, but for which
granules of it are still to be poisoned. -/
def Mem.SameMap (m n : Mem) : Prop :=
  m.placed = n.placed ∧ (∀ c, (m.chan c).state = (n.chan c).state) ∧
    ∀ k, (Tab.find? m.remap k).map (fun r => r.target) = (Tab.find? n.remap k).map (fun r => r.target)

theorem Mem.SameMap.rfl' {m : Mem} : m.SameMap m := ⟨rfl, fun _ => rfl, fun _ => rfl⟩
theorem Mem.SameMap.of {m n : Mem} (h1 : m.placed = n.placed) (h2 : m.chans = n.chans) (h3 : m.remap = n.remap) : m.SameMap n :=
  ⟨h1, fun c => by unfold Mem.chan; rw [h2], fun k => by rw [h3]⟩
theorem Mem.SameMap.symm {m n : Mem} (h : m.SameMap n) : n.SameMap m := ⟨h.1.symm, fun c => (h.2.1 c).symm, fun k => (h.2.2 k).symm⟩
theorem Mem.SameMap.trans {m n o : Mem} (h : m.SameMap n) (g : n.SameMap o) : m.SameMap o :=
  ⟨h.1.trans g.1, fun c => (h.2.1 c).trans (g.2.1 c), fun k => (h.2.2 k).trans (g.2.2 k)⟩

theorem Mem.SameMap.home {m n : Mem} (h : m.SameMap n) (a : Nat) : m.home a = n.home a := by
  unfold Mem.home; rw [h.1]

theorem Mem.SameMap.isSome {m n : Mem} (h : m.SameMap n) (k : Nat) : (Tab.find? m.remap k).isSome = (Tab.find? n.remap k).isSome := by
  have := congrArg Option.isSome (h.2.2 k)
  simpa using this

theorem Mem.SameMap.remapped {m n : Mem} (h : m.SameMap n) (a : Nat) : m.remapped a = n.remapped a := by
  unfold Mem.remapped; rw [h.2.1, h.isSome]

theorem Mem.SameMap.serving {m n : Mem} (h : m.SameMap n) (a : Nat) : m.serving a = n.serving a := by
  unfold Mem.serving; rw [h.remapped, h.2.2]

/-- Addresses of one sector are served by one channel. -/
theorem Mem.serving_sector (m : Mem) (a : Nat) : m.serving (a / 64 * 64) = m.serving a := by
  have hl : localOf (a / 64 * 64) = localOf a := by
    unfold localOf; rw [show a / 64 * 64 / 4096 = a / 4096 by omega]
  have hr : m.remapped (a / 64 * 64) = m.remapped a := by unfold Mem.remapped; rw [channelOf_sector, hl]
  unfold Mem.serving
  rw [hr, channelOf_sector, hl]

/-! ### Operations that change no byte -/

@[simp] theorem Mem.openPoison_bytes (m : Mem) (a : Nat) : (m.openPoison a).bytes = m.bytes := by
  unfold Mem.openPoison; dsimp only; split <;> [split; skip] <;> rfl
@[simp] theorem Mem.openPoison_wcb (m : Mem) (a : Nat) : (m.openPoison a).wcb = m.wcb := by
  unfold Mem.openPoison; dsimp only; split <;> [split; skip] <;> rfl
@[simp] theorem Mem.openPoison_chans (m : Mem) (a : Nat) : (m.openPoison a).chans = m.chans := by
  unfold Mem.openPoison; dsimp only; split <;> [split; skip] <;> rfl
theorem Mem.openPoison_map (m : Mem) (a : Nat) : (m.openPoison a).SameMap m := by
  unfold Mem.openPoison; dsimp only
  split
  · next r hr =>
    split
    · refine ⟨rfl, fun _ => rfl, fun k => ?_⟩
      dsimp only
      by_cases hk : k = remapKey (channelOf a) (localOf a)
      · subst hk; rw [Tab.find?_put, hr]; rfl
      · rw [Tab.find?_put_ne _ _ hk]
    · exact Mem.SameMap.rfl'
  · exact Mem.SameMap.rfl'
@[simp] theorem Mem.count_bytes (m : Mem) (t i n : Nat) : (m.count t i n).bytes = m.bytes := rfl
@[simp] theorem Mem.count_wcb (m : Mem) (t i n : Nat) : (m.count t i n).wcb = m.wcb := rfl
@[simp] theorem Mem.count_chans (m : Mem) (t i n : Nat) : (m.count t i n).chans = m.chans := rfl
theorem Mem.count_map (m : Mem) (t i n : Nat) : (m.count t i n).SameMap m := Mem.SameMap.of rfl rfl rfl

/-- The fields of memory that readers see. -/
theorem Mem.byte_congr {m n : Mem} (h1 : m.bytes = n.bytes) (h2 : m.wcb = n.wcb) (h3 : m.chans = n.chans) (h4 : m.SameMap n) (x : Nat) :
    m.byte x = n.byte x := by
  unfold Mem.byte Mem.entry? Mem.heldByte
  rw [h4.home, h4.serving, h1, h2]
  unfold Mem.chan
  rw [h3]

theorem BuffersWf.congr {m n : Mem} (h : m.wcb = n.wcb) (hm : BuffersWf m) : BuffersWf n := by
  unfold BuffersWf at hm ⊢; rw [← h]; exact hm

@[simp] theorem Mem.byte_openPoison (m : Mem) (a x : Nat) : (m.openPoison a).byte x = m.byte x :=
  Mem.byte_congr (by simp) (by simp) (by simp) (m.openPoison_map a) x
@[simp] theorem Mem.byte_count (m : Mem) (t i n x : Nat) : (m.count t i n).byte x = m.byte x := Mem.byte_congr rfl rfl rfl (m.count_map ..) x

/-- Noting reads counts them and nothing else. -/
theorem Mem.noteSector_same (m : Mem) (sec : Nat) (req : Nat → Bool) : ∃ cs, m.noteSector sec req = { m with counters := cs } := by
  unfold Mem.noteSector
  dsimp only
  split <;> split <;> (try split) <;> exact ⟨_, rfl⟩

theorem Mem.noteAll_same (m : Mem) (rs : List (Nat × Nat)) : ∃ cs, m.noteAll rs = { m with counters := cs } := by
  unfold Mem.noteAll
  generalize m.sectorsOf rs = l
  induction l generalizing m with
  | nil => exact ⟨_, rfl⟩
  | cons i r ih =>
    rw [List.foldl_cons]
    obtain ⟨c1, h1⟩ := Mem.noteSector_same m i fun k => rs.any fun r => decide (r.1 ≤ i + k) && decide (i + k < r.1 + r.2)
    obtain ⟨c2, h2⟩ := ih (m.noteSector i fun k => rs.any fun r => decide (r.1 ≤ i + k) && decide (i + k < r.1 + r.2))
    exact ⟨c2, by rw [h2, h1]⟩

@[simp] theorem Mem.byte_noteAll (m : Mem) (rs : List (Nat × Nat)) (x : Nat) : (m.noteAll rs).byte x = m.byte x := by
  obtain ⟨cs, h⟩ := m.noteAll_same rs
  rw [h]; exact Mem.byte_congr rfl rfl rfl (Mem.SameMap.of rfl rfl rfl) x

@[simp] theorem Mem.byte_note (m : Mem) (a n x : Nat) : (m.note a n).byte x = m.byte x := m.byte_noteAll _ x

/-! ### A whole sector -/

@[simp] theorem Mem.dropEntry_bytes (m : Mem) (sec : Nat) : (m.dropEntry sec).bytes = m.bytes := rfl
@[simp] theorem Mem.dropEntry_chans (m : Mem) (sec : Nat) : (m.dropEntry sec).chans = m.chans := rfl

/-- The entries of a stack's buffer. -/
def Mem.entries (m : Mem) (k : Nat) : List WcbEntry := Tab.get [] m.wcb k

theorem Mem.entry?_eq (m : Mem) (sec : Nat) :
    m.entry? sec = (m.entries (channelOf sec / 32)).find? fun e => e.sector = sec := rfl

/-- What the form of the buffers says of one stack's entries. -/
theorem BuffersWf.entries {m : Mem} (h : BuffersWf m) (k : Nat) :
    ((m.entries k).map (·.sector)).Nodup ∧ ∀ e ∈ m.entries k, e.sector % 64 = 0 ∧ isReservoir e.sector = false ∧
      channelOf e.sector / 32 = k ∧ Tab.wf e.bytes = true ∧ ∀ p ∈ e.bytes, p.1 < 64 := by
  unfold Mem.entries Tab.get
  cases hf : Tab.find? m.wcb k with
  | none => exact ⟨List.nodup_nil, fun e he => absurd he (List.not_mem_nil)⟩
  | some es => exact h k es (Tab.mem_of_find? hf)

/-- Replacing one stack's entries by a list in form keeps the form. -/
theorem BuffersWf.put {m n : Mem} (h : BuffersWf m) (k : Nat) (es : List WcbEntry) (hn : n.wcb = Tab.put m.wcb k es)
    (h1 : (es.map (·.sector)).Nodup)
    (h2 : ∀ e ∈ es, e.sector % 64 = 0 ∧ isReservoir e.sector = false ∧ channelOf e.sector / 32 = k ∧ Tab.wf e.bytes = true ∧
      ∀ p ∈ e.bytes, p.1 < 64) : BuffersWf n := by
  intro j fs hj
  rw [hn] at hj
  rcases Tab.mem_put hj with hj | hj
  · injection hj with hj1 hj2; subst hj1 hj2; exact ⟨h1, h2⟩
  · exact h j fs hj

theorem BuffersWf.dropEntry {m : Mem} (h : BuffersWf m) (sec : Nat) : BuffersWf (m.dropEntry sec) := by
  obtain ⟨h1, h2⟩ := h.entries (channelOf sec / 32)
  refine h.put _ _ rfl ?_ fun e he => h2 e (List.mem_filter.1 he).1
  exact h1.sublist (List.filter_sublist.map _)

/-- After its entry is dropped a sector has none, and the other sectors have what they had. -/
theorem Mem.entry?_dropEntry (m : Mem) (sec : Nat) : (m.dropEntry sec).entry? sec = none := by
  simp only [Mem.entry?, Mem.dropEntry, Tab.get_put]
  simp

theorem Mem.entry?_dropEntry_ne (m : Mem) {sec x : Nat} (h : x ≠ sec) : (m.dropEntry sec).entry? x = m.entry? x := by
  simp only [Mem.entry?, Mem.dropEntry, Tab.get_put_of]
  split
  · next hk =>
    rw [hk, List.find?_filter]
    congr 1; funext e
    by_cases he : e.sector = x
    · simp [he, h]
    · simp [he]
  · rfl

/-- The byte of an address whose byte lies in HBM. -/
theorem Mem.byte_hbm (m : Mem) {x : Nat} (h : isReservoir (m.home x) = false) :
    m.byte x = (((m.entry? (x / 64 * 64)).bind fun e => e.bytes.lookup (x % 64)).or (m.heldByte x)).getD (Memory.byte m.bytes x) := by
  unfold Mem.byte
  rw [h]
  simp only [Bool.false_eq_true, if_false]
  cases (m.entry? (x / 64 * 64)).bind fun e => e.bytes.lookup (x % 64) <;> rfl

theorem Mem.byte_reservoir (m : Mem) {x : Nat} (h : isReservoir (m.home x) = true) : m.byte x = Memory.byte m.bytes (m.home x) := by
  unfold Mem.byte; rw [if_pos h]

theorem Mem.dropEntry_map (m : Mem) (sec : Nat) : (m.dropEntry sec).SameMap m := Mem.SameMap.of rfl rfl rfl

theorem Mem.heldByte_congr {m n : Mem} (h : m.chans = n.chans) (g : m.SameMap n) (x : Nat) : m.heldByte x = n.heldByte x := by
  unfold Mem.heldByte; rw [g.serving]; unfold Mem.chan; rw [h]

/-- Dropping an entry of another sector changes no byte. -/
theorem Mem.byte_dropEntry_ne (m : Mem) {sec x : Nat} (h : x / 64 * 64 ≠ sec) : (m.dropEntry sec).byte x = m.byte x := by
  have hm := m.dropEntry_map sec
  cases hr : isReservoir (m.home x) with
  | true => rw [Mem.byte_reservoir _ (by rw [hm.home]; exact hr), Mem.byte_reservoir _ hr, hm.home]; rfl
  | false =>
    rw [Mem.byte_hbm _ (by rw [hm.home]; exact hr), Mem.byte_hbm _ hr, Mem.entry?_dropEntry_ne m h, Mem.heldByte_congr rfl hm]; rfl

@[simp] theorem Mem.wholeSector_wcb (m : Mem) (sec : Nat) (bs : List (Nat × Byte)) : (m.wholeSector sec bs).wcb = m.wcb := by
  unfold Mem.wholeSector; dsimp only; split <;> rfl

theorem Mem.wholeSector_map (m : Mem) (sec : Nat) (bs : List (Nat × Byte)) : (m.wholeSector sec bs).SameMap m := by
  unfold Mem.wholeSector; dsimp only; split
  · refine ⟨rfl, fun c => ?_, fun _ => rfl⟩
    unfold Mem.setChan Mem.chan
    dsimp only
    rw [Tab.get_put_of]
    split
    · next hc => rw [hc]
    · rfl
  · exact Mem.SameMap.of rfl rfl rfl

/-- A whole sector leaves every other sector, and what lies in the Reservoir. -/
theorem Mem.byte_wholeSector_ne (m : Mem) {sec x : Nat} (l : List (Nat × Byte)) (h64 : sec % 64 = 0) (hrs : isReservoir sec = false)
    (hl : ∀ e ∈ l, e.1 < 64) (h : x / 64 * 64 ≠ sec ∨ isReservoir (m.home x) = true) : (m.wholeSector sec l).byte x = m.byte x := by
  have hmap := m.wholeSector_map sec l
  have hmem : ∀ y, (∀ e ∈ l, sec + e.1 ≠ y) →
      Memory.byte (l.foldl (fun y e => Memory.write y (sec + e.1) e.2) m.bytes) y = Memory.byte m.bytes y :=
    fun y hy => Memory.byte_foldl_ne _ _ _ _ hy
  cases hr : isReservoir (m.home x) with
  | true =>
    rw [Mem.byte_reservoir _ (by rw [hmap.home]; exact hr), Mem.byte_reservoir _ hr, hmap.home]
    unfold Mem.wholeSector
    dsimp only
    split
    · rfl
    · refine hmem _ fun e he heq => ?_
      have := isReservoir_at h64 (hl e he)
      rw [heq, hr, hrs] at this; cases this
  | false =>
    have h : x / 64 * 64 ≠ sec := h.resolve_right (by rw [hr]; simp)
    rw [Mem.byte_hbm _ (by rw [hmap.home]; exact hr), Mem.byte_hbm _ hr]
    have hent : (m.wholeSector sec l).entry? (x / 64 * 64) = m.entry? (x / 64 * 64) := by
      unfold Mem.entry?; rw [Mem.wholeSector_wcb]
    have hheld : (m.wholeSector sec l).heldByte x = m.heldByte x := by
      unfold Mem.heldByte
      rw [hmap.serving]
      unfold Mem.wholeSector
      dsimp only
      split
      · next hst =>
        unfold Mem.setChan Mem.chan
        dsimp only
        rw [Tab.get_put_of]
        split
        · next hc =>
          rw [hc]
          unfold Channel.holds
          dsimp only
          rw [List.reverse_append]
          simp [Ne.symm h]
        · rfl
      · rfl
    rw [hent, hheld]
    congr 1
    unfold Mem.wholeSector
    dsimp only
    split
    · rfl
    · exact hmem _ fun e he => by have := hl e he; omega

/-- A whole sector that has no entry takes its bytes. -/
theorem Mem.byte_wholeSector (m : Mem) {sec : Nat} (l : List (Nat × Byte)) (h64 : sec % 64 = 0)
    (hn : (l.map Prod.fst).Nodup) (he : m.entry? sec = none) {k : Nat} {b : Byte} (hk : k < 64)
    (hr : isReservoir (m.home (sec + k)) = false) (hb : l.lookup k = some b) :
    (m.wholeSector sec l).byte (sec + k) = b := by
  have hs : (sec + k) / 64 * 64 = sec := by omega
  have hm : (sec + k) % 64 = k := by omega
  have hmap := m.wholeSector_map sec l
  have hc : m.serving (sec + k) = m.serving sec := by rw [← Mem.serving_sector, hs]
  have hent : (m.wholeSector sec l).entry? sec = none := by
    rw [← he]; unfold Mem.entry?; rw [Mem.wholeSector_wcb]
  rw [Mem.byte_hbm _ (by rw [hmap.home]; exact hr), hs, hent, hm, Option.bind_none, Option.none_or]
  by_cases hst : (m.chan (m.serving sec)).holds = true
  · have hh : (m.wholeSector sec l).heldByte (sec + k) = some b := by
      unfold Mem.heldByte
      rw [hmap.serving, hc]
      have hw : (m.wholeSector sec l).chan (m.serving sec) = { m.chan (m.serving sec) with hold := (m.chan (m.serving sec)).hold ++ [(sec, l)] } := by
        unfold Mem.wholeSector
        dsimp only
        rw [if_pos (by exact hst)]
        exact Tab.get_put ..
      rw [hw]
      have : Channel.holds { m.chan (m.serving sec) with hold := (m.chan (m.serving sec)).hold ++ [(sec, l)] } = true := hst
      dsimp only
      rw [this, hs, hm]
      simp [List.reverse_append, hb]
    rw [hh]; rfl
  · have hh : (m.wholeSector sec l).heldByte (sec + k) = none := by
      unfold Mem.heldByte
      rw [hmap.serving, hc]
      have hw : (m.wholeSector sec l).chan (m.serving sec) = m.chan (m.serving sec) := by
        unfold Mem.wholeSector
        dsimp only
        rw [if_neg (by exact hst)]; rfl
      rw [hw]
      exact if_neg hst
    rw [hh, Option.getD_none]
    unfold Mem.wholeSector
    dsimp only
    rw [if_neg (by exact hst)]
    exact Memory.byte_foldl l hn m.bytes sec k b hb

theorem Mem.wf_wholeSector {m : Mem} (h : Memory.wf m.bytes = true) (sec : Nat) (l : List (Nat × Byte)) :
    Memory.wf (m.wholeSector sec l).bytes = true := by
  unfold Mem.wholeSector; dsimp only; split
  · exact h
  · exact Memory.wf_foldl l sec h

/-! ### Eviction -/

theorem BuffersWf.evict {m : Mem} (h : BuffersWf m) (e : WcbEntry) : BuffersWf (m.evict e) := (h.dropEntry e.sector).congr rfl

theorem Mem.wf_evict {m : Mem} (h : Memory.wf m.bytes = true) (e : WcbEntry) : Memory.wf (m.evict e).bytes = true :=
  Memory.wf_foldl e.bytes e.sector h

/-- The entry that a sector has. -/
theorem Mem.entry?_of_mem {m : Mem} (h : BuffersWf m) {k : Nat} {e : WcbEntry} (he : e ∈ m.entries k) : m.entry? e.sector = some e := by
  obtain ⟨h1, h2⟩ := h.entries k
  rw [Mem.entry?_eq, (h2 e he).2.2.1]
  generalize m.entries k = es at h1 he
  clear h2
  induction es with
  | nil => cases he
  | cons x r ih =>
    rw [List.map_cons, List.nodup_cons] at h1
    rw [List.find?_cons]
    by_cases hx : x.sector = e.sector
    · have hxe : e = x := by
        rcases List.mem_cons.1 he with he | he
        · exact he
        · exact absurd (hx ▸ List.mem_map_of_mem (f := fun e => WcbEntry.sector e) he) h1.1
      simp [hxe]
    · have : decide (x.sector = e.sector) = false := by simpa using hx
      rw [this]
      rcases List.mem_cons.1 he with rfl | he
      · exact absurd rfl hx
      · exact ih h1.2 he

theorem Mem.evict_map (m : Mem) (e : WcbEntry) : (m.evict e).SameMap m := Mem.SameMap.of rfl rfl rfl

/-- Evicting an entry whose channel takes accesses changes no byte that a reader sees (R294, R295). -/
theorem Mem.byte_evict {m : Mem} (h : BuffersWf m) {k : Nat} {e : WcbEntry} (he : e ∈ m.entries k) (hv : m.evictable e = true) (x : Nat) :
    (m.evict e).byte x = m.byte x := by
  obtain ⟨h64, hr, hk, hw, hb⟩ := (h.entries k).2 e he
  have hst : (m.chan (m.serving e.sector)).holds = false := by simpa [Mem.evictable] using hv
  have hmap := m.evict_map e
  have hby : (m.evict e).bytes = e.bytes.foldl (fun y p => Memory.write y (e.sector + p.1) p.2) m.bytes := rfl
  have hen : ∀ s, (m.evict e).entry? s = (m.dropEntry e.sector).entry? s := fun s => rfl
  have hheld : (m.evict e).heldByte x = m.heldByte x := Mem.heldByte_congr rfl hmap x
  cases hrx : isReservoir (m.home x) with
  | true =>
    rw [Mem.byte_reservoir _ (by rw [hmap.home]; exact hrx), Mem.byte_reservoir _ hrx, hmap.home, hby]
    refine Memory.byte_foldl_ne _ _ _ _ fun p hp heq => ?_
    have := isReservoir_at h64 (hb p hp)
    rw [heq, hrx, hr] at this; cases this
  | false =>
  rw [Mem.byte_hbm _ (by rw [hmap.home]; exact hrx), Mem.byte_hbm _ hrx, hheld, hen]
  by_cases hx : x / 64 * 64 = e.sector
  · have hc : m.serving x = m.serving e.sector := by rw [← Mem.serving_sector, hx]
    have hh : m.heldByte x = none := by
      unfold Mem.heldByte
      rw [hc]
      exact if_neg (by rw [hst]; simp)
    rw [hx, Mem.entry?_dropEntry, Mem.entry?_of_mem h he, hh, hby]
    rw [Option.bind_none, Option.bind_some, Option.or_none, Option.or_none, Option.getD_none]
    have hxe : x = e.sector + x % 64 := by omega
    cases hl : e.bytes.lookup (x % 64) with
    | some b =>
      conv_lhs => rw [hxe]
      exact Memory.byte_foldl e.bytes (Tab.nodup_of_wf hw) m.bytes e.sector (x % 64) b hl
    | none =>
      refine Memory.byte_foldl_ne _ _ _ _ fun p hp hpx => ?_
      have h1 := hb p hp
      have h2 : p.1 = x % 64 := by omega
      rw [lookup_eq_find?] at hl
      have : ∀ l : List (Nat × Byte), p ∈ l → Tab.find? l p.1 ≠ none := by
        intro l
        induction l with
        | nil => intro h; cases h
        | cons y r ih =>
          intro hm
          obtain ⟨i, c⟩ := y
          simp only [Tab.find?]
          split
          · simp
          · next hi =>
            rcases List.mem_cons.1 hm with hm | hm
            · exact absurd (by rw [hm]) hi
            · exact ih hm
      exact this _ hp (h2 ▸ hl)
  · have hm : Memory.byte (m.evict e).bytes x = Memory.byte m.bytes x := by
      rw [hby]; exact Memory.byte_foldl_ne _ _ _ _ fun p hp => by have := hb p hp; omega
    rw [Mem.entry?_dropEntry_ne m hx, hm]

/-! ### Writes of one sector -/

/-- The bytes of a sector before a write of some of them, or without it. -/
theorem Mem.writeSector_eq (m : Mem) (sec off : Nat) (bs : List Byte) :
    m.writeSector sec off bs =
      (let m := m.openPoison sec
       let m := if m.remapped sec then m.count (channelOf sec / 32) 4 1 else m
       if bs.length = 64 then (m.dropEntry sec).wholeSector sec (laid off bs) else
       match m.entry? sec with
       | some e =>
         if (mergeBytes e.bytes (laid off bs)).length = 64 then (m.dropEntry sec).wholeSector sec (mergeBytes e.bytes (laid off bs))
         else { m with wcb := Tab.put m.wcb (channelOf sec / 32) ((m.entries (channelOf sec / 32)).map fun x =>
           if x.sector = sec then { x with bytes := mergeBytes e.bytes (laid off bs) } else x) }
       | none =>
         let m := if (m.entries (channelOf sec / 32)).length < wcbDepth then m else m.evictOldest (channelOf sec / 32)
         { m with wcb := Tab.put m.wcb (channelOf sec / 32) (m.entries (channelOf sec / 32) ++
           [{ sector := sec, bytes := mergeBytes [] (laid off bs) }]) }) := rfl

/-- Evicting the oldest entry that may go: the same bytes, in form, and a sector without an entry still has none. -/
theorem Mem.evictOldest_spec {m : Mem} (h : BuffersWf m) (k : Nat) :
    BuffersWf (m.evictOldest k) ∧ (∀ x, (m.evictOldest k).byte x = m.byte x) ∧ (m.evictOldest k).SameMap m ∧
      (∀ sec, m.entry? sec = none → (m.evictOldest k).entry? sec = none) ∧
      (Memory.wf m.bytes = true → Memory.wf (m.evictOldest k).bytes = true) := by
  unfold Mem.evictOldest
  split
  · next o ho =>
    have hm : o ∈ m.entries k := List.mem_of_mem_take (List.mem_of_find?_eq_some ho)
    have hv := List.find?_some ho
    refine ⟨h.evict o, fun x => Mem.byte_evict h hm hv x, m.evict_map o, fun sec he => ?_, fun hw => Mem.wf_evict hw o⟩
    have hen : (m.evict o).entry? sec = (m.dropEntry o.sector).entry? sec := rfl
    rw [hen]
    by_cases hs : sec = o.sector
    · rw [hs]; exact Mem.entry?_dropEntry m o.sector
    · rw [Mem.entry?_dropEntry_ne m hs]; exact he
  · exact ⟨h, fun _ => rfl, Mem.SameMap.rfl', fun _ he => he, id⟩

/-- A fold of operations that keep the form and change no byte. -/
theorem Mem.foldl_spec {α : Type} (f : Mem → α → Mem)
    (hf : ∀ m x, BuffersWf m → BuffersWf (f m x) ∧ (∀ y, (f m x).byte y = m.byte y) ∧ (Memory.wf m.bytes = true → Memory.wf (f m x).bytes = true))
    (l : List α) : ∀ m, BuffersWf m → BuffersWf (l.foldl f m) ∧ (∀ y, (l.foldl f m).byte y = m.byte y) ∧
      (Memory.wf m.bytes = true → Memory.wf (l.foldl f m).bytes = true) := by
  induction l with
  | nil => exact fun m h => ⟨h, fun _ => rfl, id⟩
  | cons x r ih =>
    intro m h
    obtain ⟨a1, a2, a3⟩ := hf m x h
    obtain ⟨b1, b2, b3⟩ := ih _ a1
    exact ⟨b1, fun y => (b2 y).trans (a2 y), fun hw => b3 (a3 hw)⟩

/-- Making room for writes that wait changes no byte that a reader sees (R294). -/
theorem Mem.makeRoom_spec {m : Mem} (h : BuffersWf m) :
    BuffersWf m.makeRoom ∧ (∀ x, m.makeRoom.byte x = m.byte x) ∧ (Memory.wf m.bytes = true → Memory.wf m.makeRoom.bytes = true) := by
  refine Mem.foldl_spec _ (fun m e hm => ?_) _ _ h
  refine Mem.foldl_spec _ (fun m _ hm => ?_) _ _ hm
  obtain ⟨a1, a2, _, _, a3⟩ := Mem.evictOldest_spec hm e.1
  exact ⟨a1, a2, a3⟩

/-- A write of one sector keeps the canonical form, whatever the buffers hold. -/
theorem Mem.wf_writeSector {m : Mem} (h : Memory.wf m.bytes = true) (sec off : Nat) (bs : List Byte) :
    Memory.wf (m.writeSector sec off bs).bytes = true := by
  rw [Mem.writeSector_eq]
  dsimp only
  generalize hn : (if (m.openPoison sec).remapped sec then (m.openPoison sec).count (channelOf sec / 32) 4 1 else m.openPoison sec) = n
  have hw : Memory.wf n.bytes = true := by rw [← hn]; split <;> simpa using h
  split
  · exact Mem.wf_wholeSector (m := n.dropEntry sec) hw _ _
  · split
    · split
      · exact Mem.wf_wholeSector (m := n.dropEntry sec) hw _ _
      · exact hw
    · split
      · exact hw
      · unfold Mem.evictOldest
        split
        · exact Mem.wf_evict hw _
        · exact hw

/-- What a write of one sector does: the form and the places of bytes stay, its bytes that lie in HBM are read as written, and every other
byte is read as before. -/
theorem Mem.writeSector_spec {m : Mem} (h : BuffersWf m) {sec off : Nat} {bs : List Byte} (h64 : sec % 64 = 0) (hr : isReservoir sec = false)
    (hlen : off + bs.length ≤ 64) :
    BuffersWf (m.writeSector sec off bs) ∧ (m.writeSector sec off bs).SameMap m ∧
    (∀ i b, bs[i]? = some b → isReservoir (m.home (sec + (off + i))) = false → (m.writeSector sec off bs).byte (sec + (off + i)) = b) ∧
    (∀ x, (x < sec + off ∨ sec + off + bs.length ≤ x) → (m.writeSector sec off bs).byte x = m.byte x) := by
  rw [Mem.writeSector_eq]
  have key : ∀ m' : Mem, BuffersWf m' → (∀ x, m'.byte x = m.byte x) → m'.SameMap m →
      let r := if bs.length = 64 then (m'.dropEntry sec).wholeSector sec (laid off bs) else
       match m'.entry? sec with
       | some e =>
         if (mergeBytes e.bytes (laid off bs)).length = 64 then (m'.dropEntry sec).wholeSector sec (mergeBytes e.bytes (laid off bs))
         else { m' with wcb := Tab.put m'.wcb (channelOf sec / 32) ((m'.entries (channelOf sec / 32)).map fun x =>
           if x.sector = sec then { x with bytes := mergeBytes e.bytes (laid off bs) } else x) }
       | none =>
         let m' := if (m'.entries (channelOf sec / 32)).length < wcbDepth then m' else m'.evictOldest (channelOf sec / 32)
         { m' with wcb := Tab.put m'.wcb (channelOf sec / 32) (m'.entries (channelOf sec / 32) ++
           [{ sector := sec, bytes := mergeBytes [] (laid off bs) }]) }
      BuffersWf r ∧ r.SameMap m ∧
      (∀ i b, bs[i]? = some b → isReservoir (m.home (sec + (off + i))) = false → r.byte (sec + (off + i)) = b) ∧
      (∀ x, (x < sec + off ∨ sec + off + bs.length ≤ x) → r.byte x = m.byte x) := by
    intro m' hb hy hmap
    have hpl : ∀ e ∈ laid off bs, e.1 < 64 := fun e he => by have := laid_mem he; omega
    have hidx : ∀ i b, bs[i]? = some b → off + i < 64 := fun i b hi => by
      have := (List.getElem?_eq_some_iff.1 hi).1; omega
    have hother : ∀ x, x / 64 * 64 = sec → (x < sec + off ∨ sec + off + bs.length ≤ x) → (laid off bs).lookup (x % 64) = none :=
      fun x hx ho => laid_lookup_lt off bs _ (by omega)
    -- a whole sector of new bytes over those of the entry
    have whole : ∀ l : List (Nat × Byte), (l.map Prod.fst).Nodup → l.length = 64 → (∀ e ∈ l, e.1 < 64) →
        (∀ k, l.lookup k = ((laid off bs).lookup k).or ((m'.entry? sec).bind fun e => e.bytes.lookup k) ∨ bs.length = 64 ∧ l = laid off bs) →
        let r := (m'.dropEntry sec).wholeSector sec l
        BuffersWf r ∧ r.SameMap m ∧
        (∀ i b, bs[i]? = some b → isReservoir (m.home (sec + (off + i))) = false → r.byte (sec + (off + i)) = b) ∧
        (∀ x, (x < sec + off ∨ sec + off + bs.length ≤ x) → r.byte x = m.byte x) := by
      intro l hn hll hl hval
      dsimp only
      have hd := hb.dropEntry sec
      have hdm := (m'.dropEntry_map sec).trans hmap
      have he := m'.entry?_dropEntry sec
      refine ⟨hd.congr (Mem.wholeSector_wcb ..).symm, (Mem.wholeSector_map ..).trans hdm, ?_, ?_⟩
      · intro i b hi hh
        refine Mem.byte_wholeSector _ l h64 hn he (hidx i b hi) (by rw [hdm.home]; exact hh) ?_
        rcases hval (off + i) with hv | ⟨_, hv⟩
        · rw [hv, laid_lookup, hi]; rfl
        · rw [hv, laid_lookup, hi]
      · intro x hx
        by_cases hs : x / 64 * 64 = sec ∧ isReservoir (m.home x) = false
        · obtain ⟨hs, hrx⟩ := hs
          obtain ⟨b, hb'⟩ := full_lookup hn hll hl (x % 64) (by omega)
          have hxe : x = sec + x % 64 := by omega
          have h1 := Mem.byte_wholeSector (m'.dropEntry sec) l h64 hn he (k := x % 64) (by omega)
            (by rw [hdm.home, ← hxe]; exact hrx) hb'
          rw [← hxe] at h1
          rw [h1, ← hy x, Mem.byte_hbm _ (by rw [hmap.home]; exact hrx), hs]
          rcases hval (x % 64) with hv | ⟨h6, _⟩
          · rw [hb', hother x hs hx, Option.none_or] at hv
            rw [← hv]; rfl
          · omega
        · have hs' : x / 64 * 64 ≠ sec ∨ isReservoir ((m'.dropEntry sec).home x) = true := by
            by_cases h1 : x / 64 * 64 = sec
            · right; rw [hdm.home]; cases h2 : isReservoir (m.home x) with
              | true => rfl
              | false => exact absurd ⟨h1, h2⟩ hs
            · exact .inl h1
          rw [Mem.byte_wholeSector_ne _ l h64 hr hl hs', ← hy x]
          cases hrx : isReservoir (m'.home x) with
          | true =>
            have hm := m'.dropEntry_map sec
            rw [Mem.byte_reservoir _ (by rw [hm.home]; exact hrx), Mem.byte_reservoir _ hrx, hm.home]; rfl
          | false =>
            refine Mem.byte_dropEntry_ne m' (hs'.resolve_right ?_)
            rw [(m'.dropEntry_map sec).home, hrx]; simp
    dsimp only
    split
    · next h6 =>
      exact whole _ (laid_nodup off bs) (by simp [laid, h6]) hpl fun k => .inr ⟨h6, rfl⟩
    · next h6 =>
      have hmerge := fun old => mergeBytes_lookup (laid off bs) old (laid_nodup off bs)
      split
      · next e he =>
        have hmem : e ∈ m'.entries (channelOf sec / 32) := by
          rw [Mem.entry?_eq] at he; exact List.mem_of_find?_eq_some he
        have hsec : e.sector = sec := by
          rw [Mem.entry?_eq] at he; simpa using List.find?_some he
        obtain ⟨h1, h2⟩ := hb.entries (channelOf sec / 32)
        obtain ⟨_, _, _, hew, heb⟩ := h2 e hmem
        have hmw := mergeBytes_wf (laid off bs) hew
        have hml : ∀ p ∈ mergeBytes e.bytes (laid off bs), p.1 < 64 := fun p hp => by
          rcases mergeBytes_mem _ hp with hp | hp
          · exact heb p hp
          · exact hpl p hp
        split
        · next h7 =>
          exact whole _ (Tab.nodup_of_wf hmw) h7 hml fun k => .inl (by rw [hmerge, he]; rfl)
        · have hlist : ((m'.entries (channelOf sec / 32)).map fun x =>
              if x.sector = sec then { x with bytes := mergeBytes e.bytes (laid off bs) } else x).map (·.sector) =
              (m'.entries (channelOf sec / 32)).map (·.sector) := by
            rw [List.map_map]; congr 1; funext x
            simp only [Function.comp]; split <;> rfl
          have hent : ∀ s, Mem.entry? { m' with wcb := Tab.put m'.wcb (channelOf sec / 32) ((m'.entries (channelOf sec / 32)).map fun x =>
              if x.sector = sec then { x with bytes := mergeBytes e.bytes (laid off bs) } else x) } s =
              if s = sec then some { e with bytes := mergeBytes e.bytes (laid off bs) } else m'.entry? s := by
            intro s
            simp only [Mem.entry?, Tab.get_put_of]
            by_cases hs : s = sec
            · subst hs
              simp only [if_true]
              rw [Mem.entry?_eq] at he
              clear hlist h1 h2 hmem
              generalize m'.entries (channelOf s / 32) = es at he
              induction es with
              | nil => simp at he
              | cons y r ih =>
                rw [List.find?_cons] at he
                rw [List.map_cons, List.find?_cons]
                by_cases hyx : y.sector = s
                · simp only [hyx, decide_true] at he
                  injection he with he
                  subst he
                  simp [hyx]
                · have : decide (y.sector = s) = false := by simpa using hyx
                  rw [this] at he
                  simp only [hyx, if_false, decide_false]
                  exact ih he
            · rw [if_neg hs]
              split
              · next hk =>
                rw [hk]
                show _ = (m'.entries (channelOf sec / 32)).find? _
                generalize m'.entries (channelOf sec / 32) = es
                induction es with
                | nil => rfl
                | cons y r ih =>
                  rw [List.map_cons, List.find?_cons, List.find?_cons, ih]
                  by_cases hyx : y.sector = sec
                  · simp [hyx, Ne.symm hs]
                  · simp [hyx]
              · rfl
          have hres : Mem.SameMap { m' with wcb := Tab.put m'.wcb (channelOf sec / 32) ((m'.entries (channelOf sec / 32)).map fun x =>
              if x.sector = sec then { x with bytes := mergeBytes e.bytes (laid off bs) } else x) } m' := Mem.SameMap.of rfl rfl rfl
          have hhold : ∀ x, Mem.heldByte { m' with wcb := Tab.put m'.wcb (channelOf sec / 32) ((m'.entries (channelOf sec / 32)).map fun x =>
              if x.sector = sec then { x with bytes := mergeBytes e.bytes (laid off bs) } else x) } x = m'.heldByte x :=
            fun x => Mem.heldByte_congr rfl hres x
          refine ⟨?_, hres.trans hmap, ?_, ?_⟩
          · refine hb.put _ _ rfl (hlist ▸ h1) fun x hx => ?_
            obtain ⟨y, hy1, rfl⟩ := List.mem_map.1 hx
            split
            · next hys =>
              obtain ⟨g1, g2, g3, _, _⟩ := h2 y hy1
              exact ⟨g1, g2, g3, hmw, hml⟩
            · exact h2 y hy1
          · intro i b hi hh
            have hs : (sec + (off + i)) / 64 * 64 = sec := by have := hidx i b hi; omega
            have hm2 : (sec + (off + i)) % 64 = off + i := by have := hidx i b hi; omega
            rw [Mem.byte_hbm _ (by rw [(hres.trans hmap).home]; exact hh), hs, hent, if_pos rfl, hm2, Option.bind_some, hmerge, laid_lookup, hi]
            rfl
          · intro x hx
            rw [← hy x]
            cases hrx : isReservoir (m'.home x) with
            | true => rw [Mem.byte_reservoir _ (by rw [hres.home]; exact hrx), Mem.byte_reservoir _ hrx, hres.home]
            | false =>
              rw [Mem.byte_hbm _ (by rw [hres.home]; exact hrx), Mem.byte_hbm _ hrx, hent, hhold]
              by_cases hs : x / 64 * 64 = sec
              · rw [if_pos hs, hs, he, Option.bind_some, Option.bind_some, hmerge, hother x hs hx, Option.none_or]
              · rw [if_neg hs]
      · next he =>
        have room : ∀ n : Mem, BuffersWf n → (∀ x, n.byte x = m'.byte x) → n.SameMap m' → n.entry? sec = none →
            let r : Mem := { n with wcb := Tab.put n.wcb (channelOf sec / 32) (n.entries (channelOf sec / 32) ++
              [{ sector := sec, bytes := mergeBytes [] (laid off bs) }]) }
            BuffersWf r ∧ r.SameMap m ∧
            (∀ i b, bs[i]? = some b → isReservoir (m.home (sec + (off + i))) = false → r.byte (sec + (off + i)) = b) ∧
            (∀ x, (x < sec + off ∨ sec + off + bs.length ≤ x) → r.byte x = m.byte x) := by
          intro n g1 g2 g4 g3
          dsimp only
          obtain ⟨h1, h2⟩ := g1.entries (channelOf sec / 32)
          have hno : ∀ y ∈ n.entries (channelOf sec / 32), y.sector ≠ sec := by
            intro y hy1 hys
            rw [Mem.entry?_eq, List.find?_eq_none] at g3
            exact g3 y hy1 (by simpa using hys)
          generalize hrdef : ({ n with wcb := Tab.put n.wcb (channelOf sec / 32) (n.entries (channelOf sec / 32) ++
              [{ sector := sec, bytes := mergeBytes [] (laid off bs) }]) } : Mem) = r
          have hent : ∀ s, r.entry? s = if s = sec then some { sector := sec, bytes := mergeBytes [] (laid off bs) } else n.entry? s := by
            intro s
            rw [← hrdef]
            simp only [Mem.entry?, Tab.get_put_of]
            by_cases hs : s = sec
            · subst hs
              simp only [if_true, List.find?_append]
              rw [Mem.entry?_eq] at g3
              rw [g3]; simp
            · rw [if_neg hs]
              split
              · next hk =>
                rw [hk, List.find?_append]
                show _ = (n.entries (channelOf sec / 32)).find? _
                have : decide (sec = s) = false := by simpa using Ne.symm hs
                simp [this]
              · rfl
          have hres : r.SameMap n := by rw [← hrdef]; exact Mem.SameMap.of rfl rfl rfl
          have hall := hres.trans (g4.trans hmap)
          have hhold : ∀ x, r.heldByte x = n.heldByte x := fun x => Mem.heldByte_congr (by rw [← hrdef]) hres x
          have hbytes : r.bytes = n.bytes := by rw [← hrdef]
          refine ⟨?_, hall, ?_, ?_⟩
          · refine g1.put (channelOf sec / 32) (n.entries (channelOf sec / 32) ++ [{ sector := sec, bytes := mergeBytes [] (laid off bs) }])
              (by rw [← hrdef]) ?_ fun x hx => ?_
            · rw [List.map_append, List.nodup_append]
              refine ⟨h1, by simp, ?_⟩
              intro a ha b hb2 hab
              obtain ⟨y, hy1, rfl⟩ := List.mem_map.1 ha
              simp at hb2
              exact hno y hy1 (hab.trans hb2)
            · rcases List.mem_append.1 hx with hx | hx
              · exact h2 x hx
              · rw [List.mem_singleton] at hx; subst hx
                refine ⟨h64, hr, rfl, mergeBytes_wf _ rfl, fun p hp => ?_⟩
                rcases mergeBytes_mem _ hp with hp | hp
                · cases hp
                · exact hpl p hp
          · intro i b hi hh
            have hs : (sec + (off + i)) / 64 * 64 = sec := by have := hidx i b hi; omega
            have hm2 : (sec + (off + i)) % 64 = off + i := by have := hidx i b hi; omega
            rw [Mem.byte_hbm _ (by rw [hall.home]; exact hh), hs, hent, if_pos rfl, hm2, Option.bind_some, hmerge, laid_lookup, hi]; rfl
          · intro x hx
            rw [← hy x, ← g2 x]
            cases hrx : isReservoir (n.home x) with
            | true => rw [Mem.byte_reservoir _ (by rw [hres.home]; exact hrx), Mem.byte_reservoir _ hrx, hres.home, hbytes]
            | false =>
              rw [Mem.byte_hbm _ (by rw [hres.home]; exact hrx), Mem.byte_hbm _ hrx, hent, hhold, hbytes]
              by_cases hs : x / 64 * 64 = sec
              · rw [if_pos hs, hs, g3, Option.bind_some, Option.bind_none, hmerge, hother x hs hx, Option.none_or]; rfl
              · rw [if_neg hs]
        obtain ⟨g1, g2, g4, g3, _⟩ := Mem.evictOldest_spec hb (channelOf sec / 32)
        by_cases hd : (m'.entries (channelOf sec / 32)).length < wcbDepth
        · rw [if_pos hd]; exact room m' hb (fun _ => rfl) Mem.SameMap.rfl' he
        · rw [if_neg hd]; exact room _ g1 g2 g4 (g3 sec he)
  have k1 := key (m.openPoison sec) (h.congr (by simp)) (by simp) (m.openPoison_map sec)
  have k2 := key ((m.openPoison sec).count (channelOf sec / 32) 4 1) (h.congr (by simp)) (by simp)
    ((Mem.count_map ..).trans (m.openPoison_map sec))
  dsimp only at k1 k2 ⊢
  by_cases hrm : (m.openPoison sec).remapped sec = true
  · simp only [hrm, if_true]; exact k2
  · simp only [hrm]; exact k1

/-! ### Writes -/

theorem BuffersWf.writeReservoir {m : Mem} (h : BuffersWf m) (a : Nat) (bs : List Byte) : BuffersWf (m.writeReservoir a bs) := h.congr rfl

theorem Mem.writeReservoir_map (m : Mem) (a : Nat) (bs : List Byte) : (m.writeReservoir a bs).SameMap m := Mem.SameMap.of rfl rfl rfl

/-- A write of Reservoir bytes is read under every address whose byte lies in one of them, and under no other. -/
theorem Mem.writeReservoir_spec (m : Mem) {a : Nat} {bs : List Byte} (ha : isReservoir a = true) :
    (∀ i b x, bs[i]? = some b → m.home x = a + i → (m.writeReservoir a bs).byte x = b) ∧
    (∀ x, (m.home x < a ∨ a + bs.length ≤ m.home x) → (m.writeReservoir a bs).byte x = m.byte x) := by
  have hge : reservoirBase ≤ a := by simpa [isReservoir] using ha
  have hmap := m.writeReservoir_map a bs
  refine ⟨fun i b x hi hx => ?_, fun x hx => ?_⟩
  · rw [Mem.byte_reservoir _ (by rw [hmap.home, hx]; simp [isReservoir]; omega), hmap.home, hx]
    exact Memory.byte_writes m.bytes a bs hi
  · cases hr : isReservoir (m.home x) with
    | true =>
      rw [Mem.byte_reservoir _ (by rw [hmap.home]; exact hr), Mem.byte_reservoir _ hr, hmap.home]
      exact Memory.byte_writes_ne m.bytes a bs hx
    | false =>
      rw [m.home_hbm hr] at hx
      rw [Mem.byte_hbm _ (by rw [hmap.home]; exact hr), Mem.byte_hbm _ hr, Mem.heldByte_congr rfl hmap]
      exact congrArg _ (Memory.byte_writes_ne m.bytes a bs hx)

/-- What a write does: the form and the places of bytes stay, each byte is read as written where no two of them lie in one place, and every
byte that lies elsewhere is read as before. -/
def Mem.Wrote (m r : Mem) (a : Nat) (bs : List Byte) : Prop :=
  BuffersWf r ∧ r.SameMap m ∧ (Memory.wf m.bytes = true → Memory.wf r.bytes = true) ∧
    (∀ i b, bs[i]? = some b → (∀ j, j < bs.length → m.home (a + j) = m.home (a + i) → j = i) → r.byte (a + i) = b) ∧
    (∀ x, (∀ i, i < bs.length → m.home (a + i) ≠ m.home x) → r.byte x = m.byte x)

theorem Mem.Wrote.nil {m : Mem} (h : BuffersWf m) (a : Nat) : m.Wrote m a [] :=
  ⟨h, Mem.SameMap.rfl', id, fun i b hi => by simp at hi, fun _ _ => rfl⟩

/-- Two writes, one after the other, are one write of both. -/
theorem Mem.Wrote.append {m n r : Mem} {a : Nat} {bs cs : List Byte} (h : m.Wrote n a bs) (g : n.Wrote r (a + bs.length) cs) :
    m.Wrote r a (bs ++ cs) := by
  obtain ⟨h1, h2, h3, h4, h5⟩ := h
  obtain ⟨g1, g2, g3, g4, g5⟩ := g
  have hh : ∀ x, n.home x = m.home x := h2.home
  simp only [hh] at g4 g5
  refine ⟨g1, g2.trans h2, fun hw => g3 (h3 hw), fun i b hi hu => ?_, fun x hx => ?_⟩
  · rw [List.length_append] at hu
    by_cases hlt : i < bs.length
    · rw [List.getElem?_append_left hlt] at hi
      rw [g5 (a + i) fun j hj he => ?_]
      · exact h4 i b hi fun j hj he => hu j (by omega) he
      · have := hu (bs.length + j) (by omega) (by rw [← Nat.add_assoc]; exact he)
        omega
    · rw [List.getElem?_append_right (by omega)] at hi
      have hil := (List.getElem?_eq_some_iff.1 hi).1
      have e : a + i = a + bs.length + (i - bs.length) := by omega
      rw [e]
      refine g4 _ b hi fun j hj he => ?_
      rw [← e] at he
      have := hu (bs.length + j) (by omega) (by rw [← Nat.add_assoc]; exact he)
      omega
  · rw [List.length_append] at hx
    rw [g5 x fun i hi he => hx (bs.length + i) (by omega) (by rw [← Nat.add_assoc]; exact he)]
    exact h5 x fun i hi he => hx i (by omega) he

/-- A write to HBM bytes of one sector that all name themselves. -/
theorem Mem.Wrote.sector {m : Mem} (h : BuffersWf m) {a : Nat} {bs : List Byte} (hlen : a % 64 + bs.length ≤ 64)
    (hr : isReservoir a = false) (hh : ∀ i, i < bs.length → m.home (a + i) = a + i) :
    m.Wrote (m.writeSector (a / 64 * 64) (a % 64) bs) a bs := by
  obtain ⟨h1, h2, h3, h4⟩ := Mem.writeSector_spec h (sec := a / 64 * 64) (off := a % 64) (bs := bs) (by omega)
    (by rw [isReservoir_sector]; exact hr) hlen
  refine ⟨h1, h2, fun hw => Mem.wf_writeSector hw _ _ _, fun i b hi _ => ?_, fun x hx => h4 x ?_⟩
  · have hil := (List.getElem?_eq_some_iff.1 hi).1
    have e : a / 64 * 64 + (a % 64 + i) = a + i := by omega
    have := h3 i b hi
    rw [e] at this
    refine this ?_
    rw [hh i hil, ← isReservoir_sector, show (a + i) / 64 * 64 = a / 64 * 64 by omega, isReservoir_sector]
    exact hr
  · rcases Nat.lt_or_ge x (a / 64 * 64 + a % 64) with hx1 | hx1
    · exact .inl hx1
    · rcases Nat.lt_or_ge x (a / 64 * 64 + a % 64 + bs.length) with hx2 | hx2
      · have := hx (x - a) (by omega)
        rw [show a + (x - a) = x by omega] at this
        exact absurd rfl this
      · exact .inr hx2

/-- A write to bytes that lie one after another in the Reservoir. -/
theorem Mem.Wrote.reservoir {m : Mem} (h : BuffersWf m) {a at' : Nat} {bs : List Byte} (hr : isReservoir at' = true)
    (hh : ∀ i, i < bs.length → m.home (a + i) = at' + i) : m.Wrote (m.writeReservoir at' bs) a bs := by
  obtain ⟨h1, h2⟩ := m.writeReservoir_spec (bs := bs) hr
  refine ⟨h.writeReservoir _ _, m.writeReservoir_map _ _, fun hw => Memory.wf_writes hw _ _, fun i b hi _ => ?_, fun x hx => h2 x ?_⟩
  · exact h1 i b _ hi (hh i (List.getElem?_eq_some_iff.1 hi).1)
  · rcases Nat.lt_or_ge (m.home x) at' with hx1 | hx1
    · exact .inl hx1
    · rcases Nat.lt_or_ge (m.home x) (at' + bs.length) with hx2 | hx2
      · have := hx (m.home x - at') (by omega)
        rw [hh _ (by omega)] at this
        exact absurd (by omega) this
      · exact .inr hx2

/-- A write of one byte. -/
theorem Mem.Wrote.byte {m : Mem} (h : BuffersWf m) (a : Nat) (b : Byte) :
    m.Wrote (if isReservoir (m.home a) then m.writeReservoir (m.home a) [b] else m.writeSector (m.home a / 64 * 64) (m.home a % 64) [b]) a [b] := by
  cases hr : isReservoir (m.home a) with
  | true =>
    refine Mem.Wrote.reservoir h hr fun i hi => ?_
    have : i = 0 := by simpa using hi
    subst this; rfl
  | false =>
    have e := m.home_hbm hr
    simp only [Bool.false_eq_true, if_false]
    rw [e]
    refine Mem.Wrote.sector h (by simp; omega) (by rw [e] at hr; exact hr) fun i hi => ?_
    have : i = 0 := by simpa using hi
    subst this; exact e

/-- A write byte by byte. -/
theorem Mem.Wrote.bytewise {m : Mem} (h : BuffersWf m) (a : Nat) (bs : List Byte) :
    m.Wrote (bs.zipIdx.foldl (fun (m : Mem) b =>
      let x := m.home (a + b.2)
      if isReservoir x then m.writeReservoir x [b.1] else m.writeSector (x / 64 * 64) (x % 64) [b.1]) m) a bs := by
  suffices ∀ (bs : List Byte) (k : Nat) (m : Mem), BuffersWf m → m.Wrote ((bs.zipIdx k).foldl (fun (m : Mem) b =>
      let x := m.home (a + b.2)
      if isReservoir x then m.writeReservoir x [b.1] else m.writeSector (x / 64 * 64) (x % 64) [b.1]) m) (a + k) bs from this bs 0 m h
  intro bs
  induction bs with
  | nil => exact fun k m h => Mem.Wrote.nil h _
  | cons b r ih =>
    intro k m h
    rw [List.zipIdx_cons, List.foldl_cons]
    have one := Mem.Wrote.byte h (a + k) b
    exact one.append (ih (k + 1) _ one.1)

theorem Mem.writePiece_spec {m : Mem} (h : BuffersWf m) {a : Nat} {bs : List Byte} (hlen : a % 64 + bs.length ≤ 64) :
    m.Wrote (m.writePiece a bs) a bs := by
  unfold Mem.writePiece
  dsimp only
  split
  · exact Mem.Wrote.bytewise h a bs
  · next hall =>
    have hall : ∀ i, i < bs.length → m.home (a + i) = m.home a + i := by simpa using hall
    split
    · next hr => exact Mem.Wrote.reservoir h hr hall
    · next hr =>
      have hr : isReservoir (m.home a) = false := by simpa using hr
      have e := m.home_hbm hr
      rw [e] at hall hr ⊢
      exact Mem.Wrote.sector h hlen hr hall

theorem Mem.writeFuel_spec (k : Nat) : ∀ {m : Mem} (_ : BuffersWf m) (a : Nat) (bs : List Byte), a % 64 + bs.length ≤ 64 * k →
    m.Wrote (Mem.writeFuel k m a bs) a bs := by
  induction k with
  | zero =>
    intro m h a bs hf
    have : bs = [] := List.eq_nil_of_length_eq_zero (by omega)
    subst this
    exact Mem.Wrote.nil h a
  | succ k ih =>
    intro m h a bs hf
    cases bs with
    | nil => exact Mem.Wrote.nil h a
    | cons b0 bs0 =>
      generalize hbs : b0 :: bs0 = bs at hf
      have hstep : Mem.writeFuel (k + 1) m a bs = Mem.writeFuel k (m.writePiece a (bs.take (64 - a % 64))) (a + (64 - a % 64)) (bs.drop (64 - a % 64)) := by
        rw [← hbs]; rfl
      rw [hstep]
      have one := Mem.writePiece_spec h (a := a) (bs := bs.take (64 - a % 64)) (by rw [List.length_take]; omega)
      by_cases hlen : bs.length ≤ 64 - a % 64
      · have hd : bs.drop (64 - a % 64) = [] := List.drop_eq_nil_of_le hlen
        rw [hd]
        rw [List.take_of_length_le hlen] at one ⊢
        cases k <;> exact one
      · have two := ih one.1 (a + (64 - a % 64)) (bs.drop (64 - a % 64)) (by rw [List.length_drop]; omega)
        have e : (bs.take (64 - a % 64)).length = 64 - a % 64 := by rw [List.length_take]; omega
        have := one.append (r := Mem.writeFuel k (m.writePiece a (bs.take (64 - a % 64))) (a + (64 - a % 64)) (bs.drop (64 - a % 64)))
          (cs := bs.drop (64 - a % 64)) (by rw [e]; exact two)
        rwa [List.take_append_drop] at this

/-- What a write does, wherever it lies (R212, R295, R304). -/
theorem Mem.write_spec {m : Mem} (h : BuffersWf m) (a : Nat) (bs : List Byte) : m.Wrote (m.write a bs) a bs := by
  unfold Mem.write
  split
  · next hr =>
    refine Mem.Wrote.reservoir h hr fun i _ => m.home_reservoir ?_
    simp [isReservoir] at hr ⊢; omega
  · exact Mem.writeFuel_spec _ h a bs (by omega)

/-- The canonical form needs no form of the buffers. -/
theorem Mem.wf_writePiece {m : Mem} (h : Memory.wf m.bytes = true) (a : Nat) (bs : List Byte) : Memory.wf (m.writePiece a bs).bytes = true := by
  unfold Mem.writePiece
  dsimp only
  split
  · rename_i hc
    clear hc
    generalize bs.zipIdx = l
    induction l generalizing m with
    | nil => exact h
    | cons e r ih =>
      rw [List.foldl_cons]
      refine ih ?_
      split
      · exact Memory.wf_writes h _ _
      · exact Mem.wf_writeSector h _ _ _
  · split
    · exact Memory.wf_writes h _ _
    · exact Mem.wf_writeSector h _ _ _

theorem Mem.wf_writeFuel (k : Nat) {m : Mem} (h : Memory.wf m.bytes = true) (a : Nat) (bs : List Byte) :
    Memory.wf (Mem.writeFuel k m a bs).bytes = true := by
  induction k generalizing m a bs with
  | zero => exact h
  | succ k ih =>
    cases bs with
    | nil => exact h
    | cons c r => exact ih (Mem.wf_writePiece h _ _) _ _

end Sys2Proof.Machine
end

