-- ==== Sys2Proof/Laws/Keeps.lean ====
section
/-!
SUPPORT. What every operation keeps: the canonical form of device memory, the form of the write-combining buffers and the fuses.
`Good b t` says that `t` keeps of `b` what these invariants need; each operation has one lemma. This file: the notions, and the operations of Machine/ in Ops, Flags, Operands, Kcp, Reset, Device, Session, Load, Send, Protect.
-/
namespace Sys2Proof.Machine

open Sys2Proof

/-- Memory `n` is in form where `m` is. -/
structure MGood (m n : Mem) : Prop where
  wf : Memory.wf m.bytes = true → Memory.wf n.bytes = true
  buf : BuffersWf m → BuffersWf n

/-- The fuses of `b` in a legal state (R427, R434, R435). -/
def FuseLegal (b : Boot) : Prop :=
  b.rollback ≤ 64 ∧ b.ownerState.length = 4 ∧ (∀ x ∈ b.ownerState, x = 0 ∨ x = 1 ∨ x = 3) ∧ (b.ownerState.filter (· = 1)).length ≤ 1

/-- Fuses only burn from `b` to `c`, and stay legal. -/
structure FGood (b c : Boot) : Prop where
  legal : FuseLegal b → FuseLegal c
  key : c.vendorKey = b.vendorKey
  rom : c.romDigest = b.romDigest
  roll : b.rollback ≤ c.rollback
  revoked : ∀ i : Nat, b.ownerState[i]? = some 3 → c.ownerState[i]? = some 3

/-- The state `t` keeps the forms of memory and of the fuses of `b`. -/
structure Good (b t : State) : Prop where
  mem : MGood b.mem t.mem
  boot : FGood b.boot t.boot

theorem MGood.refl (m : Mem) : MGood m m := ⟨id, id⟩
theorem FGood.refl (b : Boot) : FGood b b := ⟨id, rfl, rfl, Nat.le_refl _, fun _ h => h⟩
theorem Good.refl (s : State) : Good s s := ⟨.refl _, .refl _⟩
theorem MGood.trans {a b c : Mem} (h : MGood a b) (g : MGood b c) : MGood a c := ⟨fun x => g.wf (h.wf x), fun x => g.buf (h.buf x)⟩
theorem FGood.trans {a b c : Boot} (h : FGood a b) (g : FGood b c) : FGood a c :=
  ⟨fun x => g.legal (h.legal x), g.key.trans h.key, g.rom.trans h.rom, Nat.le_trans h.roll g.roll, fun i x => g.revoked i (h.revoked i x)⟩
theorem Good.trans {a b c : State} (h : Good a b) (g : Good b c) : Good a c := ⟨h.mem.trans g.mem, h.boot.trans g.boot⟩

/-- Memory with the same bytes and buffers. -/
theorem MGood.same {b m n : Mem} (h : MGood b m) (h1 : n.bytes = m.bytes) (h2 : n.wcb = m.wcb) : MGood b n :=
  ⟨fun x => h1 ▸ h.wf x, fun x => (h.buf x).congr h2.symm⟩

/-- A state with good memory and good fuses, field by field. -/
theorem Good.mk_iff {b : State} {a1 : List Instr} {a2 : Nat} {a3 : List Out} {a4 : Kcp} {a5 : Tab Ctx} {a6 : Tab Fence}
    {a7 : Tab ArrayUnit} {a8 : Mem} {a9 : Fabric} {a10 : Tab Rte} {a11 : Tab RsStruct} {a12 : Tab Fuu} {a13 : Tab Rec}
    {a14 : Faults} {a15 : Power} {a16 : Boot} {a17 : Mgmt} :
    Good b (State.mk a1 a2 a3 a4 a5 a6 a7 a8 a9 a10 a11 a12 a13 a14 a15 a16 a17) ↔
      MGood b.mem a8 ∧ FGood b.boot a16 := ⟨fun h => ⟨h.mem, h.boot⟩, fun h => ⟨h.1, h.2⟩⟩

/-- The bytes are in form where those of `b` are. -/
structure ByteGood (b : Mem) (x : Memory) : Prop where
  wf : Memory.wf b.bytes = true → Memory.wf x = true
/-- The buffers are in form where those of `b` are. -/
structure WcbGood (b : Mem) (w : Tab (List WcbEntry)) : Prop where
  wf : BuffersWf b → BuffersWf { wcb := w }

theorem MGood.mk_iff {b : Mem} {a1 : List Placed} {a2 : Memory} {a3 : List Nat} {a4 : Tab (List WcbEntry)} {a5 : Tab Channel}
    {a6 : List Nat} {a7 : Option Nat} {a8 : List Nat} {a9 : Tab Remap} {a10 : Tab Nat} {a11 : Tab Regulator} {a12 : Tab W64}
    {a13 : W64} {a14 : Bool} :
    MGood b (Mem.mk a1 a2 a3 a4 a5 a6 a7 a8 a9 a10 a11 a12 a13 a14) ↔ ByteGood b a2 ∧ WcbGood b a4 :=
  ⟨fun h => ⟨⟨h.wf⟩, ⟨fun x => (h.buf x).congr rfl⟩⟩, fun h => ⟨h.1.wf, fun x => (h.2.wf x).congr rfl⟩⟩
theorem ByteGood.of {b m : Mem} (h : MGood b m) : ByteGood b m.bytes := ⟨h.wf⟩
theorem WcbGood.of {b m : Mem} (h : MGood b m) : WcbGood b m.wcb := ⟨fun x => (h.buf x).congr rfl⟩

theorem FGood.mk_iff {b c : Boot} {a1 : Nat} {a2 : Bool} {a3 : Fin 2} {a7 : List (BitVec 256)} {a9 : List Byte} {a10 : FwSlot}
    {a11 : FwSlot} {a12 : Fin 2} {a13 : Bool} {a14 : Nat} {a15 : W32} {a16 : W32} {a17 : W32} {a18 : List (Nat × W32 × Bool)}
    {a19 : List Nat} {a20 : List PowerRecord} {a21 : Tab W64} {a22 : Option (Fin 2 × Nat)} {a23 : W64} {a24 : W64}
    {a25 : List (BitVec 48)} {a26 : List W64} {a27 : List Byte} {a28 : BitVec 256} {a29 : List Byte} {a30 : Byte}
    {a31 : SlotRecord} {a32 : Bool} {a33 : Bool} {a34 : List (BitVec 256)} {a35 : List W64} :
FGood b (Boot.mk a1 a2 a3 c.vendorKey c.romDigest c.rollback a7 c.ownerState a9 a10 a11 a12 a13 a14 a15 a16 a17 a18 a19 a20 a21 a22
    a23 a24 a25 a26 a27 a28 a29 a30 a31 a32 a33 a34 a35) ↔ FGood b c :=
  ⟨fun h => ⟨h.legal, h.key, h.rom, h.roll, h.revoked⟩, fun h => ⟨h.legal, h.key, h.rom, h.roll, h.revoked⟩⟩

theorem Good.ite {b : State} {c : Prop} [Decidable c] {x y : State} (h1 : c → Good b x) (h2 : ¬c → Good b y)
    : Good b (if c then x else y) := by
  split
  · exact h1 ‹_›
  · exact h2 ‹_›
theorem MGood.ite {b : Mem} {c : Prop} [Decidable c] {x y : Mem} (h1 : c → MGood b x) (h2 : ¬c → MGood b y)
    : MGood b (if c then x else y) := by
  split
  · exact h1 ‹_›
  · exact h2 ‹_›
theorem FGood.ite {b : Boot} {c : Prop} [Decidable c] {x y : Boot} (h1 : c → FGood b x) (h2 : ¬c → FGood b y)
    : FGood b (if c then x else y) := by
  split
  · exact h1 ‹_›
  · exact h2 ‹_›

theorem Good.foldl {α : Type} {b : State} {f : State → α → State} {l : List α} {s : State} (h : Good b s)
    (hf : ∀ t x, Good b t → Good b (f t x)) : Good b (l.foldl f s) := by
  induction l generalizing s with
  | nil => exact h
  | cons x r ih => exact ih (hf _ _ h)
theorem MGood.foldl {α : Type} {b : Mem} {f : Mem → α → Mem} {l : List α} {m : Mem} (h : MGood b m)
    (hf : ∀ t x, MGood b t → MGood b (f t x)) : MGood b (l.foldl f m) := by
  induction l generalizing m with
  | nil => exact h
  | cons x r ih => exact ih (hf _ _ h)
/-- A fold whose accumulator carries the state first. -/
theorem Good.foldl_fst {α β : Type} {b : State} {f : State × β → α → State × β} {l : List α} {s : State × β} (h : Good b s.1)
    (hf : ∀ t x, Good b t.1 → Good b (f t x).1) : Good b (l.foldl f s).1 := by
  induction l generalizing s with
  | nil => exact h
  | cons x r ih => exact ih (hf _ _ h)
theorem MGood.foldl_fst {α β : Type} {b : Mem} {f : Mem × β → α → Mem × β} {l : List α} {s : Mem × β} (h : MGood b s.1)
    (hf : ∀ t x, MGood b t.1 → MGood b (f t x).1) : MGood b (l.foldl f s).1 := by
  induction l generalizing s with
  | nil => exact h
  | cons x r ih => exact ih (hf _ _ h)

theorem Good.elim {α : Type} {b : State} {o : Option α} {y : State} {f : α → State} (h1 : Good b y) (h2 : ∀ x, Good b (f x)) :
    Good b (o.elim y f) := by
  cases o
  · exact h1
  · exact h2 _
theorem Good.getD {b : State} {o : Option State} {y : State} (h1 : Good b y) (h2 : ∀ x, o = some x → Good b x) : Good b (o.getD y) := by
  cases o
  · exact h1
  · exact h2 _ rfl

theorem MGood.write {b m : Mem} (h : MGood b m) (a : Nat) (bs : List Byte) : MGood b (m.write a bs) :=
  ⟨fun x => by
    have hw := h.wf x
    unfold Mem.write
    split
    · exact Memory.wf_writes hw _ _
    · exact Mem.wf_writeFuel _ hw _ _, fun x => (Mem.write_spec (h.buf x) a bs).1⟩

theorem MGood.dropEntry {b m : Mem} (h : MGood b m) (sec : Nat) : MGood b (m.dropEntry sec) := ⟨h.wf, fun x => (h.buf x).dropEntry sec⟩
theorem MGood.evict {b m : Mem} (h : MGood b m) (e : WcbEntry) : MGood b (m.evict e) :=
  ⟨fun x => Mem.wf_evict (h.wf x) e, fun x => (h.buf x).evict e⟩
theorem MGood.wholeSector {b m : Mem} (h : MGood b m) (sec : Nat) (l : List (Nat × Byte)) : MGood b (m.wholeSector sec l) :=
  ⟨fun x => Mem.wf_wholeSector (h.wf x) sec l, fun x => (h.buf x).congr (Mem.wholeSector_wcb ..).symm⟩
theorem MGood.openPoison {b m : Mem} (h : MGood b m) (a : Nat) : MGood b (m.openPoison a) := h.same (by simp) (by simp)

theorem MGood.evictOldest {b m : Mem} (h : MGood b m) (k : Nat) : MGood b (m.evictOldest k) := by
  unfold Mem.evictOldest
  split
  · exact h.evict _
  · exact h
theorem MGood.makeRoom {b m : Mem} (h : MGood b m) : MGood b m.makeRoom := by
  unfold Mem.makeRoom
  exact MGood.foldl h fun t x ht => MGood.foldl ht fun u _ hu => hu.evictOldest _
theorem MGood.ageEntries {b m : Mem} (h : MGood b m) : MGood b m.ageEntries := by
  refine ⟨h.wf, fun x k es hm => ?_⟩
  obtain ⟨⟨j, fs⟩, hj, he⟩ := List.mem_map.1 hm
  injection he with h1 h2
  subst h1 h2
  obtain ⟨g1, g2⟩ := h.buf x j fs hj
  refine ⟨by rw [List.map_map]; exact g1, fun e he => ?_⟩
  obtain ⟨y, hy, rfl⟩ := List.mem_map.1 he
  exact g2 y hy

theorem MGood.drain {b m : Mem} (h : MGood b m) (c : Nat) : MGood b (m.drain c) := by
  unfold Mem.drain
  refine MGood.makeRoom (MGood.foldl (h.same rfl rfl) fun t x ht => (ht.openPoison _).wholeSector _ _)

theorem MGood.flush {b m : Mem} (h : MGood b m) : MGood b m.flush := by
  unfold Mem.flush
  refine MGood.foldl (MGood.foldl h fun t e ht => ⟨fun x => ?_, fun x => (ht.buf x).congr rfl⟩) fun t e ht =>
    MGood.foldl ht fun t e ht => ht.evict e
  have hw := ht.wf x
  show Memory.wf (e.2.hold.foldl (fun x h => h.2.foldl (fun x p => Memory.write x (h.1 + p.1) p.2) x) t.bytes) = true
  generalize t.bytes = y at hw
  generalize e.2.hold = l
  induction l generalizing y with
  | nil => exact hw
  | cons a r ih => exact ih _ (Memory.wf_foldl a.2 a.1 hw)

theorem MGood.zeroFill {b m : Mem} (h : MGood b m) (a n : Nat) : MGood b (m.zeroFill a n) := by
  refine ⟨fun x => Memory.wf_clear (h.wf x) a n, fun x k es hm => ?_⟩
  obtain ⟨⟨j, fs⟩, hj, he⟩ := List.mem_map.1 hm
  injection he with h1 h2
  subst h1 h2
  obtain ⟨g1, g2⟩ := h.buf x j fs hj
  exact ⟨g1.sublist (List.filter_sublist.map _), fun e he => g2 e (List.mem_filter.1 he).1⟩

theorem MGood.moduleReset {b m : Mem} (h : MGood b m) (full : Bool) : MGood b (m.moduleReset full) := by
  refine ⟨fun x => ?_, fun x k es hm => by cases hm⟩
  unfold Mem.moduleReset
  dsimp only
  split
  · rfl
  · exact Memory.wf_filter (h.flush.wf x) _

theorem Good.of_mem {b t : State} {m : Mem} (h : Good b t) (hm : MGood t.mem m) : MGood b.mem m := h.mem.trans hm
theorem MGood.of_good {b t : State} (h : Good b t) : MGood b.mem t.mem := h.mem
theorem FGood.of_good {b t : State} (h : Good b t) : FGood b.boot t.boot := h.boot

theorem Good.of_id {b s : State} (h : Good b s) : Good b (id s) := h

theorem Good.map_getD {α : Type} {b : State} {o : Option α} {y : State} {f : α → State} (h1 : Good b y)
    (h2 : ∀ x, o = some x → Good b (f x)) :
    Good b ((o.map f).getD y) := by
  cases o
  · exact h1
  · exact h2 _ rfl
theorem ByteGood.filter {b : Mem} {x : Memory} (h : ByteGood b x) (p : Nat × Byte → Bool) : ByteGood b (List.filter p x) :=
  ⟨fun y => Memory.wf_filter (h.wf y) p⟩

/-- A property of the value that an option may hold. -/
structure OptAll {α : Type} (P : α → Prop) (o : Option α) : Prop where
  of : ∀ r, o = some r → P r
theorem OptAll.none' {α : Type} {P : α → Prop} : OptAll P none := ⟨fun _ h => nomatch h⟩
theorem OptAll.some' {α : Type} {P : α → Prop} {x : α} (h : P x) : OptAll P (some x) := ⟨fun _ e => by injection e with e; exact e ▸ h⟩
theorem OptAll.ite {α : Type} {P : α → Prop} {c : Prop} [Decidable c] {x y : Option α} (h1 : c → OptAll P x) (h2 : ¬c → OptAll P y) :
    OptAll P (if c then x else y) := by
  split
  · exact h1 ‹_›
  · exact h2 ‹_›
theorem OptAll.bind {α β : Type} {P : α → Prop} {Q : β → Prop} {o : Option α} {f : α → Option β} (h : OptAll P o)
    (hf : ∀ x, P x → OptAll Q (f x)) :
    OptAll Q (o.bind f) := by
  cases o
  · exact OptAll.none'
  · exact hf _ (h.of _ rfl)
theorem OptAll.map {α β : Type} {P : α → Prop} {Q : β → Prop} {o : Option α} {f : α → β} (h : OptAll P o) (hf : ∀ x, P x → Q (f x)) :
    OptAll Q (o.map f) := by
  cases o
  · exact OptAll.none'
  · exact OptAll.some' (hf _ (h.of _ rfl))
theorem Good.of_opt {b t : State} {o : Option State} (h : OptAll (Good b) o) (e : o = some t) : Good b t := h.of t e
theorem Good.of_opt1 {α : Type} {b t : State} {x : α} {o : Option (State × α)} (h : OptAll (fun r => Good b r.1) o) (e : o = some (t, x)) :
    Good b t := h.of _ e
theorem MGood.of_opt1 {α : Type} {b t : Mem} {x : α} {o : Option (Mem × α)} (h : OptAll (fun r => MGood b r.1) o) (e : o = some (t, x)) :
    MGood b t := h.of _ e

theorem Good.State_setCtx {b0 : State} (s : State) (c : Nat) (x : Ctx)
    (hs : Good b0 s) :
    Good b0 (State.setCtx s c x) := by
  unfold State.setCtx
  with_reducible repeat' first
      | assumption | intro _ | apply MGood.of_good | apply FGood.of_good | simp only [Good.mk_iff] | apply And.intro

theorem Good.State_onCtx {b0 : State} (s : State) (c : Nat) (f : Ctx → Ctx)
    (hs : Good b0 s) :
    Good b0 (State.onCtx s c f) := by
  unfold State.onCtx
  with_reducible repeat' first | assumption | intro _ | apply Good.State_setCtx | apply And.intro

theorem Good.State_setArray {b0 : State} (s : State) (n : Nat) (x : ArrayUnit)
    (hs : Good b0 s) :
    Good b0 (State.setArray s n x) := by
  unfold State.setArray
  with_reducible repeat' first
      | assumption | intro _ | apply MGood.of_good | apply FGood.of_good | simp only [Good.mk_iff] | apply And.intro

theorem Good.State_onArray {b0 : State} (s : State) (n : Nat) (f : ArrayUnit → ArrayUnit)
    (hs : Good b0 s) :
    Good b0 (State.onArray s n f) := by
  unfold State.onArray
  with_reducible repeat' first | assumption | intro _ | apply Good.State_setArray | apply And.intro

theorem Good.State_setRte {b0 : State} (s : State) (n : Nat) (x : Rte)
    (hs : Good b0 s) :
    Good b0 (State.setRte s n x) := by
  unfold State.setRte
  with_reducible repeat' first
      | assumption | intro _ | apply MGood.of_good | apply FGood.of_good | simp only [Good.mk_iff] | apply And.intro

theorem Good.State_setFuu {b0 : State} (s : State) (n : Nat) (x : Fuu)
    (hs : Good b0 s) :
    Good b0 (State.setFuu s n x) := by
  unfold State.setFuu
  with_reducible repeat' first
      | assumption | intro _ | apply MGood.of_good | apply FGood.of_good | simp only [Good.mk_iff] | apply And.intro

theorem Good.State_setPort {b0 : State} (s : State) (p : Nat) (x : Port)
    (hs : Good b0 s) :
    Good b0 (State.setPort s p x) := by
  unfold State.setPort
  with_reducible repeat' first
      | assumption | intro _ | apply MGood.of_good | apply FGood.of_good | simp only [Good.mk_iff] | apply And.intro

theorem Good.State_onPort {b0 : State} (s : State) (p : Nat) (f : Port → Port)
    (hs : Good b0 s) :
    Good b0 (State.onPort s p f) := by
  unfold State.onPort
  with_reducible repeat' first | assumption | intro _ | apply Good.State_setPort | apply And.intro

theorem MGood.Mem_setChan {b0 : Mem} (m : Mem) (c : Nat) (x : Channel)
    (hm : MGood b0 m) :
    MGood b0 (Mem.setChan m c x) := by
  unfold Mem.setChan
  with_reducible repeat' first
      | assumption | intro _ | apply ByteGood.of | apply WcbGood.of | simp only [MGood.mk_iff] | apply And.intro

theorem Good.State_setSession {b0 : State} (s : State) (slot : Nat) (x : Session)
    (hs : Good b0 s) :
    Good b0 (State.setSession s slot x) := by
  unfold State.setSession
  with_reducible repeat' first
      | assumption | intro _ | apply MGood.of_good | apply FGood.of_good | simp only [Good.mk_iff] | apply And.intro

theorem Good.State_countCtx {b0 : State} (s : State) (c i n : Nat)
    (hs : Good b0 s) :
    Good b0 (State.countCtx s c i n) := by
  unfold State.countCtx
  with_reducible repeat' first
      | assumption | intro _ | apply Good.State_onCtx | apply MGood.Mem_count | apply MGood.of_good | apply FGood.of_good
      | simp only [Good.mk_iff] | apply And.intro

theorem Good.State_countCtx9 {b0 : State} (s : State) (c i n : Nat)
    (hs : Good b0 s) :
    Good b0 (State.countCtx9 s c i n) := by
  unfold State.countCtx9
  with_reducible repeat' first
      | assumption | intro _ | apply Good.State_onCtx | apply MGood.Mem_count | apply MGood.of_good | apply FGood.of_good
      | simp only [Good.mk_iff] | apply And.intro

theorem Good.State_countFault {b0 : State} (s : State) (i n : Nat)
    (hs : Good b0 s) :
    Good b0 (State.countFault s i n) := by
  unfold State.countFault
  with_reducible repeat' first
      | assumption | intro _ | apply MGood.Mem_count | apply MGood.of_good | apply FGood.of_good | simp only [Good.mk_iff]
      | apply And.intro

theorem Good.State_countPort {b0 : State} (s : State) (p i n : Nat)
    (hs : Good b0 s) :
    Good b0 (State.countPort s p i n) := by
  unfold State.countPort
  with_reducible repeat' first
      | assumption | intro _ | apply Good.State_onPort | apply MGood.Mem_count | apply MGood.of_good | apply FGood.of_good
      | simp only [Good.mk_iff] | apply And.intro

theorem Good.State_countArray {b0 : State} (s : State) (a i n : Nat)
    (hs : Good b0 s) :
    Good b0 (State.countArray s a i n) := by
  unfold State.countArray
  with_reducible repeat' first
      | assumption | intro _ | apply Good.State_onArray | apply MGood.Mem_count | apply MGood.of_good | apply FGood.of_good
      | simp only [Good.mk_iff] | apply And.intro

theorem Good.State_countVxu {b0 : State} (s : State) (a i n : Nat) (hs : Good b0 s) : Good b0 (State.countVxu s a i n) := by
  unfold State.countVxu
  exact Good.State_onArray _ _ _ hs

theorem Good.State_countSweeps {b0 : State} (s : State) (u k n : Nat) (hs : Good b0 s) : Good b0 (State.countSweeps s u k n) := by
  unfold State.countSweeps
  exact Good.State_setFuu _ _ _ hs

theorem Good.State_drawn {b0 : State} (s : State)
    (hs : Good b0 s) :
    Good b0 (State.drawn s) := by
  unfold State.drawn
  with_reducible repeat' first
      | assumption | intro _ | apply MGood.of_good | apply FGood.of_good | simp only [Good.mk_iff] | apply And.intro

theorem Good.of_whenReady {b0 : State} {α : Type} (o : Option α) (f : α → State) (s : State)
    (hf : ∀ (y0 : α), Good b0 (f y0)) (hs : Good b0 s) :
    Good b0 (whenReady o f s) := by
  unfold whenReady
  with_reducible repeat' first
      | assumption | intro _ | apply hf | apply MGood.of_good | apply FGood.of_good | (refine Good.of_opt (o := _) ?_ (by assumption))
      | (refine Good.of_opt1 (o := _) ?_ (by assumption)) | simp only [Good.mk_iff] | apply And.intro | split

theorem Good.of_onlyIf {b0 : State} (b : Bool) (f : State → State) (s : State)
    (hf : ∀ (y0 : State), Good b0 y0 → Good b0 (f y0)) (hs : Good b0 s) :
    Good b0 (onlyIf b f s) := by
  unfold onlyIf
  with_reducible repeat' first | assumption | intro _ | apply hf | apply Good.ite | apply And.intro | split

theorem Good.State_emit {b0 : State} (s : State) (o : Out)
    (hs : Good b0 s) :
    Good b0 (State.emit s o) := by
  unfold State.emit
  with_reducible repeat' first
      | assumption | intro _ | apply MGood.of_good | apply FGood.of_good | simp only [Good.mk_iff] | apply And.intro

theorem Good.State_setHp {b0 : State} (s : State) (p : Fin 2) (x : HostPort)
    (hs : Good b0 s) :
    Good b0 (State.setHp s p x) := by
  unfold State.setHp
  with_reducible repeat' first
      | assumption | intro _ | apply Good.ite | apply MGood.of_good | apply FGood.of_good | simp only [Good.mk_iff] | apply And.intro
      | split

theorem Good.State_notify {b0 : State} (s : State) (slot : Nat) (op : W16) (ctx : BitVec 8) (params : List Byte)
    (hs : Good b0 s) :
    Good b0 (State.notify s slot op ctx params) := by
  unfold State.notify
  with_reducible repeat' first
      | assumption | intro _ | apply Good.KcpCmd_sequence | apply Good.State_setSession | apply Good.State_emit | apply Good.of_id
      | apply Good.ite | apply MGood.of_good | apply FGood.of_good | (refine Good.of_opt (o := _) ?_ (by assumption))
      | (refine Good.of_opt1 (o := _) ?_ (by assumption)) | simp only [Good.mk_iff] | apply And.intro | dsimp only | split

theorem Good.State_notifyAll {b0 : State} (s : State) (op : W16) (ctx : BitVec 8) (params : List Byte)
    (hs : Good b0 s) :
    Good b0 (State.notifyAll s op ctx params) := by
  unfold State.notifyAll
  with_reducible repeat' first
      | assumption | intro _ | apply Good.State_notify | apply Good.foldl | apply Good.foldl_fst | apply And.intro | split

theorem Good.State_raise {b0 : State} (s : State) (code : Nat) (ctx : Option Nat) (u : EventUnit) (arg : W64) (aux : W32) (fw : Bool)
    (hs : Good b0 s) : Good b0 (State.raise s code ctx u arg aux fw) := by
  unfold State.raise
  apply Good.State_notifyAll
  simp only [Good.mk_iff]
  exact ⟨hs.mem, hs.boot⟩

theorem Good.State_stuck {b0 : State} (s : State) (old : Nat) (addr lsb : Nat)
    (hs : Good b0 s) :
    Good b0 (State.stuck s old addr lsb) := by
  unfold State.stuck
  with_reducible repeat' first | assumption | intro _ | apply Good.State_raise | apply Good.ite | apply And.intro | split

theorem Good.State_alert {b0 : State} (s : State) (bit : Nat)
    (hs : Good b0 s) :
    Good b0 (State.alert s bit) := by
  unfold State.alert
  with_reducible repeat' first
      | assumption | intro _ | apply MGood.of_good | apply FGood.of_good | simp only [Good.mk_iff] | apply And.intro

theorem MGood.Mem_count {b0 : Mem} (m : Mem) (stack i n : Nat)
    (hm : MGood b0 m) :
    MGood b0 (Mem.count m stack i n) := by
  unfold Mem.count
  with_reducible repeat' first
      | assumption | intro _ | apply ByteGood.of | apply WcbGood.of | simp only [MGood.mk_iff] | apply And.intro

theorem MGood.Mem_noteSector {b0 : Mem} (m : Mem) (sec : Nat) (req : Nat → Bool)
    (hm : MGood b0 m) :
    MGood b0 (Mem.noteSector m sec req) := by
  unfold Mem.noteSector
  with_reducible repeat' first
      | assumption | intro _ | apply Good.State_take | apply Good.Repair_take | apply MGood.Mem_count | apply ByteGood.of
      | apply WcbGood.of | apply MGood.ite | (refine MGood.of_opt1 (o := _) ?_ (by assumption)) | simp only [MGood.mk_iff]
      | apply And.intro | dsimp only | split

theorem MGood.Mem_noteAll {b0 : Mem} (m : Mem) (rs : List (Nat × Nat))
    (hm : MGood b0 m) :
    MGood b0 (Mem.noteAll m rs) := by
  unfold Mem.noteAll
  with_reducible repeat' first
      | assumption | intro _ | apply MGood.Mem_noteSector | apply ByteGood.of | apply WcbGood.of | apply MGood.foldl
      | apply MGood.foldl_fst | apply And.intro

theorem MGood.Mem_note {b0 : Mem} (m : Mem) (a n : Nat)
    (hm : MGood b0 m) :
    MGood b0 (Mem.note m a n) := by
  unfold Mem.note
  with_reducible repeat' first
      | assumption | intro _ | apply MGood.Mem_noteAll | apply ByteGood.of | apply WcbGood.of | apply And.intro

theorem Good.State_write {b0 : State} (s : State) (a : Nat) (bs : List Byte)
    (hs : Good b0 s) :
    Good b0 (State.write s a bs) := by
  unfold State.write
  with_reducible repeat' first
      | assumption | intro _ | apply MGood.write | apply MGood.of_good | apply FGood.of_good | apply ByteGood.of | apply WcbGood.of
      | simp only [Good.mk_iff, MGood.mk_iff] | apply And.intro

theorem Good.State_write32 {b0 : State} (s : State) (a : Nat) (v : W32)
    (hs : Good b0 s) :
    Good b0 (State.write32 s a v) := by
  unfold State.write32
  with_reducible repeat' first | assumption | intro _ | apply MGood.write | apply Good.State_write | apply And.intro

theorem Good.State_write64 {b0 : State} (s : State) (a : Nat) (v : W64)
    (hs : Good b0 s) :
    Good b0 (State.write64 s a v) := by
  unfold State.write64
  with_reducible repeat' first | assumption | intro _ | apply MGood.write | apply Good.State_write | apply And.intro

theorem Good.State_writeRec {b0 : State} (s : State) (a : Nat) (r : Rec)
    (hs : Good b0 s) :
    Good b0 (State.writeRec s a r) := by
  unfold State.writeRec
  with_reducible repeat' first | assumption | intro _ | apply MGood.write | apply Good.State_write | apply And.intro

theorem Good.State_takeTokens {b0 : State} (s : State) (c : Nat) (dma : Bool) (rs : List (Nat × Nat))
    (hs : Good b0 s) :
    Good b0 (State.takeTokens s c dma rs) := by
  unfold State.takeTokens
  with_reducible repeat' first
      | assumption | intro _ | apply Good.ite | apply MGood.of_good | apply FGood.of_good | apply ByteGood.of | apply WcbGood.of
      | apply MGood.ite | simp only [Good.mk_iff, MGood.mk_iff] | apply And.intro | dsimp only | split

theorem Good.State_noteReads {b0 : State} (s : State) (rs : List (Nat × Nat))
    (hs : Good b0 s) :
    Good b0 (State.noteReads s rs) := by
  unfold State.noteReads
  with_reducible repeat' first
      | assumption | intro _ | apply MGood.Mem_noteAll | apply MGood.of_good | apply FGood.of_good | apply ByteGood.of | apply WcbGood.of
      | simp only [Good.mk_iff, MGood.mk_iff] | apply And.intro

theorem Good.State_fenceNotices {b0 : State} (s : State) (f : Nat) (owner : Nat) (v : W32)
    (hs : Good b0 s) :
    Good b0 (State.fenceNotices s f owner v) := by
  unfold State.fenceNotices
  with_reducible repeat' first
      | assumption | intro _ | apply Good.State_setSession | apply Good.State_notify | apply Good.ite | apply Good.foldl
      | apply Good.foldl_fst | apply MGood.of_good | apply FGood.of_good | (refine Good.of_opt (o := _) ?_ (by assumption))
      | (refine Good.of_opt1 (o := _) ?_ (by assumption)) | simp only [Good.mk_iff] | apply And.intro | dsimp only | split

theorem Good.State_signal {b0 : State} (s : State) (f : Nat) (inc : W32)
    (hs : Good b0 s) :
    Good b0 (State.signal s f inc) := by
  unfold State.signal
  with_reducible repeat' first
      | assumption | intro _ | apply Good.State_fenceNotices | apply Good.ite | apply MGood.of_good | apply FGood.of_good
      | (refine Good.of_opt (o := _) ?_ (by assumption)) | (refine Good.of_opt1 (o := _) ?_ (by assumption)) | simp only [Good.mk_iff]
      | apply And.intro | dsimp only | split

theorem Good.State_closeStreams {b0 : State} (s : State) (c : Nat)
    (hs : Good b0 s) :
    Good b0 (State.closeStreams s c) := by
  unfold State.closeStreams
  with_reducible repeat' first
      | assumption | intro _ | apply Good.ite | apply MGood.of_good | apply FGood.of_good | simp only [Good.mk_iff] | apply And.intro
      | split

theorem Good.State_purge {b0 : State} (s : State) (c : Nat) (cause : W32)
    (hs : Good b0 s) :
    Good b0 (State.purge s c cause) := by
  unfold State.purge
  with_reducible repeat' first
      | assumption | intro _ | apply Good.State_onCtx | apply Good.State_closeStreams | apply Good.ite | apply MGood.of_good
      | apply FGood.of_good | (refine Good.of_opt (o := _) ?_ (by assumption)) | (refine Good.of_opt1 (o := _) ?_ (by assumption))
      | simp only [Good.mk_iff] | apply And.intro | dsimp only | split

theorem Good.State_memUe {b0 : State} (s : State) (c a : Nat)
    (hs : Good b0 s) :
    Good b0 (State.memUe s c a) := by
  unfold State.memUe
  with_reducible repeat' first
      | assumption | intro _ | apply Good.State_raise | apply Good.State_purge | apply Good.ite | apply MGood.of_good | apply FGood.of_good
      | simp only [Good.mk_iff] | apply And.intro | dsimp only | split

theorem Good.State_badAddr {b0 : State} (s : State) (c : Nat) (u : EventUnit) (a : Nat)
    (hs : Good b0 s) :
    Good b0 (State.badAddr s c u a) := by
  unfold State.badAddr
  with_reducible repeat' first | assumption | intro _ | apply Good.State_raise | apply Good.State_purge | apply And.intro

theorem Good.State_guarded {b0 : State} (s : State) (c : Nat) (u : EventUnit) (r : Access) (f : State → State)
    (hs : Good b0 s) (hf : ∀ (y0 : State), Good b0 y0 → Good b0 (f y0)) :
    Good b0 (State.guarded s c u r f) := by
  unfold State.guarded
  with_reducible repeat' first
      | assumption | intro _ | apply hf | apply Good.State_badAddr | apply Good.State_memUe | apply MGood.of_good | apply FGood.of_good
      | apply ByteGood.of | apply WcbGood.of | (refine Good.of_opt (o := _) ?_ (by assumption))
      | (refine Good.of_opt1 (o := _) ?_ (by assumption)) | (refine MGood.of_opt1 (o := _) ?_ (by assumption))
      | simp only [Good.mk_iff, MGood.mk_iff] | apply And.intro | split

theorem Good.State_countFlags {b0 : State} (s : State) (c f : Nat)
    (hs : Good b0 s) :
    Good b0 (State.countFlags s c f) := by
  unfold State.countFlags
  with_reducible repeat' first
      | assumption | intro _ | apply Good.State_onCtx | apply MGood.Mem_count | apply Good.ite | apply Good.foldl | apply Good.foldl_fst
      | apply MGood.of_good | apply FGood.of_good | simp only [Good.mk_iff] | apply And.intro | split

theorem Good.State_captureFlags {b0 : State} (s : State) (c f : Nat) (x : FlagSite)
    (hs : Good b0 s) :
    Good b0 (State.captureFlags s c f x) := by
  unfold State.captureFlags
  with_reducible repeat' first
      | assumption | intro _ | apply Good.State_onCtx | apply Good.ite | apply MGood.of_good | apply FGood.of_good
      | simp only [Good.mk_iff] | apply And.intro | split

theorem Good.State_flagEvent {b0 : State} (s : State) (c f : Nat) (x : FlagSite)
    (hs : Good b0 s) :
    Good b0 (State.flagEvent s c f x) := by
  unfold State.flagEvent
  with_reducible repeat' first
      | assumption | intro _ | apply Good.State_countFlags | apply Good.State_captureFlags | apply Good.ite | apply And.intro | split

theorem MGood.Mem_writeNibbles {b0 : Mem} (m : Mem) (bit : Nat) (cs : List Nat)
    (hm : MGood b0 m) :
    MGood b0 (Mem.writeNibbles m bit cs) := by
  unfold Mem.writeNibbles
  with_reducible repeat' first
      | assumption | intro _ | apply MGood.write | apply Good.State_write | apply ByteGood.of | apply WcbGood.of | apply MGood.ite
      | simp only [MGood.mk_iff] | apply And.intro | dsimp only | split

theorem MGood.Mem_writeCodes {b0 : Mem} (m : Mem) (bits bit : Nat) (cs : List Nat)
    (hm : MGood b0 m) :
    MGood b0 (Mem.writeCodes m bits bit cs) := by
  unfold Mem.writeCodes
  with_reducible repeat' first
      | assumption | intro _ | apply MGood.Mem_writeNibbles | apply MGood.write | apply Good.State_write | apply ByteGood.of
      | apply WcbGood.of | apply MGood.ite | apply And.intro | split

theorem MGood.Mem_storeRun {b0 : Mem} (m : Mem) (t : Tensor) (i : Idx) (xs : List Num)
    (hm : MGood b0 m) :
    MGood b0 ((Mem.storeRun m t i xs)).1 := by
  unfold Mem.storeRun
  with_reducible repeat' first
      | assumption | intro _ | apply Good.State_take | apply Good.Repair_take | apply MGood.Mem_writeCodes | apply MGood.write
      | apply Good.State_write | apply ByteGood.of | apply WcbGood.of | apply MGood.foldl | apply MGood.foldl_fst
      | (refine MGood.of_opt1 (o := _) ?_ (by assumption)) | simp only [MGood.mk_iff] | apply And.intro | dsimp only | split

theorem MGood.Mem_putStatus {b0 : Mem} (m : Mem) (a : Nat) (f : Nat)
    (hm : MGood b0 m) :
    MGood b0 (Mem.putStatus m a f) := by
  unfold Mem.putStatus
  with_reducible repeat' first
      | assumption | intro _ | apply MGood.write | apply Good.State_write | apply ByteGood.of | apply WcbGood.of | apply MGood.ite
      | apply And.intro | split

theorem Good.of_done {b0 : State} (st : State) (params : List Byte)
    (hst : Good b0 st) :
    Good b0 ((done st params)).st := by
  unfold done
  with_reducible repeat' first | assumption | intro _ | apply And.intro

theorem Good.of_accepted {b0 : State} (st : State) (params : List Byte)
    (hst : Good b0 st) :
    Good b0 ((accepted st params)).st := by
  unfold accepted
  with_reducible repeat' first | assumption | intro _ | apply And.intro

theorem Good.State_sendReply {b0 : State} (s : State) (r : Reply)
    (hs : Good b0 s) :
    Good b0 (State.sendReply s r) := by
  unfold State.sendReply
  with_reducible repeat' first | assumption | intro _ | apply Good.State_emit | apply Good.ite | apply And.intro | split

theorem Good.State_answer {b0 : State} (s : State) (slot : Nat) (h : KcpHdr) (op : W16) (st : Status) (ps : List Byte)
    (hs : Good b0 s) :
    Good b0 (State.answer s slot h op st ps) := by
  unfold State.answer
  with_reducible repeat' first
      | assumption | intro _ | apply Good.State_setSession | apply Good.State_take | apply Good.Repair_take | apply Good.State_sendReply
      | apply MGood.of_good | apply FGood.of_good | (refine Good.of_opt (o := _) ?_ (by assumption))
      | (refine Good.of_opt1 (o := _) ?_ (by assumption)) | simp only [Good.mk_iff] | apply And.intro | dsimp only | split

theorem Good.State_take {b0 : State} (s : State) (slot : Nat) (h : KcpHdr)
    (hs : Good b0 s) :
    Good b0 (State.take s slot h) := by
  unfold State.take
  with_reducible repeat' first
      | assumption | intro _ | apply Good.State_setSession | apply Good.KcpCmd_sequence | apply MGood.of_good | apply FGood.of_good
      | (refine Good.of_opt (o := _) ?_ (by assumption)) | (refine Good.of_opt1 (o := _) ?_ (by assumption)) | simp only [Good.mk_iff]
      | apply And.intro | split

theorem Good.State_kcpDrop {b0 : State} (s : State)
    (hs : Good b0 s) :
    Good b0 (State.kcpDrop s) := by
  unfold State.kcpDrop
  with_reducible repeat' first
      | assumption | intro _ | apply MGood.of_good | apply FGood.of_good | simp only [Good.mk_iff] | apply And.intro

theorem Good.KcpCmd_run {b0 : State} (k : KcpCmd) (h : KcpHdr) (slot : Nat) (s : State) (hs : Good b0 s)
    (he : ∀ t, Good b0 t → Good b0 (k.effect t).st) (ha : ∀ t, Good b0 t → Good b0 (k.after t)) : Good b0 (k.run h slot s) := by
  unfold KcpCmd.run
  dsimp only
  split
  · exact Good.State_answer _ _ _ _ _ _ (Good.State_take _ _ _ hs)
  · exact ha _ (Good.State_answer _ _ _ _ _ _ (he _ (Good.State_take _ _ _ hs)))

theorem Good.KcpCmd_sequence {b0 : State} (k : KcpCmd) (self : Instr) (h : KcpHdr) (slot : Nat) (x : Session) (s : State) (hs : Good b0 s)
    (he : ∀ t, Good b0 t → Good b0 (k.effect t).st) (ha : ∀ t, Good b0 t → Good b0 (k.after t)) :
    Good b0 (k.sequence self h slot x s) := by
  unfold KcpCmd.sequence
  split
  · exact Good.KcpCmd_run _ _ _ _ hs he ha
  · split <;> exact Good.State_setSession _ _ _ hs
  · dsimp only
    split
    · exact Good.State_sendReply _ _ (Good.mk_iff.2 ⟨hs.mem, hs.boot⟩)
    · exact Good.mk_iff.2 ⟨hs.mem, hs.boot⟩
  · exact Good.State_kcpDrop _ hs

theorem Good.KcpCmd_arrive {b0 : State} {op : W16} {need : CtxNeed} {cls : CmdClass} {checks : State → List Check} {effect : State → KcpDone}
    {after : State → State} (self : Instr) (h : KcpHdr) (s : State) (hs : Good b0 s)
    (he : ∀ t, Good b0 t → Good b0 (effect t).st) (ha : ∀ t, Good b0 t → Good b0 (after t)) :
    Good b0 (KcpCmd.arrive { opcode := op, need := need, cls := cls, checks := checks, effect := effect, after := after } self h s) := by
  unfold KcpCmd.arrive
  split
  · exact hs
  · split
    · exact Good.State_sendReply _ _ (Good.mk_iff.2 ⟨hs.mem, hs.boot⟩)
    · split
      · exact Good.State_sendReply _ _ hs
      · split
        · exact hs
        · exact Good.KcpCmd_sequence _ _ _ _ _ _ hs he ha

theorem Good.State_closeSession {b0 : State} (s : State) (slot : Nat)
    (hs : Good b0 s) :
    Good b0 (State.closeSession s slot) := by
  unfold State.closeSession
  with_reducible repeat' first
      | assumption | intro _ | apply Good.of_id | apply Good.ite | apply MGood.of_good | apply FGood.of_good
      | (refine Good.of_opt (o := _) ?_ (by assumption)) | (refine Good.of_opt1 (o := _) ?_ (by assumption)) | simp only [Good.mk_iff]
      | apply And.intro | dsimp only | split

theorem Good.State_stopSolves {b0 : State} (s : State) (c : Nat)
    (hs : Good b0 s) :
    Good b0 (State.stopSolves s c) := by
  unfold State.stopSolves
  with_reducible repeat' first
      | assumption | intro _ | apply Good.ite | apply MGood.of_good | apply FGood.of_good | simp only [Good.mk_iff] | apply And.intro
      | split

theorem Good.State_removeWork {b0 : State} (s : State) (c : Nat)
    (hs : Good b0 s) :
    Good b0 (State.removeWork s c) := by
  unfold State.removeWork
  with_reducible repeat' first
      | assumption | intro _ | apply Good.ite | apply Good.foldl | apply Good.foldl_fst | apply MGood.of_good | apply FGood.of_good
      | simp only [Good.mk_iff] | apply And.intro | split

theorem Good.State_dropProgram {b0 : State} (s : State) (c : Nat)
    (hs : Good b0 s) :
    Good b0 (State.dropProgram s c) := by
  unfold State.dropProgram
  with_reducible repeat' first
      | assumption | intro _ | apply Good.State_removeWork | apply Good.State_onCtx | apply MGood.of_good | apply FGood.of_good
      | apply ByteGood.of | apply WcbGood.of | simp only [Good.mk_iff, MGood.mk_iff] | apply And.intro | dsimp only | split

theorem Good.State_freeContext {b0 : State} (s : State) (c : Nat)
    (hs : Good b0 s) :
    Good b0 (State.freeContext s c) := by
  unfold State.freeContext
  with_reducible repeat' first
      | assumption | intro _ | apply Good.State_dropProgram | apply Good.State_stopSolves | apply MGood.of_good | apply FGood.of_good
      | simp only [Good.mk_iff] | apply And.intro | dsimp only

theorem FGood.Boot_moduleReset {b0 : Boot} (b : Boot)
    (hb : FGood b0 b) :
    FGood b0 (Boot.moduleReset b) := by
  unfold Boot.moduleReset
  with_reducible repeat' first | assumption | intro _ | simp only [FGood.mk_iff] | apply And.intro

theorem Good.State_moduleReset {b0 : State} (s : State) (full : Bool)
    (hs : Good b0 s) :
    Good b0 (State.moduleReset s full) := by
  unfold State.moduleReset
  with_reducible repeat' first
      | assumption | intro _ | apply Good.State_raise | apply Good.State_drawn | apply MGood.moduleReset | apply FGood.Boot_moduleReset
      | apply Good.ite | apply MGood.of_good | apply FGood.of_good | apply ByteGood.of | apply WcbGood.of | apply MGood.ite
      | apply FGood.ite | simp only [Good.mk_iff, MGood.mk_iff, FGood.mk_iff] | apply And.intro | dsimp only | split

theorem Good.State_askReset {b0 : State} (s : State)
    (hs : Good b0 s) :
    Good b0 (State.askReset s) := by
  unfold State.askReset
  with_reducible repeat' first
      | assumption | intro _ | apply MGood.of_good | apply FGood.of_good | simp only [Good.mk_iff] | apply And.intro

theorem Good.of_execDevInfo {b0 : State} (h : KcpHdr) (s : State)
    (hs : Good b0 s) :
    ∀ z, execDevInfo h s = .next z → Good b0 z := by
  unfold execDevInfo
  intro z hz
  injection hz with hz
  subst hz
  with_reducible repeat' first
      | assumption | intro _ | apply Good.KcpCmd_arrive | apply Good.of_done | apply Good.of_id | apply MGood.of_good | apply FGood.of_good
      | apply ByteGood.of | apply WcbGood.of | simp only [Good.mk_iff, MGood.mk_iff, FGood.mk_iff] | apply And.intro

theorem Good.State_applySetting {b0 : State} (s : State) (id : Nat) (v : W64)
    (hs : Good b0 s) :
    Good b0 (State.applySetting s id v) := by
  unfold State.applySetting
  with_reducible repeat' first
      | assumption | intro _ | apply Good.State_setHp | apply Good.State_onPort | apply Good.of_id | apply Good.ite | apply Good.foldl
      | apply Good.foldl_fst | apply MGood.of_good | apply FGood.of_good | apply FGood.ite | simp only [Good.mk_iff, FGood.mk_iff]
      | apply And.intro | dsimp only | split

theorem Good.State_deepSleep {b0 : State} (s : State)
    (hs : Good b0 s) :
    Good b0 (State.deepSleep s) := by
  unfold State.deepSleep
  with_reducible repeat' first
      | assumption | intro _ | apply MGood.flush | apply Good.ite | apply MGood.of_good | apply FGood.of_good | apply ByteGood.of
      | apply WcbGood.of | apply MGood.ite | simp only [Good.mk_iff, MGood.mk_iff] | apply And.intro | dsimp only | split

theorem Good.of_powerStateEffect {b0 : State} (v : W64) (s : State)
    (hs : Good b0 s) :
    Good b0 ((powerStateEffect v s)).st := by
  unfold powerStateEffect
  with_reducible repeat' first
      | assumption | intro _ | apply Good.State_deepSleep | apply Good.KcpCmd_run | apply Good.ite | apply MGood.of_good
      | apply FGood.of_good | simp only [Good.mk_iff] | apply And.intro | dsimp only | split

theorem Good.of_execPowerState {b0 : State} (h : KcpHdr) (v : W64) (s : State)
    (hs : Good b0 s) :
    ∀ z, execPowerState h v s = .next z → Good b0 z := by
  unfold execPowerState powerStateCmd
  intro z hz
  injection hz with hz
  subst hz
  with_reducible repeat' first
      | assumption | intro _ | apply Good.KcpCmd_arrive | apply Good.of_powerStateEffect | apply Good.of_id | apply Good.ite
      | apply Good.foldl | apply Good.foldl_fst | apply Good.elim | apply Good.map_getD | apply Good.getD | apply MGood.ite
      | apply MGood.foldl | apply MGood.foldl_fst | apply MGood.of_good | apply ByteGood.of | apply ByteGood.filter | apply WcbGood.of
      | apply FGood.ite | apply FGood.of_good | apply OptAll.none' | apply OptAll.some' | apply OptAll.ite
      | (refine Good.of_opt (o := _) ?_ (by assumption)) | (refine Good.of_opt1 (o := _) ?_ (by assumption))
      | (refine MGood.of_opt1 (o := _) ?_ (by assumption)) | simp only [Good.mk_iff, MGood.mk_iff, FGood.mk_iff] | apply And.intro
      | dsimp only | split

theorem Good.of_execDevSet {b0 : State} (h : KcpHdr) (id : W16) (v : W64) (s : State)
    (hs : Good b0 s) :
    ∀ z, execDevSet h id v s = .next z → Good b0 z := by
  unfold execDevSet powerStateCmd
  intro z hz
  injection hz with hz
  subst hz
  with_reducible repeat' first
      | assumption | intro _ | apply Good.KcpCmd_arrive | apply Good.of_done | apply Good.State_applySetting
      | apply Good.of_powerStateEffect | apply Good.of_id | apply Good.ite | apply MGood.of_good | apply FGood.of_good
      | simp only [Good.mk_iff] | apply And.intro | split

theorem Good.of_execDevGet {b0 : State} (h : KcpHdr) (id : W16) (s : State)
    (hs : Good b0 s) :
    ∀ z, execDevGet h id s = .next z → Good b0 z := by
  unfold execDevGet
  intro z hz
  injection hz with hz
  subst hz
  with_reducible repeat' first
      | assumption | intro _ | apply Good.KcpCmd_arrive | apply Good.of_done | apply Good.of_id | apply MGood.of_good | apply FGood.of_good
      | simp only [Good.mk_iff] | apply And.intro

theorem Good.of_execRegulatorSet {b0 : State} (h : KcpHdr) (partition : BitVec 8) (rate : W16) (bucket : W32) (s : State)
    (hs : Good b0 s) :
    ∀ z, execRegulatorSet h partition rate bucket s = .next z → Good b0 z := by
  unfold execRegulatorSet
  intro z hz
  injection hz with hz
  subst hz
  with_reducible repeat' first
      | assumption | intro _ | apply Good.KcpCmd_arrive | apply Good.of_done | apply Good.of_id | apply Good.ite | apply MGood.of_good
      | apply FGood.of_good | apply ByteGood.of | apply WcbGood.of | apply MGood.ite | simp only [Good.mk_iff, MGood.mk_iff]
      | apply And.intro | dsimp only | split

theorem Good.State_setSeconds {b0 : State} (s : State) (sec : BitVec 34) (nanos : Nat)
    (hs : Good b0 s) :
    Good b0 (State.setSeconds s sec nanos) := by
  unfold State.setSeconds
  with_reducible repeat' first
      | assumption | intro _ | apply Good.State_raise | apply MGood.of_good | apply FGood.of_good | simp only [Good.mk_iff]
      | apply And.intro | dsimp only

theorem Good.of_execTimeSet {b0 : State} (h : KcpHdr) (seconds : W64) (s : State)
    (hs : Good b0 s) :
    ∀ z, execTimeSet h seconds s = .next z → Good b0 z := by
  unfold execTimeSet
  intro z hz
  injection hz with hz
  subst hz
  with_reducible repeat' first
      | assumption | intro _ | apply Good.KcpCmd_arrive | apply Good.of_accepted | apply Good.of_done | apply Good.State_setSeconds
      | apply Good.of_id | apply Good.ite | apply MGood.of_good | apply FGood.of_good | simp only [Good.mk_iff] | apply And.intro | split

theorem Good.of_execDevReset {b0 : State} (h : KcpHdr) (level : BitVec 8) (s : State)
    (hs : Good b0 s) :
    ∀ z, execDevReset h level s = .next z → Good b0 z := by
  unfold execDevReset
  intro z hz
  injection hz with hz
  subst hz
  with_reducible repeat' first
      | assumption | intro _ | apply Good.KcpCmd_arrive | apply Good.of_done | apply Good.State_askReset | apply MGood.moduleReset
      | apply FGood.Boot_moduleReset | apply Good.State_moduleReset | apply Good.of_id | apply Good.ite | apply MGood.of_good
      | apply FGood.of_good | simp only [Good.mk_iff] | apply And.intro | split

theorem Good.of_execCtxCreate {b0 : State} (h : KcpHdr) (priority partition : BitVec 8) (s : State)
    (hs : Good b0 s) :
    ∀ z, execCtxCreate h priority partition s = .next z → Good b0 z := by
  unfold execCtxCreate
  intro z hz
  injection hz with hz
  subst hz
  with_reducible repeat' first
      | assumption | intro _ | apply Good.KcpCmd_arrive | apply Good.of_done | apply Good.State_setCtx | apply Good.of_id
      | apply MGood.of_good | apply FGood.of_good | simp only [Good.mk_iff] | apply And.intro

theorem Good.of_execCtxDestroy {b0 : State} (h : KcpHdr) (s : State)
    (hs : Good b0 s) :
    ∀ z, execCtxDestroy h s = .next z → Good b0 z := by
  unfold execCtxDestroy
  intro z hz
  injection hz with hz
  subst hz
  with_reducible repeat' first
      | assumption | intro _ | apply Good.KcpCmd_arrive | apply Good.of_done | apply Good.State_freeContext | apply Good.of_id
      | apply MGood.of_good | apply FGood.of_good | simp only [Good.mk_iff] | apply And.intro

theorem Good.of_execCtxQuery {b0 : State} (h : KcpHdr) (s : State)
    (hs : Good b0 s) :
    ∀ z, execCtxQuery h s = .next z → Good b0 z := by
  unfold execCtxQuery
  intro z hz
  injection hz with hz
  subst hz
  with_reducible repeat' first
      | assumption | intro _ | apply Good.KcpCmd_arrive | apply Good.of_done | apply Good.of_id | apply MGood.of_good | apply FGood.of_good
      | simp only [Good.mk_iff] | apply And.intro | dsimp only

theorem Good.of_execCtxPurge {b0 : State} (h : KcpHdr) (s : State)
    (hs : Good b0 s) :
    ∀ z, execCtxPurge h s = .next z → Good b0 z := by
  unfold execCtxPurge
  intro z hz
  injection hz with hz
  subst hz
  with_reducible repeat' first
      | assumption | intro _ | apply Good.KcpCmd_arrive | apply Good.State_purge | apply Good.of_accepted | apply Good.of_id
      | apply MGood.of_good | apply FGood.of_good | simp only [Good.mk_iff] | apply And.intro

theorem Good.of_execCtxPriority {b0 : State} (h : KcpHdr) (priority : BitVec 8) (s : State)
    (hs : Good b0 s) :
    ∀ z, execCtxPriority h priority s = .next z → Good b0 z := by
  unfold execCtxPriority
  intro z hz
  injection hz with hz
  subst hz
  with_reducible repeat' first
      | assumption | intro _ | apply Good.KcpCmd_arrive | apply Good.of_done | apply Good.State_onCtx | apply Good.of_id
      | apply MGood.of_good | apply FGood.of_good | simp only [Good.mk_iff] | apply And.intro

theorem Good.State_sendChunk {b0 : State} (s : State) (slot : Nat) (t : Stream)
    (hs : Good b0 s) :
    Good b0 (State.sendChunk s slot t) := by
  unfold State.sendChunk
  with_reducible repeat' first
      | assumption | intro _ | apply Good.State_noteReads | apply Good.State_notify | apply Good.State_setSession | apply Good.ite
      | apply MGood.of_good | apply FGood.of_good | apply ByteGood.of | apply WcbGood.of | apply MGood.ite
      | (refine Good.of_opt (o := _) ?_ (by assumption)) | (refine Good.of_opt1 (o := _) ?_ (by assumption))
      | (refine MGood.of_opt1 (o := _) ?_ (by assumption)) | simp only [Good.mk_iff, MGood.mk_iff] | apply And.intro | dsimp only | split

theorem Good.State_pump {b0 : State} (fuel : Nat) (s : State) (slot : Nat)
    (hs : Good b0 s) :
    Good b0 (State.pump fuel s slot) := by
  induction fuel generalizing s slot with
  | zero => unfold State.pump; assumption
  | succ k ih =>
    unfold State.pump
    with_reducible repeat' first
        | assumption | intro _ | apply ih | apply Good.State_setSession | apply Good.State_memUe | apply Good.State_sendChunk
        | apply Good.ite | apply MGood.of_good | apply FGood.of_good | apply ByteGood.of | apply WcbGood.of | apply MGood.ite
        | (refine Good.of_opt (o := _) ?_ (by assumption)) | (refine Good.of_opt1 (o := _) ?_ (by assumption))
        | (refine MGood.of_opt1 (o := _) ?_ (by assumption)) | simp only [Good.mk_iff, MGood.mk_iff] | apply And.intro | split

theorem Good.State_issueChallenge {b0 : State} (s : State) (h : KcpHdr)
    (hs : Good b0 s) :
    Good b0 ((State.issueChallenge s h)).1 := by
  unfold State.issueChallenge
  with_reducible repeat' first
      | assumption | intro _ | apply Good.State_drawn | apply MGood.of_good | apply FGood.of_good | simp only [Good.mk_iff]
      | apply And.intro | dsimp only

theorem Good.State_openSession {b0 : State} (s : State) (h : KcpHdr) (slot : Nat)
    (hs : Good b0 s) :
    Good b0 (State.openSession s h slot) := by
  unfold State.openSession
  with_reducible repeat' first
      | assumption | intro _ | apply Good.State_setSession | apply Good.State_drawn | apply Good.State_sendReply | apply Good.of_id
      | apply MGood.of_good | apply FGood.of_good | simp only [Good.mk_iff] | apply And.intro | dsimp only

theorem Good.of_sessionOpenZero {b0 : State} (h : KcpHdr) (challenge sig : List Byte) (sigOk : Bool) (s : State)
    (hs : Good b0 s) :
    Good b0 (sessionOpenZero h challenge sig sigOk s) := by
  unfold sessionOpenZero
  with_reducible repeat' first
      | assumption | intro _ | apply Good.State_openSession | apply Good.State_issueChallenge | apply Good.State_sendReply
      | apply Good.State_raise | apply Good.ite | apply MGood.of_good | apply FGood.of_good
      | (refine Good.of_opt (o := _) ?_ (by assumption)) | (refine Good.of_opt1 (o := _) ?_ (by assumption)) | simp only [Good.mk_iff]
      | apply And.intro | dsimp only | split

theorem Good.of_execSessionOpen {b0 : State} (h : KcpHdr) (challenge sig : List Byte) (sigOk : Bool) (s : State)
    (hs : Good b0 s) :
    ∀ z, execSessionOpen h challenge sig sigOk s = .next z → Good b0 z := by
  unfold execSessionOpen
  intro z hz
  injection hz with hz
  subst hz
  with_reducible repeat' first
      | assumption | intro _ | apply Good.State_sendReply | apply Good.of_sessionOpenZero | apply Good.KcpCmd_arrive | apply Good.of_done
      | apply Good.of_id | apply Good.ite | apply MGood.of_good | apply FGood.of_good | simp only [Good.mk_iff] | apply And.intro | split

theorem Good.of_execSessionClose {b0 : State} (h : KcpHdr) (s : State)
    (hs : Good b0 s) :
    ∀ z, execSessionClose h s = .next z → Good b0 z := by
  unfold execSessionClose
  intro z hz
  injection hz with hz
  subst hz
  with_reducible repeat' first
      | assumption | intro _ | apply Good.KcpCmd_arrive | apply Good.of_done | apply Good.State_closeSession | apply Good.of_id
      | apply Good.elim | apply MGood.of_good | apply FGood.of_good | simp only [Good.mk_iff] | apply And.intro

theorem Good.of_execSessionTimeout {b0 : State} (slot : Fin 16) (s : State)
    (hs : Good b0 s) :
    ∀ z, execSessionTimeout slot s = .next z → Good b0 z := by
  unfold execSessionTimeout
  intro z hz
  injection hz with hz
  subst hz
  with_reducible repeat' first | assumption | intro _ | apply Good.State_closeSession | apply And.intro

theorem Good.of_execChallengeExpiry {b0 : State} (addr : BitVec 128) (port : W16) (s : State)
    (hs : Good b0 s) :
    ∀ z, execChallengeExpiry addr port s = .next z → Good b0 z := by
  unfold execChallengeExpiry
  intro z hz
  injection hz with hz
  subst hz
  with_reducible repeat' first
      | assumption | intro _ | apply MGood.of_good | apply FGood.of_good | simp only [Good.mk_iff] | apply And.intro

theorem Good.State_sendWaiting {b0 : State} (s : State) (slot : Nat)
    (hs : Good b0 s) :
    Good b0 (State.sendWaiting s slot) := by
  unfold State.sendWaiting
  with_reducible repeat' first
      | assumption | intro _ | apply Good.State_take | apply Good.Repair_take | apply Good.State_setSession | apply Good.State_emit
      | apply Good.of_id | apply Good.ite | apply Good.foldl | apply Good.foldl_fst | apply MGood.of_good | apply FGood.of_good
      | (refine Good.of_opt (o := _) ?_ (by assumption)) | (refine Good.of_opt1 (o := _) ?_ (by assumption)) | simp only [Good.mk_iff]
      | apply And.intro | dsimp only | split

theorem Good.of_execHostAck {b0 : State} (h : KcpHdr) (s : State)
    (hs : Good b0 s) :
    ∀ z, execHostAck h s = .next z → Good b0 z := by
  unfold execHostAck
  intro z hz
  injection hz with hz
  subst hz
  with_reducible repeat' first
      | assumption | intro _ | apply Good.State_sendReply | apply Good.State_setSession | apply Good.KcpCmd_sequence
      | apply Good.State_sendWaiting | apply Good.State_pump | apply Good.ite | apply MGood.of_good | apply FGood.of_good
      | (refine Good.of_opt (o := _) ?_ (by assumption)) | (refine Good.of_opt1 (o := _) ?_ (by assumption)) | simp only [Good.mk_iff]
      | apply And.intro | dsimp only | split

theorem Good.of_execD2hResend {b0 : State} (slot : Fin 16) (sequence : W32) (s : State)
    (hs : Good b0 s) :
    ∀ z, execD2hResend slot sequence s = .next z → Good b0 z := by
  unfold execD2hResend
  intro z hz
  injection hz with hz
  subst hz
  with_reducible repeat' first
      | assumption | intro _ | apply Good.KcpCmd_sequence | apply Good.State_emit | apply Good.of_id | apply Good.ite | apply MGood.of_good
      | apply FGood.of_good | (refine Good.of_opt (o := _) ?_ (by assumption)) | (refine Good.of_opt1 (o := _) ?_ (by assumption))
      | simp only [Good.mk_iff] | apply And.intro | split

theorem Good.State_hostPortUp {b0 : State} (s : State) (p : Fin 2) (rate100 lane1Lost : Bool)
    (hs : Good b0 s) :
    Good b0 (State.hostPortUp s p rate100 lane1Lost) := by
  unfold State.hostPortUp
  with_reducible repeat' first
      | assumption | intro _ | apply Good.State_setHp | apply Good.State_emit | apply Good.ite | apply MGood.of_good | apply FGood.of_good
      | simp only [Good.mk_iff] | apply And.intro | dsimp only | split

theorem Good.of_execHostPortLinkUp {b0 : State} (port : Fin 2) (common400 lane1 : Bool) (s : State)
    (hs : Good b0 s) :
    ∀ z, execHostPortLinkUp port common400 lane1 s = .next z → Good b0 z := by
  unfold execHostPortLinkUp
  intro z hz
  injection hz with hz
  subst hz
  with_reducible repeat' first | assumption | intro _ | apply Good.of_onlyIf | apply Good.State_hostPortUp | apply And.intro

theorem Good.of_execHostPortLaneLoss {b0 : State} (port lane : Fin 2) (s : State)
    (hs : Good b0 s) :
    ∀ z, execHostPortLaneLoss port lane s = .next z → Good b0 z := by
  unfold execHostPortLaneLoss
  intro z hz
  injection hz with hz
  subst hz
  with_reducible repeat' first
      | assumption | intro _ | apply Good.of_onlyIf | apply Good.State_setHp | apply Good.ite | apply MGood.of_good | apply FGood.of_good
      | simp only [Good.mk_iff] | apply And.intro | split

theorem Good.of_execHostPortRetry400G {b0 : State} (port : Fin 2) (trained : Bool) (s : State)
    (hs : Good b0 s) :
    ∀ z, execHostPortRetry400G port trained s = .next z → Good b0 z := by
  unfold execHostPortRetry400G
  intro z hz
  injection hz with hz
  subst hz
  with_reducible repeat' first
      | assumption | intro _ | apply Good.of_onlyIf | apply Good.State_setHp | apply MGood.of_good | apply FGood.of_good
      | simp only [Good.mk_iff] | apply And.intro

theorem Good.of_execDhcpRenew {b0 : State} (port : Fin 2) (addr gateway : W32) (prefixLen : BitVec 8) (leaseSec : W32) (s : State)
    (hs : Good b0 s) :
    ∀ z, execDhcpRenew port addr gateway prefixLen leaseSec s = .next z → Good b0 z := by
  unfold execDhcpRenew
  intro z hz
  injection hz with hz
  subst hz
  with_reducible repeat' first
      | assumption | intro _ | apply Good.of_onlyIf | apply Good.State_emit | apply Good.State_setHp | apply MGood.of_good
      | apply FGood.of_good | simp only [Good.mk_iff] | apply And.intro

theorem Good.of_execRouterAdvertisement {b0 : State} (port : Fin 2) (pfx : BitVec 64) (s : State)
    (hs : Good b0 s) :
    ∀ z, execRouterAdvertisement port pfx s = .next z → Good b0 z := by
  unfold execRouterAdvertisement
  intro z hz
  injection hz with hz
  subst hz
  with_reducible repeat' first
      | assumption | intro _ | apply Good.of_onlyIf | apply Good.State_setHp | apply MGood.of_good | apply FGood.of_good
      | simp only [Good.mk_iff] | apply And.intro | dsimp only

theorem Good.of_execNeighborDiscovery {b0 : State} (port : Fin 2) (msg : NdMessage) (s : State)
    (hs : Good b0 s) :
    ∀ z, execNeighborDiscovery port msg s = .next z → Good b0 z := by
  unfold execNeighborDiscovery
  intro z hz
  injection hz with hz
  subst hz
  with_reducible repeat' first
      | assumption | intro _ | apply Good.of_onlyIf | apply Good.State_emit | apply Good.State_setHp | apply Good.ite | apply MGood.of_good
      | apply FGood.of_good | (refine Good.of_opt (o := _) ?_ (by assumption)) | (refine Good.of_opt1 (o := _) ?_ (by assumption))
      | simp only [Good.mk_iff] | apply And.intro | split

theorem Good.of_execArpRequest {b0 : State} (port : Fin 2) (target sender : W32) (s : State)
    (hs : Good b0 s) :
    ∀ z, execArpRequest port target sender s = .next z → Good b0 z := by
  unfold execArpRequest
  intro z hz
  injection hz with hz
  subst hz
  with_reducible repeat' first | assumption | intro _ | apply Good.of_onlyIf | apply Good.State_emit | apply And.intro

theorem Good.of_execIcmpEchoRequest {b0 : State} (port : Fin 2) (v6 : Bool) (dst src : BitVec 128) (payload : List Byte) (s : State)
    (hs : Good b0 s) :
    ∀ z, execIcmpEchoRequest port v6 dst src payload s = .next z → Good b0 z := by
  unfold execIcmpEchoRequest
  intro z hz
  injection hz with hz
  subst hz
  with_reducible repeat' first
      | assumption | intro _ | apply Good.of_onlyIf | apply Good.State_emit | apply Good.ite | apply MGood.of_good | apply FGood.of_good
      | simp only [Good.mk_iff] | apply And.intro | dsimp only | split

theorem Good.of_execKcpPacketDrop {b0 : State} (port : Fin 2) (reason : DropReason) (s : State)
    (hs : Good b0 s) :
    ∀ z, execKcpPacketDrop port reason s = .next z → Good b0 z := by
  unfold execKcpPacketDrop
  intro z hz
  injection hz with hz
  subst hz
  with_reducible repeat' first
      | assumption | intro _ | apply Good.of_onlyIf | apply Good.State_kcpDrop | apply Good.KcpCmd_arrive | apply Good.of_done
      | apply Good.of_id | apply MGood.of_good | apply FGood.of_good | (refine Good.of_opt (o := _) ?_ (by assumption))
      | (refine Good.of_opt1 (o := _) ?_ (by assumption)) | simp only [Good.mk_iff] | apply And.intro | split

theorem Good.State_emitBlock {b0 : State} (s : State) (c : Nat) (q : Plan) (u : Rec) (b gen : Nat)
    (hs : Good b0 s) :
    Good b0 (State.emitBlock s c q u b gen) := by
  unfold State.emitBlock
  with_reducible repeat' first
      | assumption | intro _ | apply Good.State_memUe | apply MGood.write | apply Good.State_write | apply Good.State_flagEvent
      | apply Good.State_countSweeps | apply MGood.of_good | apply FGood.of_good | apply ByteGood.of | apply WcbGood.of
      | (refine Good.of_opt (o := _) ?_ (by assumption)) | (refine Good.of_opt1 (o := _) ?_ (by assumption))
      | (refine MGood.of_opt1 (o := _) ?_ (by assumption)) | simp only [Good.mk_iff, MGood.mk_iff] | apply And.intro | dsimp only | split

theorem MGood.Mem_initFactors {b0 : Mem} (m : Mem) (d : Rec)
    (hm : MGood b0 m) :
    MGood b0 (Mem.initFactors m d) := by
  unfold Mem.initFactors
  with_reducible repeat' first
      | assumption | intro _ | apply MGood.zeroFill | apply MGood.write | apply Good.State_write | apply ByteGood.of | apply WcbGood.of
      | apply MGood.foldl | apply MGood.foldl_fst | simp only [MGood.mk_iff] | apply And.intro | dsimp only

theorem Good.State_grantLease {b0 : State} (s : State) (c : Nat) (w : W64) (hs : Good b0 s) : OptAll (Good b0) (s.grantLease c w) := by
  constructor
  intro r hr
  unfold State.grantLease at hr
  dsimp only at hr
  split at hr
  · cases hr
  · injection hr with hr
    subst hr
    exact Good.State_onArray _ _ _ hs

theorem Good.State_grantLeases {b0 : State} (s : State) (c : Nat) (ls : List W64) (hs
    : Good b0 s) : ∀ r, s.grantLeases c ls = .inr r → Good b0 r := by
  unfold State.grantLeases
  generalize ls.zipIdx = l
  suffices ∀ (x : Nat ⊕ State), (∀ r, x = .inr r → Good b0 r) → ∀ r, l.foldl (fun (r : Nat ⊕ State) l =>
    match r with
    | .inl i => .inl i
    | .inr s =>
      if 16 * (s.arraysInService - 1) < s.leasedTiles + (leaseOf l.1).2.1 then .inl l.2 else
      match s.grantLease c l.1 with
      | some t => .inr t
      | none => .inl l.2) x = .inr r → Good b0 r from this (.inr s) fun r hr => by injection hr with hr; exact hr ▸ hs
  induction l with
  | nil => exact fun x hx => hx
  | cons y l ih =>
    intro x hx
    rw [List.foldl_cons]
    refine ih _ fun r hr => ?_
    split at hr
    · cases hr
    · split at hr
      · cases hr
      · split at hr
        · injection hr with hr
          subst hr
          exact (Good.State_grantLease _ _ _ (hx _ rfl)).of _ ‹_›
        · cases hr

theorem Good.State_capacity {b0 : State} (s : State) (c : Nat) (q : Plan) (hs
    : Good b0 s) : ∀ r, s.capacity c q = .inr r → Good b0 r.1 := by
  intro r hr
  unfold State.capacity at hr
  dsimp only at hr
  split at hr
  · cases hr
  · next h _ _ =>
    injection hr with hr
    subst hr
    exact Good.State_grantLeases _ _ _ hs _ h
  · cases hr

theorem Good.State_writeLists {b0 : State} (s : State) (l : Rec) (gs : List (Nat × (Nat × Bool)))
    (hs : Good b0 s) :
    Good b0 (State.writeLists s l gs) := by
  unfold State.writeLists
  with_reducible repeat' first
      | assumption | intro _ | apply MGood.write | apply Good.State_write | apply Good.ite | apply Good.foldl | apply Good.foldl_fst
      | apply MGood.of_good | apply FGood.of_good | simp only [Good.mk_iff] | apply And.intro | dsimp only | split

theorem Good.State_emitAll {b0 : State} (s : State) (c : Nat) (q : Plan) (gen : Nat)
    (hs : Good b0 s) :
    Good b0 (State.emitAll s c q gen) := by
  unfold State.emitAll
  with_reducible repeat' first
      | assumption | intro _ | apply Good.State_emitBlock | apply Good.ite | apply Good.foldl | apply Good.foldl_fst | apply And.intro
      | split

theorem Good.State_install {b0 : State} (s : State) (c : Nat) (q : Plan) (base : Nat) (rs : List (Nat × Nat × Nat)) (keepFactors : Bool)
    (hs : Good b0 s) :
    Good b0 (State.install s c q base rs keepFactors) := by
  unfold State.install
  with_reducible repeat' first
      | assumption | intro _ | apply MGood.Mem_initFactors | apply MGood.zeroFill | apply Good.State_writeLists | apply Good.State_onCtx
      | apply Good.ite | apply Good.foldl | apply Good.foldl_fst | apply MGood.of_good | apply FGood.of_good | apply ByteGood.of
      | apply WcbGood.of | apply MGood.ite | apply MGood.foldl | apply MGood.foldl_fst | (refine Good.of_opt (o := _) ?_ (by assumption))
      | (refine Good.of_opt1 (o := _) ?_ (by assumption)) | (refine MGood.of_opt1 (o := _) ?_ (by assumption))
      | simp only [Good.mk_iff, MGood.mk_iff] | apply And.intro | dsimp only | split

theorem Good.State_tryLoad {b0 : State} (s : State) (c dir entries : Nat) (keep : Bool) (hs : Good b0 s) :
    OptAll (fun r => Good b0 r.1) (s.tryLoad c dir entries keep).st := by
  unfold State.tryLoad
  dsimp only
  split
  · exact OptAll.none'
  · split
    · exact OptAll.none'
    · split
      · exact OptAll.none'
      · next h =>
        split
        · exact OptAll.none'
        · exact OptAll.some' (Good.State_install _ _ _ _ _ _ (Good.State_capacity _ _ _ hs _ h))

theorem Good.State_reportLoad {b0 : State} (s : State) (c : Nat) (session : W32) (st : Status) (f : Fail)
    (hs : Good b0 s) :
    Good b0 (State.reportLoad s c session st f) := by
  unfold State.reportLoad
  with_reducible repeat' first
      | assumption | intro _ | apply Good.State_onCtx | apply Good.State_notify | apply MGood.of_good | apply FGood.of_good
      | (refine Good.of_opt (o := _) ?_ (by assumption)) | (refine Good.of_opt1 (o := _) ?_ (by assumption)) | simp only [Good.mk_iff]
      | apply And.intro | dsimp only | split

theorem Good.of_execProgLoad {b0 : State} (h : KcpHdr) (dir : W64) (entries : W16) (s : State)
    (hs : Good b0 s) :
    ∀ z, execProgLoad h dir entries s = .next z → Good b0 z := by
  unfold execProgLoad
  intro z hz
  injection hz with hz
  subst hz
  with_reducible repeat' first
      | assumption | intro _ | apply Good.KcpCmd_arrive | apply Good.of_accepted | apply Good.State_onCtx | apply Good.of_id
      | apply MGood.of_good | apply FGood.of_good | simp only [Good.mk_iff] | apply And.intro

theorem Good.State_endLoad {b0 : State} (s : State) (c : Nat) (nxt : CtxState)
    (hs : Good b0 s) :
    Good b0 (State.endLoad s c nxt) := by
  unfold State.endLoad
  with_reducible repeat' first
      | assumption | intro _ | apply Good.State_onCtx | apply MGood.of_good | apply FGood.of_good | simp only [Good.mk_iff]
      | apply And.intro

theorem Good.of_execProgUnload {b0 : State} (h : KcpHdr) (s : State)
    (hs : Good b0 s) :
    ∀ z, execProgUnload h s = .next z → Good b0 z := by
  unfold execProgUnload
  intro z hz
  injection hz with hz
  subst hz
  with_reducible repeat' first
      | assumption | intro _ | apply Good.KcpCmd_arrive | apply Good.of_done | apply Good.State_dropProgram | apply Good.State_onCtx
      | apply Good.of_id | apply MGood.of_good | apply FGood.of_good | simp only [Good.mk_iff] | apply And.intro

theorem Good.of_execProgQuery {b0 : State} (h : KcpHdr) (s : State)
    (hs : Good b0 s) :
    ∀ z, execProgQuery h s = .next z → Good b0 z := by
  unfold execProgQuery
  intro z hz
  injection hz with hz
  subst hz
  with_reducible repeat' first
      | assumption | intro _ | apply Good.KcpCmd_arrive | apply Good.of_done | apply Good.of_id | apply MGood.of_good | apply FGood.of_good
      | simp only [Good.mk_iff] | apply And.intro

theorem Good.State_freeUnitsAt {b0 : State} (s : State) (p vc units : Nat)
    (hs : Good b0 s) :
    Good b0 (State.freeUnitsAt s p vc units) := by
  unfold State.freeUnitsAt
  with_reducible repeat' first
      | assumption | intro _ | apply Good.State_onPort | apply MGood.of_good | apply FGood.of_good | simp only [Good.mk_iff]
      | apply And.intro | split

theorem Good.State_leaveBuffer {b0 : State} (s : State) (f : TxFrame)
    (hs : Good b0 s) :
    Good b0 (State.leaveBuffer s f) := by
  unfold State.leaveBuffer
  with_reducible repeat' first
      | assumption | intro _ | apply Good.State_freeUnitsAt | apply MGood.of_good | apply FGood.of_good
      | (refine Good.of_opt (o := _) ?_ (by assumption)) | (refine Good.of_opt1 (o := _) ?_ (by assumption)) | simp only [Good.mk_iff]
      | apply And.intro | split

theorem Good.State_pumpPort {b0 : State} (fuel : Nat) (s : State) (p : Nat)
    (hs : Good b0 s) :
    Good b0 (State.pumpPort fuel s p) := by
  induction fuel generalizing s p with
  | zero => unfold State.pumpPort; assumption
  | succ k ih =>
    unfold State.pumpPort
    with_reducible repeat' first
        | assumption | intro _ | apply ih | apply Good.State_setPort | apply Good.State_countPort | apply Good.State_emit
        | apply Good.State_leaveBuffer | apply Good.ite | apply MGood.of_good | apply FGood.of_good
        | (refine Good.of_opt (o := _) ?_ (by assumption)) | (refine Good.of_opt1 (o := _) ?_ (by assumption)) | simp only [Good.mk_iff]
        | apply And.intro | dsimp only | split

theorem Good.State_pumpOut {b0 : State} (s : State) (p : Nat)
    (hs : Good b0 s) :
    Good b0 (State.pumpOut s p) := by
  unfold State.pumpOut
  with_reducible repeat' first | assumption | intro _ | apply Good.State_pumpPort | apply And.intro

theorem Good.State_forward {b0 : State} (s : State) (f : TxFrame) (hs : Good b0 s) : OptAll (Good b0) (s.forward f) := by
  constructor
  intro r hr
  unfold State.forward at hr
  split at hr
  · cases hr
  · split at hr
    · cases hr
    · split at hr
      · cases hr
      · dsimp only at hr
        split at hr
        · cases hr
        · injection hr with hr
          subst hr
          exact Good.State_pumpOut _ _ (Good.State_onPort _ _ _ hs)

theorem Good.State_route {b0 : State} (s : State) (x : Parked)
    (hs : Good b0 s) :
    Good b0 (State.route s x) := by
  unfold State.route
  with_reducible repeat' first
      | assumption | intro _ | apply Good.State_forward | apply Good.State_countCtx | apply Good.ite | apply MGood.of_good
      | apply FGood.of_good | (refine Good.of_opt (o := _) ?_ (by assumption)) | (refine Good.of_opt1 (o := _) ?_ (by assumption))
      | simp only [Good.mk_iff] | apply And.intro | split

theorem Good.State_unpark {b0 : State} (s : State)
    (hs : Good b0 s) :
    Good b0 (State.unpark s) := by
  unfold State.unpark
  with_reducible repeat' first
      | assumption | intro _ | apply Good.State_route | apply Good.foldl | apply Good.foldl_fst | apply MGood.of_good | apply FGood.of_good
      | simp only [Good.mk_iff] | apply And.intro

theorem Good.State_setTx {b0 : State} (s : State) (cls dst : Nat) (x : TxStream)
    (hs : Good b0 s) :
    Good b0 (State.setTx s cls dst x) := by
  unfold State.setTx
  with_reducible repeat' first
      | assumption | intro _ | apply MGood.of_good | apply FGood.of_good | simp only [Good.mk_iff] | apply And.intro

theorem Good.State_injectFuel {b0 : State} (fuel : Nat) (s : State) (cls dst : Nat)
    (hs : Good b0 s) :
    Good b0 (State.injectFuel fuel s cls dst) := by
  induction fuel generalizing s cls dst with
  | zero => unfold State.injectFuel; assumption
  | succ k ih =>
    unfold State.injectFuel
    with_reducible repeat' first
        | assumption | intro _ | apply ih | apply Good.State_setTx | apply Good.State_forward | apply Good.ite | apply MGood.of_good
        | apply FGood.of_good | (refine Good.of_opt (o := _) ?_ (by assumption)) | (refine Good.of_opt1 (o := _) ?_ (by assumption))
        | simp only [Good.mk_iff] | apply And.intro | dsimp only | split

theorem Good.State_inject {b0 : State} (s : State) (cls dst : Nat)
    (hs : Good b0 s) :
    Good b0 (State.inject s cls dst) := by
  unfold State.inject
  with_reducible repeat' first | assumption | intro _ | apply Good.State_injectFuel | apply And.intro

theorem Good.State_injectAll {b0 : State} (s : State)
    (hs : Good b0 s) :
    Good b0 (State.injectAll s) := by
  unfold State.injectAll
  with_reducible repeat' first
      | assumption | intro _ | apply Good.State_unpark | apply Good.State_inject | apply Good.ite | apply Good.foldl | apply Good.foldl_fst
      | apply MGood.of_good | apply FGood.of_good | simp only [Good.mk_iff] | apply And.intro | dsimp only | split

theorem Good.State_sendMessage {b0 : State} (s : State) (c dst cls : Nat) (op : Byte) (tc : Nat) (stripe : Option Nat) (parts : List (W64 × List Byte))
    (hs : Good b0 s) :
    Good b0 (State.sendMessage s c dst cls op tc stripe parts) := by
  unfold State.sendMessage
  with_reducible repeat' first
      | assumption | intro _ | apply Good.State_setTx | apply Good.State_inject | apply Good.State_raise | apply Good.ite
      | apply Good.map_getD | apply Good.getD | apply MGood.of_good | apply FGood.of_good | simp only [Good.mk_iff] | apply And.intro
      | dsimp only | split

theorem Good.State_sendControl {b0 : State} (s : State) (dst : Nat) (op : Byte) (tc : Nat) (arg : W64) (ack : Option (Nat × BitVec 24))
    (hs : Good b0 s) :
    Good b0 (State.sendControl s dst op tc arg ack) := by
  unfold State.sendControl
  with_reducible repeat' first
      | assumption | intro _ | apply Good.State_route | apply MGood.of_good | apply FGood.of_good
      | (refine Good.of_opt (o := _) ?_ (by assumption)) | (refine Good.of_opt1 (o := _) ?_ (by assumption)) | simp only [Good.mk_iff]
      | apply And.intro | dsimp only | split

theorem MGood.Mem_writeSpans {b0 : Mem} (m : Mem) (ss : List (Nat × Nat)) (off : Nat) (bs : List Byte) (hm : MGood b0 m) :
    MGood b0 (m.writeSpans ss off bs) := by
  induction ss generalizing m off bs with
  | nil => exact hm
  | cons x r ih =>
    unfold Mem.writeSpans
    split
    · exact ih _ _ _ hm
    · refine ih _ _ _ ?_
      split
      · exact hm
      · exact hm.write _ _

theorem Good.State_onFolds {b0 : State} (s : State) (c : Nat) (f : Folds → Folds)
    (hs : Good b0 s) :
    Good b0 (State.onFolds s c f) := by
  unfold State.onFolds
  with_reducible repeat' first
      | assumption | intro _ | apply Good.State_onCtx | apply MGood.of_good | apply FGood.of_good | simp only [Good.mk_iff]
      | apply And.intro

theorem Good.State_refold {b0 : State} (s : State) (c : Nat) (q : Plan) (u : Rec) (b : Nat)
    (hs : Good b0 s) :
    Good b0 (State.refold s c q u b) := by
  unfold State.refold
  with_reducible repeat' first
      | assumption | intro _ | apply Good.State_onFolds | apply Good.foldl | apply Good.foldl_fst | apply MGood.of_good
      | apply FGood.of_good | apply ByteGood.of | apply WcbGood.of | apply MGood.foldl | apply MGood.foldl_fst
      | simp only [Good.mk_iff, MGood.mk_iff] | apply And.intro | dsimp only

theorem Good.State_refoldShard {b0 : State} (s : State) (c : Nat) (q : Plan) (t : Shard)
    (hs : Good b0 s) :
    Good b0 (State.refoldShard s c q t) := by
  unfold State.refoldShard
  with_reducible repeat' first
      | assumption | intro _ | apply MGood.Mem_count | apply Good.State_refold | apply Good.foldl | apply Good.foldl_fst
      | apply MGood.of_good | apply FGood.of_good | (refine Good.of_opt (o := _) ?_ (by assumption))
      | (refine Good.of_opt1 (o := _) ?_ (by assumption)) | simp only [Good.mk_iff] | apply And.intro | split

theorem Good.State_refoldAll {b0 : State} (s : State) (c : Nat) (q : Plan)
    (hs : Good b0 s) :
    Good b0 (State.refoldAll s c q) := by
  unfold State.refoldAll
  with_reducible repeat' first
      | assumption | intro _ | apply Good.State_refold | apply Good.foldl | apply Good.foldl_fst | apply And.intro

theorem Good.State_foldChange {b0 : State} (s : State) (c : Nat) (q : Plan) (u : Rec) (b : Nat) (old new : List Byte)
    (hs : Good b0 s) :
    Good b0 (State.foldChange s c q u b old new) := by
  unfold State.foldChange
  with_reducible repeat' first
      | assumption | intro _ | apply Good.State_onFolds | apply Good.foldl | apply Good.foldl_fst | apply MGood.of_good
      | apply FGood.of_good | simp only [Good.mk_iff] | apply And.intro | dsimp only

theorem Good.State_noteHost {b0 : State} (s : State) (c a n : Nat)
    (hs : Good b0 s) :
    Good b0 (State.noteHost s c a n) := by
  unfold State.noteHost
  with_reducible repeat' first
      | assumption | intro _ | apply Good.State_onCtx | apply Good.ite | apply MGood.of_good | apply FGood.of_good
      | simp only [Good.mk_iff] | apply And.intro | split

theorem Good.State_copyLabel {b0 : State} (s : State) (c : Nat) (q : Plan) (u : Rec) (b step : Nat)
    (hs : Good b0 s) :
    Good b0 (State.copyLabel s c q u b step) := by
  unfold State.copyLabel
  with_reducible repeat' first
      | assumption | intro _ | apply Good.State_onFolds | apply Good.ite | apply Good.foldl | apply Good.foldl_fst | apply MGood.of_good
      | apply FGood.of_good | simp only [Good.mk_iff] | apply And.intro | dsimp only | split

theorem Good.State_parityFrames {b0 : State} (s : State) (c dst h : Nat) (x : W32 × Nat × Nat × List Byte)
    (hs : Good b0 s) :
    Good b0 (State.parityFrames s c dst h x) := by
  unfold State.parityFrames
  with_reducible repeat' first
      | assumption | intro _ | apply Good.State_sendMessage | apply Good.State_countCtx9 | apply MGood.of_good | apply FGood.of_good
      | simp only [Good.mk_iff] | apply And.intro | dsimp only

theorem Good.State_pumpParity {b0 : State} (fuel : Nat) (s : State) (c : Nat) (l r : Rec) (h : Nat)
    (hs : Good b0 s) :
    Good b0 (State.pumpParity fuel s c l r h) := by
  induction fuel generalizing s c l r h with
  | zero => unfold State.pumpParity; assumption
  | succ k ih =>
    unfold State.pumpParity
    with_reducible repeat' first
        | assumption | intro _ | apply ih | apply Good.State_onCtx | apply Good.State_parityFrames | apply Good.ite | apply MGood.of_good
        | apply FGood.of_good | (refine Good.of_opt (o := _) ?_ (by assumption)) | (refine Good.of_opt1 (o := _) ?_ (by assumption))
        | simp only [Good.mk_iff] | apply And.intro | dsimp only | split

theorem Good.State_ackBlocks {b0 : State} (s : State) (c : Nat) (q : Plan) (nos : List Nat)
    (hs : Good b0 s) :
    Good b0 (State.ackBlocks s c q nos) := by
  unfold State.ackBlocks
  with_reducible repeat' first
      | assumption | intro _ | apply Good.State_onCtx | apply Good.ite | apply MGood.of_good | apply FGood.of_good
      | (refine Good.of_opt (o := _) ?_ (by assumption)) | (refine Good.of_opt1 (o := _) ?_ (by assumption)) | simp only [Good.mk_iff]
      | apply And.intro | dsimp only | split

theorem Good.State_sendParity {b0 : State} (s : State) (c : Nat) (q : Plan) (u : Rec) (b step : Nat) (delta : List Byte)
    (hs : Good b0 s) :
    Good b0 (State.sendParity s c q u b step delta) := by
  unfold State.sendParity
  with_reducible repeat' first
      | assumption | intro _ | apply Good.State_ackBlocks | apply Good.State_onCtx | apply Good.State_pumpParity | apply Good.ite
      | apply MGood.of_good | apply FGood.of_good | (refine Good.of_opt (o := _) ?_ (by assumption))
      | (refine Good.of_opt1 (o := _) ?_ (by assumption)) | simp only [Good.mk_iff] | apply And.intro | dsimp only | split

theorem Good.State_groupLost {b0 : State} (s : State) (pos : Nat)
    (hs : Good b0 s) :
    Good b0 (State.groupLost s pos) := by
  unfold State.groupLost
  with_reducible repeat' first
      | assumption | intro _ | apply Good.State_onFolds | apply Good.State_onCtx | apply Good.State_raise | apply Good.ite
      | apply Good.foldl | apply Good.foldl_fst | apply MGood.of_good | apply FGood.of_good
      | (refine Good.of_opt (o := _) ?_ (by assumption)) | (refine Good.of_opt1 (o := _) ?_ (by assumption)) | simp only [Good.mk_iff]
      | apply And.intro | dsimp only | split

theorem Good.State_peerStorage {b0 : State} (s : State) (d : Rec) (same : Bool)
    (hs : Good b0 s) :
    Good b0 (State.peerStorage s d same) := by
  unfold State.peerStorage
  with_reducible repeat' first
      | assumption | intro _ | apply MGood.write | apply Good.State_write | apply Good.State_drawn | apply Good.ite | apply Good.foldl
      | apply Good.foldl_fst | apply MGood.of_good | apply FGood.of_good | apply ByteGood.of | apply WcbGood.of | apply MGood.ite
      | apply MGood.foldl | apply MGood.foldl_fst | simp only [Good.mk_iff, MGood.mk_iff] | apply And.intro | dsimp only | split

end Sys2Proof.Machine
end

