-- ==== Sys2Proof/Laws/KeepsBoard.lean ====
section
/-!
SUPPORT. What every operation keeps, after Laws/Keeps.lean: the operations of Machine/ in Faults, Power, Clock, Identity, Boot, Channels.
-/
namespace Sys2Proof.Machine

open Sys2Proof

theorem Good.of_execEventRead {b0 : State} (h : KcpHdr) (first : W32) (count : W16) (s : State)
    (hs : Good b0 s) :
    ∀ z, execEventRead h first count s = .next z → Good b0 z := by
  unfold execEventRead
  intro z hz
  injection hz with hz
  subst hz
  with_reducible repeat' first
      | assumption | intro _ | apply Good.KcpCmd_arrive | apply Good.of_done | apply MGood.Mem_count | apply Good.of_id
      | apply MGood.of_good | apply FGood.of_good | simp only [Good.mk_iff] | apply And.intro

theorem Good.of_execSnapshotRead {b0 : State} (h : KcpHdr) (offset : W64) (bytes : W32) (s : State)
    (hs : Good b0 s) :
    ∀ z, execSnapshotRead h offset bytes s = .next z → Good b0 z := by
  unfold execSnapshotRead
  intro z hz
  injection hz with hz
  subst hz
  with_reducible repeat' first
      | assumption | intro _ | apply Good.KcpCmd_arrive | apply Good.of_done | apply Good.of_id | apply MGood.of_good | apply FGood.of_good
      | simp only [Good.mk_iff] | apply And.intro

theorem Good.State_startDump {b0 : State} (s : State) (cause : W16)
    (hs : Good b0 s) :
    Good b0 (State.startDump s cause) := by
  unfold State.startDump
  with_reducible repeat' first
      | assumption | intro _ | apply MGood.of_good | apply FGood.of_good | simp only [Good.mk_iff] | apply And.intro | dsimp only

theorem Good.State_finishDump {b0 : State} (s : State) (d : Dump) (seqOnly : Bool)
    (hs : Good b0 s) :
    Good b0 (State.finishDump s d seqOnly) := by
  unfold State.finishDump
  with_reducible repeat' first
      | assumption | intro _ | apply MGood.write | apply Good.State_write | apply Good.State_drawn | apply Good.State_raise
      | apply MGood.of_good | apply FGood.of_good | simp only [Good.mk_iff] | apply And.intro | dsimp only

theorem Good.State_writeDump {b0 : State} (s : State) (cause : W16) (seqOnly : Bool)
    (hs : Good b0 s) :
    Good b0 (State.writeDump s cause seqOnly) := by
  unfold State.writeDump
  with_reducible repeat' first
      | assumption | intro _ | apply Good.State_startDump | apply Good.State_finishDump | apply Good.ite | apply MGood.of_good
      | apply FGood.of_good | (refine Good.of_opt (o := _) ?_ (by assumption)) | (refine Good.of_opt1 (o := _) ?_ (by assumption))
      | simp only [Good.mk_iff] | apply And.intro | dsimp only | split

theorem Good.of_execDumpWrite {b0 : State} (cause : W16) (sequencerOnly : Bool) (s : State)
    (hs : Good b0 s) :
    ∀ z, execDumpWrite cause sequencerOnly s = .next z → Good b0 z := by
  unfold execDumpWrite
  intro z hz
  injection hz with hz
  subst hz
  with_reducible repeat' first | assumption | intro _ | apply Good.State_writeDump | apply And.intro

theorem Good.of_execDumpUnitTimeout {b0 : State} (unitKind : Fin 16) (unitIndex : Fin 1024) (s : State)
    (hs : Good b0 s) :
    ∀ z, execDumpUnitTimeout unitKind unitIndex s = .next z → Good b0 z := by
  unfold execDumpUnitTimeout
  intro z hz
  injection hz with hz
  subst hz
  with_reducible repeat' first
      | assumption | intro _ | apply Good.of_whenReady | apply Good.ite | apply MGood.of_good | apply FGood.of_good
      | simp only [Good.mk_iff] | apply And.intro | dsimp only | split

theorem Good.of_execDumpTake {b0 : State} (h : KcpHdr) (s : State)
    (hs : Good b0 s) :
    ∀ z, execDumpTake h s = .next z → Good b0 z := by
  unfold execDumpTake
  intro z hz
  injection hz with hz
  subst hz
  with_reducible repeat' first
      | assumption | intro _ | apply Good.KcpCmd_arrive | apply Good.of_done | apply Good.State_startDump | apply Good.of_id
      | apply MGood.of_good | apply FGood.of_good | simp only [Good.mk_iff] | apply And.intro

theorem Good.of_execDumpRead {b0 : State} (h : KcpHdr) (offset : W64) (bytes : W32) (s : State)
    (hs : Good b0 s) :
    ∀ z, execDumpRead h offset bytes s = .next z → Good b0 z := by
  unfold execDumpRead
  intro z hz
  injection hz with hz
  subst hz
  with_reducible repeat' first
      | assumption | intro _ | apply Good.KcpCmd_arrive | apply Good.of_done | apply MGood.Mem_note | apply Good.of_id
      | apply MGood.of_good | apply FGood.of_good | apply ByteGood.of | apply WcbGood.of | simp only [Good.mk_iff, MGood.mk_iff]
      | apply And.intro

theorem Good.State_startRestart {b0 : State} (s : State) (cause : CoreFault)
    (hs : Good b0 s) :
    Good b0 (State.startRestart s cause) := by
  unfold State.startRestart
  with_reducible repeat' first
      | assumption | intro _ | apply Good.State_countFault | apply Good.State_writeDump | apply Good.State_askReset | apply Good.ite
      | apply MGood.of_good | apply FGood.of_good | simp only [Good.mk_iff] | apply And.intro | dsimp only | split

theorem Good.State_coreResumes {b0 : State} (s : State) (cause : CoreFault)
    (hs : Good b0 s) :
    Good b0 (State.coreResumes s cause) := by
  unfold State.coreResumes
  with_reducible repeat' first
      | assumption | intro _ | apply Good.State_raise | apply Good.State_alert | apply Good.State_writeDump | apply MGood.of_good
      | apply FGood.of_good | simp only [Good.mk_iff] | apply And.intro | dsimp only

theorem Good.of_execWatchdogExpiry {b0 : State} (s : State)
    (hs : Good b0 s) :
    ∀ z, execWatchdogExpiry s = .next z → Good b0 z := by
  unfold execWatchdogExpiry
  intro z hz
  injection hz with hz
  subst hz
  with_reducible repeat' first | assumption | intro _ | apply Good.of_onlyIf | apply Good.State_startRestart | apply And.intro

theorem Good.of_execCoreRestart {b0 : State} (cause : CoreFault) (imageOk : Bool) (s : State)
    (hs : Good b0 s) :
    ∀ z, execCoreRestart cause imageOk s = .next z → Good b0 z := by
  unfold execCoreRestart
  intro z hz
  injection hz with hz
  subst hz
  with_reducible repeat' first
      | assumption | intro _ | apply Good.of_onlyIf | apply Good.State_startRestart | apply Good.State_coreResumes | apply Good.ite
      | apply Good.map_getD | apply Good.getD | apply MGood.of_good | apply FGood.of_good | simp only [Good.mk_iff] | apply And.intro
      | dsimp only | split

theorem Good.of_execCoreRestartTimeout {b0 : State} (s : State)
    (hs : Good b0 s) :
    ∀ z, execCoreRestartTimeout s = .next z → Good b0 z := by
  unfold execCoreRestartTimeout
  intro z hz
  injection hz with hz
  subst hz
  with_reducible repeat' first | assumption | intro _ | apply Good.of_onlyIf | apply Good.State_startRestart | apply And.intro

theorem Good.State_askEngineReset {b0 : State} (s : State) (e : Engine)
    (hs : Good b0 s) :
    Good b0 (State.askEngineReset s e) := by
  unfold State.askEngineReset
  with_reducible repeat' first
      | assumption | intro _ | apply Good.ite | apply MGood.of_good | apply FGood.of_good | simp only [Good.mk_iff] | apply And.intro
      | split

theorem Good.of_execUnitReset {b0 : State} (h : KcpHdr) (unitKind : BitVec 8) (unitIndex : W16) (s : State)
    (hs : Good b0 s) :
    ∀ z, execUnitReset h unitKind unitIndex s = .next z → Good b0 z := by
  unfold execUnitReset
  intro z hz
  injection hz with hz
  subst hz
  with_reducible repeat' first
      | assumption | intro _ | apply Good.KcpCmd_arrive | apply Good.of_done | apply Good.State_askEngineReset | apply Good.of_id
      | apply Good.map_getD | apply Good.getD | apply MGood.of_good | apply FGood.of_good | simp only [Good.mk_iff] | apply And.intro

theorem Good.State_startDieReset {b0 : State} (s : State) (d : Die)
    (hs : Good b0 s) :
    Good b0 (State.startDieReset s d) := by
  unfold State.startDieReset
  with_reducible repeat' first
      | assumption | intro _ | apply Good.State_writeDump | apply Good.State_askReset | apply Good.State_purge
      | apply Good.State_countFault | apply Good.State_onPort | apply Good.ite | apply Good.foldl | apply Good.foldl_fst
      | apply MGood.of_good | apply FGood.of_good | (refine Good.of_opt (o := _) ?_ (by assumption))
      | (refine Good.of_opt1 (o := _) ?_ (by assumption)) | simp only [Good.mk_iff] | apply And.intro | dsimp only | split

theorem Good.of_execDieReset {b0 : State} (h : KcpHdr) (kind index : BitVec 8) (s : State)
    (hs : Good b0 s) :
    ∀ z, execDieReset h kind index s = .next z → Good b0 z := by
  unfold execDieReset
  intro z hz
  injection hz with hz
  subst hz
  with_reducible repeat' first
      | assumption | intro _ | apply Good.KcpCmd_arrive | apply Good.of_done | apply Good.State_startDieReset | apply Good.of_id
      | apply Good.map_getD | apply Good.getD | apply MGood.of_good | apply FGood.of_good | simp only [Good.mk_iff] | apply And.intro

theorem Good.State_katFailed {b0 : State} (s : State) (a : Nat)
    (hs : Good b0 s) :
    Good b0 (State.katFailed s a) := by
  unfold State.katFailed
  with_reducible repeat' first
      | assumption | intro _ | apply Good.State_onArray | apply Good.State_stuck | apply Good.State_raise | apply Good.ite
      | apply MGood.of_good | apply FGood.of_good | simp only [Good.mk_iff] | apply And.intro | dsimp only | split

theorem Good.State_restoreTest {b0 : State} (s : State) (n : Nat) (failed : Bool)
    (hs : Good b0 s) :
    Good b0 (State.restoreTest s n failed) := by
  unfold State.restoreTest
  with_reducible repeat' first
      | assumption | intro _ | apply Good.State_katFailed | apply Good.State_onArray | apply Good.ite | apply MGood.of_good
      | apply FGood.of_good | simp only [Good.mk_iff] | apply And.intro | split

theorem Good.State_resetArray {b0 : State} (s : State) (n : Nat)
    (hs : Good b0 s) :
    Good b0 (State.resetArray s n) := by
  unfold State.resetArray
  with_reducible repeat' first
      | assumption | intro _ | apply Good.State_setArray | apply MGood.of_good | apply FGood.of_good
      | simp only [Good.mk_iff, FGood.mk_iff] | apply And.intro

theorem Good.State_resetPort {b0 : State} (s : State) (p : Nat)
    (hs : Good b0 s) :
    Good b0 (State.resetPort s p) := by
  unfold State.resetPort
  with_reducible repeat' first
      | assumption | intro _ | apply Good.State_onPort | apply Good.ite | apply MGood.of_good | apply FGood.of_good
      | simp only [Good.mk_iff] | apply And.intro | split

theorem Good.State_endDieReset {b0 : State} (s : State) (d : Die) (katFailed : List (Fin 24))
    (hs : Good b0 s) :
    Good b0 (State.endDieReset s d katFailed) := by
  unfold State.endDieReset
  with_reducible repeat' first
      | assumption | intro _ | apply Good.State_resetArray | apply Good.State_restoreTest | apply Good.State_katFailed
      | apply Good.State_setRte | apply Good.State_setFuu | apply Good.State_resetPort | apply Good.of_id | apply Good.ite
      | apply Good.foldl | apply Good.foldl_fst | apply Good.elim | apply Good.map_getD | apply Good.getD | apply MGood.ite
      | apply MGood.foldl | apply MGood.foldl_fst | apply MGood.of_good | apply ByteGood.of | apply ByteGood.filter | apply WcbGood.of
      | apply FGood.ite | apply FGood.of_good | apply OptAll.none' | apply OptAll.some' | apply OptAll.ite
      | (refine Good.of_opt (o := _) ?_ (by assumption)) | (refine Good.of_opt1 (o := _) ?_ (by assumption))
      | (refine MGood.of_opt1 (o := _) ?_ (by assumption)) | simp only [Good.mk_iff, MGood.mk_iff, FGood.mk_iff] | apply And.intro
      | dsimp only | split

theorem Good.of_execDieResetComplete {b0 : State} (die : Die) (outcome : DieResetEnd) (s : State)
    (hs : Good b0 s) :
    ∀ z, execDieResetComplete die outcome s = .next z → Good b0 z := by
  unfold execDieResetComplete
  intro z hz
  injection hz with hz
  subst hz
  with_reducible repeat' first
      | assumption | intro _ | apply Good.of_onlyIf | apply Good.State_endDieReset | apply Good.State_katFailed | apply Good.State_raise
      | apply MGood.of_good | apply FGood.of_good | simp only [Good.mk_iff] | apply And.intro | dsimp only

theorem Good.of_execPeerSet {b0 : State} (h : KcpHdr) (position : W16) (state : BitVec 8) (tag : BitVec 24) (servedBy : W16) (s : State)
    (hs : Good b0 s) :
    ∀ z, execPeerSet h position state tag servedBy s = .next z → Good b0 z := by
  unfold execPeerSet
  intro z hz
  injection hz with hz
  subst hz
  with_reducible repeat' first
      | assumption | intro _ | apply Good.KcpCmd_arrive | apply Good.of_done | apply Good.State_injectAll | apply Good.of_id
      | apply MGood.of_good | apply FGood.of_good | simp only [Good.mk_iff] | apply And.intro

theorem Good.of_execSpareAssign {b0 : State} (h : KcpHdr) (position : W16) (s : State)
    (hs : Good b0 s) :
    ∀ z, execSpareAssign h position s = .next z → Good b0 z := by
  unfold execSpareAssign
  intro z hz
  injection hz with hz
  subst hz
  with_reducible repeat' first
      | assumption | intro _ | apply Good.KcpCmd_arrive | apply Good.of_done | apply Good.of_id | apply MGood.of_good | apply FGood.of_good
      | simp only [Good.mk_iff, FGood.mk_iff] | apply And.intro

theorem Good.State_onPower {b0 : State} (s : State) (f : Power → Power)
    (hs : Good b0 s) :
    Good b0 (State.onPower s f) := by
  unfold State.onPower
  with_reducible repeat' first
      | assumption | intro _ | apply MGood.of_good | apply FGood.of_good | simp only [Good.mk_iff] | apply And.intro

theorem Good.State_startStop {b0 : State} (s : State) (c : StopCause)
    (hs : Good b0 s) :
    Good b0 (State.startStop s c) := by
  unfold State.startStop
  with_reducible repeat' first
      | assumption | intro _ | apply Good.State_onPower | apply Good.ite | apply MGood.of_good | apply FGood.of_good | apply FGood.ite
      | simp only [Good.mk_iff, FGood.mk_iff] | apply And.intro | dsimp only | split

theorem Good.State_finishStop {b0 : State} (s : State) (c : StopCause)
    (hs : Good b0 s) :
    Good b0 (State.finishStop s c) := by
  unfold State.finishStop
  with_reducible repeat' first
      | assumption | intro _ | apply Good.State_raise | apply Good.State_alert | apply MGood.flush | apply MGood.of_good
      | apply FGood.of_good | apply ByteGood.of | apply WcbGood.of | simp only [Good.mk_iff, MGood.mk_iff, FGood.mk_iff] | apply And.intro
      | dsimp only

theorem Good.of_execOrderlyStop {b0 : State} (cause : StopCause) (s : State)
    (hs : Good b0 s) :
    ∀ z, execOrderlyStop cause s = .next z → Good b0 z := by
  unfold execOrderlyStop
  intro z hz
  injection hz with hz
  subst hz
  with_reducible repeat' first
      | assumption | intro _ | apply Good.of_onlyIf | apply Good.State_startStop | apply Good.State_finishStop | apply Good.map_getD
      | apply Good.getD | apply MGood.of_good | apply FGood.of_good | simp only [Good.mk_iff] | apply And.intro | dsimp only

theorem Good.of_execInputThrottle {b0 : State} (vin : W16) (s : State)
    (hs : Good b0 s) :
    ∀ z, execInputThrottle vin s = .next z → Good b0 z := by
  unfold execInputThrottle
  intro z hz
  injection hz with hz
  subst hz
  with_reducible repeat' first
      | assumption | intro _ | apply Good.of_onlyIf | apply Good.State_onPower | apply Good.State_raise | apply MGood.of_good
      | apply FGood.of_good | simp only [Good.mk_iff] | apply And.intro

theorem Good.of_execInputThrottleEnd {b0 : State} (vin : W16) (s : State)
    (hs : Good b0 s) :
    ∀ z, execInputThrottleEnd vin s = .next z → Good b0 z := by
  unfold execInputThrottleEnd
  intro z hz
  injection hz with hz
  subst hz
  with_reducible repeat' first
      | assumption | intro _ | apply Good.of_onlyIf | apply Good.State_onPower | apply Good.State_raise | apply MGood.of_good
      | apply FGood.of_good | simp only [Good.mk_iff] | apply And.intro

theorem Good.of_execInputCut {b0 : State} (vin : W16) (s : State)
    (hs : Good b0 s) :
    ∀ z, execInputCut vin s = .next z → Good b0 z := by
  unfold execInputCut
  intro z hz
  injection hz with hz
  subst hz
  with_reducible repeat' first
      | assumption | intro _ | apply Good.of_onlyIf | apply Good.State_onPower | apply Good.State_raise | apply MGood.of_good
      | apply FGood.of_good | simp only [Good.mk_iff] | apply And.intro

theorem Good.of_execInputRecovered {b0 : State} (vin : W16) (rideUs : W32) (s : State)
    (hs : Good b0 s) :
    ∀ z, execInputRecovered vin rideUs s = .next z → Good b0 z := by
  unfold execInputRecovered
  intro z hz
  injection hz with hz
  subst hz
  with_reducible repeat' first
      | assumption | intro _ | apply Good.of_onlyIf | apply Good.State_onPower | apply Good.State_raise | apply MGood.of_good
      | apply FGood.of_good | simp only [Good.mk_iff] | apply And.intro

theorem Good.of_execSurge {b0 : State} (vinMax : W16) (durationUs : W32) (s : State)
    (hs : Good b0 s) :
    ∀ z, execSurge vinMax durationUs s = .next z → Good b0 z := by
  unfold execSurge
  intro z hz
  injection hz with hz
  subst hz
  with_reducible repeat' first
      | assumption | intro _ | apply Good.of_onlyIf | apply Good.State_onPower | apply Good.State_raise | apply Good.ite
      | apply MGood.of_good | apply FGood.of_good | simp only [Good.mk_iff] | apply And.intro | split

theorem Good.of_execSurgeTimeout {b0 : State} (vinMax : W16) (s : State)
    (hs : Good b0 s) :
    ∀ z, execSurgeTimeout vinMax s = .next z → Good b0 z := by
  unfold execSurgeTimeout
  intro z hz
  injection hz with hz
  subst hz
  with_reducible repeat' first
      | assumption | intro _ | apply Good.of_onlyIf | apply Good.State_onPower | apply Good.State_startStop | apply And.intro

theorem Good.of_execOverVoltage {b0 : State} (vin : W16) (s : State)
    (hs : Good b0 s) :
    ∀ z, execOverVoltage vin s = .next z → Good b0 z := by
  unfold execOverVoltage
  intro z hz
  injection hz with hz
  subst hz
  with_reducible repeat' first
      | assumption | intro _ | apply Good.of_onlyIf | apply Good.State_onPower | apply Good.State_startStop | apply And.intro

theorem Good.of_execHoldupExhausted {b0 : State} (s : State)
    (hs : Good b0 s) :
    ∀ z, execHoldupExhausted s = .next z → Good b0 z := by
  unfold execHoldupExhausted
  intro z hz
  injection hz with hz
  subst hz
  with_reducible repeat' first
      | assumption | intro _ | apply Good.of_onlyIf | apply Good.State_onPower | apply Good.State_startStop | apply MGood.of_good
      | apply FGood.of_good | simp only [Good.mk_iff] | apply And.intro

theorem Good.State_measureHoldup {b0 : State} (s : State) (milliJoules : Nat)
    (hs : Good b0 s) :
    Good b0 (State.measureHoldup s milliJoules) := by
  unfold State.measureHoldup
  with_reducible repeat' first
      | assumption | intro _ | apply Good.State_onPower | apply Good.State_raise | apply Good.State_alert | apply Good.ite
      | apply MGood.of_good | apply FGood.of_good | simp only [Good.mk_iff] | apply And.intro | dsimp only | split

theorem Good.of_execHoldupMeasure {b0 : State} (milliJoules : Nat) (s : State)
    (hs : Good b0 s) :
    ∀ z, execHoldupMeasure milliJoules s = .next z → Good b0 z := by
  unfold execHoldupMeasure
  intro z hz
  injection hz with hz
  subst hz
  with_reducible repeat' first | assumption | intro _ | apply Good.of_onlyIf | apply Good.State_measureHoldup | apply And.intro

theorem Good.of_execDvfsEvaluate {b0 : State} (r : PowerReading) (s : State)
    (hs : Good b0 s) :
    ∀ z, execDvfsEvaluate r s = .next z → Good b0 z := by
  unfold execDvfsEvaluate
  intro z hz
  injection hz with hz
  subst hz
  with_reducible repeat' first
      | assumption | intro _ | apply Good.of_onlyIf | apply Good.State_onPower | apply Good.State_alert | apply Good.State_raise
      | apply Good.State_startStop | apply Good.ite | apply MGood.of_good | apply FGood.of_good | simp only [Good.mk_iff] | apply And.intro
      | dsimp only | split

theorem Good.of_execDvfsStep {b0 : State} (s : State)
    (hs : Good b0 s) :
    ∀ z, execDvfsStep s = .next z → Good b0 z := by
  unfold execDvfsStep
  intro z hz
  injection hz with hz
  subst hz
  with_reducible repeat' first
      | assumption | intro _ | apply Good.of_onlyIf | apply Good.State_onPower | apply Good.ite | apply MGood.of_good | apply FGood.of_good
      | simp only [Good.mk_iff] | apply And.intro | split

theorem Good.of_execThermalTrip {b0 : State} (tMax sensor : Nat) (s : State)
    (hs : Good b0 s) :
    ∀ z, execThermalTrip tMax sensor s = .next z → Good b0 z := by
  unfold execThermalTrip
  intro z hz
  injection hz with hz
  subst hz
  with_reducible repeat' first
      | assumption | intro _ | apply Good.of_onlyIf | apply Good.State_onPower | apply Good.State_startStop | apply MGood.of_good
      | apply FGood.of_good | simp only [Good.mk_iff] | apply And.intro

theorem Good.of_execInputPowerOverLimit {b0 : State} (watts : Nat) (s : State)
    (hs : Good b0 s) :
    ∀ z, execInputPowerOverLimit watts s = .next z → Good b0 z := by
  unfold execInputPowerOverLimit
  intro z hz
  injection hz with hz
  subst hz
  with_reducible repeat' first
      | assumption | intro _ | apply Good.of_onlyIf | apply Good.State_onPower | apply MGood.of_good | apply FGood.of_good
      | simp only [Good.mk_iff] | apply And.intro

theorem Good.of_execEnvelopeUpdate {b0 : State} (demand pIn maxBurn : Nat) (s : State)
    (hs : Good b0 s) :
    ∀ z, execEnvelopeUpdate demand pIn maxBurn s = .next z → Good b0 z := by
  unfold execEnvelopeUpdate
  intro z hz
  injection hz with hz
  subst hz
  with_reducible repeat' first
      | assumption | intro _ | apply Good.of_onlyIf | apply Good.State_onPower | apply MGood.Mem_count | apply Good.ite
      | apply MGood.of_good | apply FGood.of_good | simp only [Good.mk_iff] | apply And.intro | split

theorem Good.of_execRefQualifyWindow {b0 : State} (edges : Nat) (s : State)
    (hs : Good b0 s) :
    ∀ z, execRefQualifyWindow edges s = .next z → Good b0 z := by
  unfold execRefQualifyWindow
  intro z hz
  injection hz with hz
  subst hz
  with_reducible repeat' first
      | assumption | intro _ | apply Good.State_onPower | apply MGood.of_good | apply FGood.of_good | simp only [Good.mk_iff]
      | apply And.intro

theorem Good.of_execRefQualifyTimeout {b0 : State} (s : State)
    (hs : Good b0 s) :
    ∀ z, execRefQualifyTimeout s = .next z → Good b0 z := by
  unfold execRefQualifyTimeout
  intro z hz
  injection hz with hz
  subst hz
  with_reducible repeat' first
      | assumption | intro _ | apply Good.of_onlyIf | apply Good.State_alert | apply Good.ite | apply MGood.of_good | apply FGood.of_good
      | simp only [Good.mk_iff] | apply And.intro | dsimp only | split

theorem Good.of_execPllLockWindow {b0 : State} (pll : Pll) (ppmError : Int) (s : State)
    (hs : Good b0 s) :
    ∀ z, execPllLockWindow pll ppmError s = .next z → Good b0 z := by
  unfold execPllLockWindow
  intro z hz
  injection hz with hz
  subst hz
  with_reducible repeat' first | assumption | intro _ | apply Good.of_onlyIf | apply Good.State_onPower | apply And.intro

theorem Good.of_execClockFault {b0 : State} (pll : Pll) (s : State)
    (hs : Good b0 s) :
    ∀ z, execClockFault pll s = .next z → Good b0 z := by
  unfold execClockFault
  intro z hz
  injection hz with hz
  subst hz
  with_reducible repeat' first
      | assumption | intro _ | apply Good.of_onlyIf | apply Good.State_onPower | apply Good.State_raise | apply Good.State_startDieReset
      | apply Good.State_askReset | apply Good.ite | apply MGood.of_good | apply FGood.of_good
      | (refine Good.of_opt (o := _) ?_ (by assumption)) | (refine Good.of_opt1 (o := _) ?_ (by assumption)) | simp only [Good.mk_iff]
      | apply And.intro | dsimp only | split

theorem Good.of_execPllRelock {b0 : State} (n : Fin 8) (locked : Bool) (s : State)
    (hs : Good b0 s) :
    ∀ z, execPllRelock n locked s = .next z → Good b0 z := by
  unfold execPllRelock
  intro z hz
  injection hz with hz
  subst hz
  with_reducible repeat' first
      | assumption | intro _ | apply Good.of_onlyIf | apply Good.State_onPower | apply Good.State_startDieReset | apply Good.ite
      | apply MGood.of_good | apply FGood.of_good | simp only [Good.mk_iff] | apply And.intro | split

theorem Good.State_ppsLock {b0 : State} (s : State) (e : Int)
    (hs : Good b0 s) :
    Good b0 (State.ppsLock s e) := by
  unfold State.ppsLock
  with_reducible repeat' first
      | assumption | intro _ | apply Good.State_onPower | apply Good.State_raise | apply Good.ite | apply MGood.of_good
      | apply FGood.of_good | simp only [Good.mk_iff] | apply And.intro | split

theorem Good.State_ppsStep {b0 : State} (s : State) (e : Int)
    (hs : Good b0 s) :
    Good b0 (State.ppsStep s e) := by
  unfold State.ppsStep
  with_reducible repeat' first
      | assumption | intro _ | apply Good.State_onPower | apply Good.State_raise | apply Good.State_ppsLock | apply Good.ite
      | apply MGood.of_good | apply FGood.of_good | simp only [Good.mk_iff] | apply And.intro | dsimp only | split

theorem Good.State_ppsAccept {b0 : State} (s : State) (e : Int)
    (hs : Good b0 s) :
    Good b0 (State.ppsAccept s e) := by
  unfold State.ppsAccept
  with_reducible repeat' first
      | assumption | intro _ | apply Good.State_onPower | apply Good.State_setSeconds | apply Good.State_ppsLock | apply MGood.of_good
      | apply FGood.of_good | (refine Good.of_opt (o := _) ?_ (by assumption)) | (refine Good.of_opt1 (o := _) ?_ (by assumption))
      | simp only [Good.mk_iff] | apply And.intro | dsimp only | split

theorem Good.of_execPpsEdge {b0 : State} (sinceLastNs : Nat) (s : State)
    (hs : Good b0 s) :
    ∀ z, execPpsEdge sinceLastNs s = .next z → Good b0 z := by
  unfold execPpsEdge
  intro z hz
  injection hz with hz
  subst hz
  with_reducible repeat' first
      | assumption | intro _ | apply Good.of_onlyIf | apply Good.KcpCmd_run | apply Good.State_onPower | apply Good.State_ppsStep
      | apply Good.State_ppsAccept | apply MGood.Mem_count | apply Good.ite | apply MGood.of_good | apply FGood.of_good
      | simp only [Good.mk_iff] | apply And.intro | dsimp only | split

theorem Good.of_execPpsLost {b0 : State} (s : State)
    (hs : Good b0 s) :
    ∀ z, execPpsLost s = .next z → Good b0 z := by
  unfold execPpsLost
  intro z hz
  injection hz with hz
  subst hz
  with_reducible repeat' first
      | assumption | intro _ | apply Good.of_onlyIf | apply Good.State_onPower | apply Good.State_raise | apply MGood.of_good
      | apply FGood.of_good | simp only [Good.mk_iff] | apply And.intro

theorem Good.State_wrapNanos {b0 : State} (s : State) (nanos : Nat)
    (hs : Good b0 s) :
    Good b0 (State.wrapNanos s nanos) := by
  unfold State.wrapNanos
  with_reducible repeat' first
      | assumption | intro _ | apply Good.State_onPower | apply Good.State_setSeconds | apply Good.ite | apply MGood.of_good
      | apply FGood.of_good | (refine Good.of_opt (o := _) ?_ (by assumption)) | (refine Good.of_opt1 (o := _) ?_ (by assumption))
      | simp only [Good.mk_iff] | apply And.intro | split

theorem Good.of_execNanosecondFieldWrap {b0 : State} (s : State)
    (hs : Good b0 s) :
    ∀ z, execNanosecondFieldWrap s = .next z → Good b0 z := by
  unfold execNanosecondFieldWrap
  intro z hz
  injection hz with hz
  subst hz
  with_reducible repeat' first | assumption | intro _ | apply Good.State_wrapNanos | apply And.intro

theorem Good.State_tickTime {b0 : State} (s : State)
    (hs : Good b0 s) :
    Good b0 (State.tickTime s) := by
  unfold State.tickTime
  with_reducible repeat' first
      | assumption | intro _ | apply Good.State_onPower | apply Good.State_wrapNanos | apply Good.ite | apply MGood.of_good
      | apply FGood.of_good | simp only [Good.mk_iff] | apply And.intro | dsimp only | split

theorem FGood.Boot_setSlot {b0 : Boot} (b : Boot) (i : Nat) (f : FwSlot)
    (hb : FGood b0 b) :
    FGood b0 (Boot.setSlot b i f) := by
  unfold Boot.setSlot
  with_reducible repeat' first | assumption | intro _ | apply FGood.ite | simp only [FGood.mk_iff] | apply And.intro | split

theorem FGood.Boot_rewrite {b0 : Boot} (b : Boot)
    (hb : FGood b0 b) :
    FGood b0 (Boot.rewrite b) := by
  unfold Boot.rewrite
  with_reducible repeat' first | assumption | intro _ | simp only [FGood.mk_iff] | apply And.intro

theorem Good.of_execFwBegin {b0 : State} (h : KcpHdr) (slot : BitVec 8) (bytes : W32) (s : State)
    (hs : Good b0 s) :
    ∀ z, execFwBegin h slot bytes s = .next z → Good b0 z := by
  unfold execFwBegin
  intro z hz
  injection hz with hz
  subst hz
  with_reducible repeat' first
      | assumption | intro _ | apply Good.KcpCmd_arrive | apply Good.of_done | apply FGood.Boot_setSlot | apply Good.of_id | apply Good.ite
      | apply MGood.of_good | apply FGood.of_good | apply FGood.ite | simp only [Good.mk_iff, FGood.mk_iff] | apply And.intro | split

theorem Good.of_execFwWrite {b0 : State} (h : KcpHdr) (offset : W32) (data : List Byte) (s : State)
    (hs : Good b0 s) :
    ∀ z, execFwWrite h offset data s = .next z → Good b0 z := by
  unfold execFwWrite
  intro z hz
  injection hz with hz
  subst hz
  with_reducible repeat' first
      | assumption | intro _ | apply Good.KcpCmd_arrive | apply Good.of_done | apply FGood.Boot_setSlot | apply MGood.write
      | apply Good.State_write | apply Good.of_id | apply MGood.of_good | apply FGood.of_good
      | (refine Good.of_opt (o := _) ?_ (by assumption)) | (refine Good.of_opt1 (o := _) ?_ (by assumption))
      | simp only [Good.mk_iff, FGood.mk_iff] | apply And.intro | split

theorem Good.of_execFwEnd {b0 : State} (h : KcpHdr) (sigOk : Bool) (s : State)
    (hs : Good b0 s) :
    ∀ z, execFwEnd h sigOk s = .next z → Good b0 z := by
  unfold execFwEnd
  intro z hz
  injection hz with hz
  subst hz
  with_reducible repeat' first
      | assumption | intro _ | apply Good.KcpCmd_arrive | apply Good.of_done | apply Good.State_raise | apply Good.of_id
      | apply MGood.of_good | apply FGood.of_good | (refine Good.of_opt (o := _) ?_ (by assumption))
      | (refine Good.of_opt1 (o := _) ?_ (by assumption)) | simp only [Good.mk_iff, FGood.mk_iff] | apply And.intro | dsimp only | split

theorem Good.of_execFwActivate {b0 : State} (h : KcpHdr) (slot : BitVec 8) (sigOk : Bool) (s : State)
    (hs : Good b0 s) :
    ∀ z, execFwActivate h slot sigOk s = .next z → Good b0 z := by
  unfold execFwActivate
  intro z hz
  injection hz with hz
  subst hz
  with_reducible repeat' first
      | assumption | intro _ | apply Good.KcpCmd_arrive | apply Good.of_done | apply FGood.Boot_rewrite | apply Good.of_id | apply Good.ite
      | apply MGood.of_good | apply FGood.of_good | apply FGood.ite | simp only [Good.mk_iff, FGood.mk_iff] | apply And.intro | split

theorem Good.of_execFwCommit {b0 : State} (h : KcpHdr) (advance : BitVec 8) (s : State) (hs : Good b0 s) :
    ∀ z, (execFwCommit h advance s) = .next z → Good b0 z := by
  intro z hz
  unfold execFwCommit at hz
  injection hz with hz
  subst hz
  refine Good.KcpCmd_arrive _ _ _ hs (fun t ht => ?_) fun t ht => ht
  dsimp only
  refine Good.of_done _ _ (Good.State_raise _ _ _ _ _ _ _ (Good.mk_iff.2 ⟨ht.mem, ?_⟩))
  have hb := FGood.Boot_rewrite _ ht.boot
  have hr : t.boot.rewrite.rollback = t.boot.rollback ∧ t.boot.rewrite.ownerState = t.boot.ownerState := ⟨rfl, rfl⟩
  refine ⟨fun hl => ?_, hb.key, hb.rom, ?_, hb.revoked⟩
  · obtain ⟨g1, g2⟩ := hb.legal hl
    refine ⟨?_, g2⟩
    show (if advance = 1 then max t.boot.rollback (min 64 t.boot.runningSvn) else t.boot.rollback) ≤ 64
    rw [hr.1] at g1
    split <;> omega
  · have := ht.boot.roll
    show b0.boot.rollback ≤ (if advance = 1 then max t.boot.rollback (min 64 t.boot.runningSvn) else t.boot.rollback)
    split <;> omega

theorem Boot.unusedOwner_some {b : Boot} {i : Nat} (h : b.unusedOwner = some i) : b.ownerState.getD i 0 = 0 := by
  simpa using List.find?_some h

theorem Boot.activeOwner_some {b : Boot} {i : Nat} (h : b.activeOwner = some i) : b.ownerState.getD i 0 = 1 := by
  simpa using List.find?_some h

theorem FGood.set {b0 b : Boot} (hb : FGood b0 b) (i v : Nat) (h3 : b.ownerState.getD i 0 ≠ 3) (hv : v = 1 ∨ v = 3)
    (h1 : FuseLegal b0 → ((b.ownerState.set i v).filter (· = 1)).length ≤ 1) (pub : List Byte) (d : List (BitVec 256)) :
    FGood b0 { b with ownerState := b.ownerState.set i v, ownerPub := pub, ownerDigest := d } := by
  refine ⟨fun hl => ?_, hb.key, hb.rom, hb.roll, fun j hj => ?_⟩
  · obtain ⟨g1, g2, g3, g4⟩ := hb.legal hl
    refine ⟨g1, by simpa using g2, fun x hx => ?_, h1 hl⟩
    rcases List.mem_or_eq_of_mem_set hx with hx | rfl
    · exact g3 x hx
    · omega
  · have := hb.revoked j hj
    show (b.ownerState.set i v)[j]? = some 3
    by_cases hij : i = j
    · subst hij
      rw [List.getD_eq_getElem?_getD, this] at h3
      exact absurd rfl h3
    · rw [List.getElem?_set_ne hij]; exact this

theorem filter_set3 (l : List Nat) (i : Nat) : ((l.set i 3).filter (· = 1)).length ≤ (l.filter (· = 1)).length := by
  induction l generalizing i with
  | nil => simp
  | cons x r ih =>
    cases i with
    | zero =>
      rw [List.set_cons_zero, List.filter_cons, List.filter_cons]
      simp only [decide_eq_true_eq]
      split <;> split <;> simp_all
    | succ i =>
      rw [List.set_cons_succ, List.filter_cons, List.filter_cons]
      have := ih i
      split <;> simp_all

theorem FGood.Boot_revoke {b0 : Boot} (b : Boot) (hb : FGood b0 b) : FGood b0 b.revoke := by
  unfold Boot.revoke
  split
  · next i hi =>
    exact hb.set i 3 (by rw [Boot.activeOwner_some hi]; decide) (.inr rfl) (fun hl => Nat.le_trans (filter_set3 _ _) (hb.legal hl).2.2.2) b.ownerPub
      b.ownerDigest
  · exact hb

theorem Good.State_ownerChanged {b0 : State} (s : State) (opcode : W32)
    (hs : Good b0 s) :
    Good b0 (State.ownerChanged s opcode) := by
  unfold State.ownerChanged
  with_reducible repeat' first
      | assumption | intro _ | apply Good.State_raise | apply Good.of_id | apply Good.map_getD | apply Good.getD | apply And.intro

theorem no_active {b : Boot} (hl : b.ownerState.length ≤ 4) (h : b.activeOwner = none) : ∀ x ∈ b.ownerState, x ≠ 1 := by
  intro x hx hx1
  obtain ⟨i, hi, rfl⟩ := List.mem_iff_getElem.1 hx
  unfold Boot.activeOwner at h
  rw [List.find?_eq_none] at h
  refine h i (List.mem_range.2 (by omega)) ?_
  simp [List.getD_eq_getElem?_getD, hi, hx1]

theorem filter_set1 (l : List Nat) (i : Nat) (h : ∀ x ∈ l, x ≠ 1) : ((l.set i 1).filter (· = 1)).length ≤ 1 := by
  induction l generalizing i with
  | nil => simp
  | cons x r ih =>
    have hx := h x (List.mem_cons_self ..)
    have hr : ∀ y ∈ r, y ≠ 1 := fun y hy => h y (List.mem_cons_of_mem _ hy)
    cases i with
    | zero =>
      have h0 : r.filter (· = 1) = [] := List.filter_eq_nil_iff.2 fun y hy => by simpa using hr y hy
      rw [List.set_cons_zero, List.filter_cons, h0]; simp
    | succ i =>
      rw [List.set_cons_succ, List.filter_cons]
      simp only [hx, decide_false]
      exact ih i hr

theorem FGood.enrollNext {b0 b : Boot} (hb : FGood b0 b) (ha : FuseLegal b0 → b.activeOwner = none) (pub : List Byte) :
    FGood b0 (b.enrollNext pub) := by
  unfold Boot.enrollNext
  cases h : b.unusedOwner with
  | none => exact hb
  | some i =>
    exact hb.set i 1 (by rw [Boot.unusedOwner_some h]; decide) (.inl rfl) (fun hl => filter_set1 _ _ (no_active (Nat.le_of_eq (hb.legal hl).2.1) (ha hl))) pub _

theorem Boot.revoke_none {b : Boot} (hl : FuseLegal b) : b.revoke.activeOwner = none := by
  unfold Boot.revoke
  split
  · next i hi =>
    have hx := Boot.activeOwner_some hi
    obtain ⟨_, h4, _, h1⟩ := hl
    show (List.range 4).find? (fun j => (b.ownerState.set i 3).getD j 0 = 1) = none
    match hs : b.ownerState, h4 with
    | [a, c, d, e], _ =>
      rw [hs] at hx h1
      have hi4 : i < 4 := by
        by_contra hc
        rw [List.getD_eq_default _ _ (by simp; omega)] at hx
        cases hx
      have : ∀ (p q r t : Nat), (([p, q, r, t] : List Nat).filter (· = 1)).length ≤ 1 → ∀ i, i < 4 → ([p, q, r, t] : List Nat).getD i 0 = 1 →
          (List.range 4).find? (fun j => decide (((([p, q, r, t] : List Nat).set i 3).getD j 0) = 1)) = none := by
        intro p q r t h i hi hx
        simp only [List.filter_cons, List.filter_nil, decide_eq_true_eq] at h
        rw [List.find?_eq_none]
        intro j hj
        have hj := List.mem_range.1 hj
        have hp : ∀ x y z w : Nat, (if x = 1 then 1 else 0) + (if y = 1 then 1 else 0) + (if z = 1 then 1 else 0) + (if w = 1 then 1 else 0) =
            (([x, y, z, w] : List Nat).filter (· = 1)).length := by
          intro x y z w
          simp only [List.filter_cons, List.filter_nil, decide_eq_true_eq]
          split <;> split <;> split <;> split <;> rfl
        have hq := hp p q r t
        simp only [List.filter_cons, List.filter_nil, decide_eq_true_eq] at hq
        rw [← hq] at h
        rcases i with _ | _ | _ | _ | i
        · have hx : p = 1 := hx
          rw [if_pos hx] at h
          rcases j with _ | _ | _ | _ | j <;> simp <;> (intro hc; rw [if_pos hc] at h; omega)
        · have hx : q = 1 := hx
          rw [if_pos hx] at h
          rcases j with _ | _ | _ | _ | j <;> simp <;> (intro hc; rw [if_pos hc] at h; omega)
        · have hx : r = 1 := hx
          rw [if_pos hx] at h
          rcases j with _ | _ | _ | _ | j <;> simp <;> (intro hc; rw [if_pos hc] at h; omega)
        · have hx : t = 1 := hx
          rw [if_pos hx] at h
          rcases j with _ | _ | _ | _ | j <;> simp <;> (intro hc; rw [if_pos hc] at h; omega)
        · omega
      exact this a c d e h1 i hi4 hx
  · next h => exact h

theorem ok_of_verdict {cs : List Check} (h : verdict cs = none) : ∀ c ∈ cs, c.1 = false := by
  have stuck : ∀ (l : List Check) (x : Status), ∃ y, l.foldl (fun r c => if c.1 then
      match r with
      | none => some c.2
      | some t => if c.2.rank < t.rank then some c.2 else some t
      else r) (some x) = some y := by
    intro l
    induction l with
    | nil => exact fun x => ⟨x, rfl⟩
    | cons c r ih =>
      intro x
      rw [List.foldl_cons]
      split
      · dsimp only; split <;> exact ih _
      · exact ih x
  induction cs with
  | nil => intro c hc; cases hc
  | cons c r ih =>
    unfold verdict at h ih
    rw [List.foldl_cons] at h
    cases hc : c.1 with
    | true =>
      rw [hc] at h
      obtain ⟨y, hy⟩ := stuck r c.2
      exact absurd (hy.symm.trans h) (by simp)
    | false =>
      rw [hc] at h
      intro d hd
      rcases List.mem_cons.1 hd with rfl | hd
      · exact hc
      · exact ih h d hd

theorem Good.KcpCmd_arrive' {b0 : State} (k : KcpCmd) (self : Instr) (h : KcpHdr) (s : State) (hs : Good b0 s)
    (he : ∀ t, Good b0 t → (∀ c ∈ k.checks t, c.1 = false) → Good b0 (k.effect t).st) (ha : ∀ t, Good b0 t → Good b0 (k.after t)) :
    Good b0 (k.arrive self h s) := by
  unfold KcpCmd.arrive
  split
  · exact hs
  · split
    · exact Good.State_sendReply _ _ (Good.mk_iff.2 ⟨hs.mem, hs.boot⟩)
    · split
      · exact Good.State_sendReply _ _ hs
      · split
        · exact hs
        · unfold KcpCmd.sequence
          split
          · unfold KcpCmd.run
            dsimp only
            have ht := Good.State_take s ‹_› h hs
            split
            · exact Good.State_answer _ _ _ _ _ _ ht
            · next hv =>
              refine ha _ (Good.State_answer _ _ _ _ _ _ (he _ ht fun c hc => ok_of_verdict hv c ?_))
              exact List.mem_append_right _ hc
          · split <;> exact Good.State_setSession _ _ _ hs
          · dsimp only
            split
            · exact Good.State_sendReply _ _ (Good.mk_iff.2 ⟨hs.mem, hs.boot⟩)
            · exact Good.mk_iff.2 ⟨hs.mem, hs.boot⟩
          · exact Good.State_kcpDrop _ hs

theorem Good.of_execOwnerEnroll {b0 : State} (h : KcpHdr) (pub : List Byte) (s : State) (hs : Good b0 s) :
    ∀ z, (execOwnerEnroll h pub s) = .next z → Good b0 z := by
  intro z hz
  unfold execOwnerEnroll at hz
  injection hz with hz
  subst hz
  refine Good.KcpCmd_arrive' _ _ _ _ hs (fun t ht hc => ?_) fun t ht => ht
  refine Good.of_done _ _ (Good.State_ownerChanged _ _ (Good.mk_iff.2 ⟨ht.mem, ht.boot.enrollNext (fun _ => ?_) pub⟩))
  have := hc _ (List.mem_cons_self ..)
  simp only [Bool.or_eq_false_iff] at this
  have := this.2
  unfold State.ownerActive at this
  cases h : t.boot.activeOwner with
  | none => rfl
  | some i =>
    have hx := Boot.activeOwner_some h
    exfalso
    by_cases hi : i < t.boot.ownerState.length
    · have : (1 : Nat) ∈ t.boot.ownerState := by
        rw [List.getD_eq_getElem?_getD, List.getElem?_eq_getElem hi] at hx
        exact List.mem_iff_getElem.2 ⟨i, hi, hx⟩
      simp_all
    · rw [List.getD_eq_default _ _ (by omega)] at hx; cases hx

theorem Good.of_execOwnerReplace {b0 : State} (h : KcpHdr) (pub sig : List Byte) (sigOk : Bool) (s : State) (hs : Good b0 s) :
    ∀ z, (execOwnerReplace h pub sig sigOk s) = .next z → Good b0 z := by
  intro z hz
  unfold execOwnerReplace at hz
  injection hz with hz
  subst hz
  refine Good.KcpCmd_arrive _ _ _ hs (fun t ht => ?_) fun t ht => ht
  refine Good.of_done _ _ (Good.State_ownerChanged _ _ (Good.mk_iff.2 ⟨ht.mem, ?_⟩))
  exact (FGood.Boot_revoke _ ht.boot).enrollNext (fun hl => Boot.revoke_none (ht.boot.legal hl)) pub

theorem Good.of_execOwnerRemove {b0 : State} (h : KcpHdr) (sig : List Byte) (sigOk : Bool) (s : State)
    (hs : Good b0 s) :
    ∀ z, execOwnerRemove h sig sigOk s = .next z → Good b0 z := by
  unfold execOwnerRemove
  intro z hz
  injection hz with hz
  subst hz
  with_reducible repeat' first
      | assumption | intro _ | apply Good.KcpCmd_arrive | apply Good.of_done | apply FGood.Boot_revoke | apply Good.State_ownerChanged
      | apply Good.of_id | apply MGood.of_good | apply FGood.of_good | simp only [Good.mk_iff, FGood.mk_iff] | apply And.intro

theorem Good.of_execIdentInfo {b0 : State} (h : KcpHdr) (s : State)
    (hs : Good b0 s) :
    ∀ z, execIdentInfo h s = .next z → Good b0 z := by
  unfold execIdentInfo
  intro z hz
  injection hz with hz
  subst hz
  with_reducible repeat' first
      | assumption | intro _ | apply Good.KcpCmd_arrive | apply Good.of_done | apply Good.of_id | apply Good.map_getD | apply Good.getD
      | apply MGood.of_good | apply FGood.of_good | simp only [Good.mk_iff, FGood.mk_iff] | apply And.intro

theorem Good.of_execIdentKeyRead {b0 : State} (h : KcpHdr) (s : State)
    (hs : Good b0 s) :
    ∀ z, execIdentKeyRead h s = .next z → Good b0 z := by
  unfold execIdentKeyRead
  intro z hz
  injection hz with hz
  subst hz
  with_reducible repeat' first
      | assumption | intro _ | apply Good.KcpCmd_arrive | apply Good.of_done | apply Good.of_id | apply MGood.of_good | apply FGood.of_good
      | simp only [Good.mk_iff, FGood.mk_iff] | apply And.intro

theorem Good.of_execAttest {b0 : State} (h : KcpHdr) (nonce : BitVec 256) (s : State)
    (hs : Good b0 s) :
    ∀ z, execAttest h nonce s = .next z → Good b0 z := by
  unfold execAttest
  intro z hz
  injection hz with hz
  subst hz
  with_reducible repeat' first
      | assumption | intro _ | apply Good.KcpCmd_arrive | apply Good.of_done | apply Good.of_id | apply MGood.of_good | apply FGood.of_good
      | simp only [Good.mk_iff] | apply And.intro | dsimp only

theorem FGood.Boot_countTrial {b0 : Boot} (b : Boot)
    (hb : FGood b0 b) :
    FGood b0 ((Boot.countTrial b)).1 := by
  unfold Boot.countTrial
  with_reducible repeat' first
      | assumption | intro _ | apply FGood.Boot_rewrite | apply FGood.ite | simp only [FGood.mk_iff] | apply And.intro | split

theorem Good.of_slotFallback {b0 : State} (s : State) (failed : Fin 2) (cause : W32)
    (hs : Good b0 s) :
    Good b0 (slotFallback s failed cause) := by
  unfold slotFallback
  with_reducible repeat' first | assumption | intro _ | apply Good.State_raise | apply And.intro

theorem Good.State_startXoel {b0 : State} (s : State) (slot : Fin 2)
    (hs : Good b0 s) :
    Good b0 (State.startXoel s slot) := by
  unfold State.startXoel
  with_reducible repeat' first
      | assumption | intro _ | apply MGood.of_good | apply FGood.of_good | simp only [Good.mk_iff, FGood.mk_iff] | apply And.intro
      | dsimp only

theorem Good.State_readEeproms {b0 : State} (s : State) (i : BootInputs)
    (hs : Good b0 s) :
    Good b0 (State.readEeproms s i) := by
  unfold State.readEeproms
  with_reducible repeat' first
      | assumption | intro _ | apply Good.State_raise | apply Good.State_alert | apply FGood.Boot_rewrite | apply Good.ite
      | apply Good.foldl | apply Good.foldl_fst | apply MGood.of_good | apply FGood.of_good | apply FGood.ite
      | (refine Good.of_opt (o := _) ?_ (by assumption)) | (refine Good.of_opt1 (o := _) ?_ (by assumption))
      | simp only [Good.mk_iff, FGood.mk_iff] | apply And.intro | dsimp only | split

theorem Good.State_bringUpMemory {b0 : State} (s : State) (i : BootInputs)
    (hs : Good b0 s) :
    Good b0 (State.bringUpMemory s i) := by
  unfold State.bringUpMemory
  with_reducible repeat' first
      | assumption | intro _ | apply Good.State_onPower | apply Good.State_raise | apply Good.ite | apply Good.foldl | apply Good.foldl_fst
      | apply Good.map_getD | apply Good.getD | apply MGood.of_good | apply FGood.of_good | apply FGood.ite
      | simp only [Good.mk_iff, FGood.mk_iff] | apply And.intro | dsimp only | split

theorem Good.State_testArrays {b0 : State} (s : State) (i : BootInputs)
    (hs : Good b0 s) :
    Good b0 (State.testArrays s i) := by
  unfold State.testArrays
  with_reducible repeat' first
      | assumption | intro _ | apply Good.State_katFailed | apply Good.State_restoreTest | apply Good.State_measureHoldup
      | apply Good.foldl | apply Good.foldl_fst | apply MGood.of_good | apply FGood.of_good | simp only [Good.mk_iff, FGood.mk_iff]
      | apply And.intro | dsimp only

theorem Good.State_openPorts {b0 : State} (s : State) (i : BootInputs)
    (hs : Good b0 s) :
    Good b0 (State.openPorts s i) := by
  unfold State.openPorts
  with_reducible repeat' first
      | assumption | intro _ | apply Good.State_hostPortUp | apply Good.State_raise | apply Good.ite | apply MGood.of_good
      | apply FGood.of_good | apply FGood.ite | simp only [Good.mk_iff, FGood.mk_iff] | apply And.intro | dsimp only | split

theorem Good.State_romRecovery {b0 : State} (s : State)
    (hs : Good b0 s) :
    Good b0 (State.romRecovery s) := by
  unfold State.romRecovery
  with_reducible repeat' first
      | assumption | intro _ | apply Good.State_alert | apply MGood.of_good | apply FGood.of_good | simp only [Good.mk_iff, FGood.mk_iff]
      | apply And.intro

theorem Good.State_bootUp {b0 : State} (s : State) (i : BootInputs)
    (hs : Good b0 s) :
    Good b0 (State.bootUp s i) := by
  unfold State.bootUp
  with_reducible repeat' first
      | assumption | intro _ | apply Good.State_alert | apply Good.State_onPower | apply FGood.Boot_rewrite | apply Good.State_exhausted
      | apply FGood.Boot_countTrial | apply Good.of_slotFallback | apply Good.State_romRecovery | apply Good.State_startXoel
      | apply Good.State_readEeproms | apply Good.State_bringUpMemory | apply Good.State_testArrays | apply Good.State_openPorts
      | apply Good.ite | apply MGood.of_good | apply FGood.of_good | apply FGood.ite | (refine Good.of_opt (o := _) ?_ (by assumption))
      | (refine Good.of_opt1 (o := _) ?_ (by assumption)) | simp only [Good.mk_iff, FGood.mk_iff] | apply And.intro | dsimp only | split

theorem Good.State_powerUp {b0 : State} (s : State)
    (hs : Good b0 s) :
    Good b0 (State.powerUp s) := by
  unfold State.powerUp
  with_reducible repeat' first
      | assumption | intro _ | apply MGood.moduleReset | apply FGood.Boot_moduleReset | apply Good.State_moduleReset | apply MGood.of_good
      | apply FGood.of_good | apply ByteGood.of | apply WcbGood.of | simp only [Good.mk_iff, MGood.mk_iff, FGood.mk_iff] | apply And.intro

theorem Good.of_execColdBoot {b0 : State} (inputs : BootInputs) (s : State)
    (hs : Good b0 s) :
    ∀ z, execColdBoot inputs s = .next z → Good b0 z := by
  unfold execColdBoot
  intro z hz
  injection hz with hz
  subst hz
  with_reducible repeat' first
      | assumption | intro _ | apply Good.of_onlyIf | apply Good.State_powerUp | apply Good.State_bootUp | apply Good.ite
      | apply MGood.of_good | apply FGood.of_good | apply FGood.ite | simp only [Good.mk_iff, FGood.mk_iff] | apply And.intro | dsimp only
      | split

theorem Good.of_execModuleWarmReset {b0 : State} (inputs : BootInputs) (s : State)
    (hs : Good b0 s) :
    ∀ z, execModuleWarmReset inputs s = .next z → Good b0 z := by
  unfold execModuleWarmReset
  intro z hz
  injection hz with hz
  subst hz
  with_reducible repeat' first
      | assumption | intro _ | apply Good.of_onlyIf | apply MGood.moduleReset | apply FGood.Boot_moduleReset | apply Good.State_moduleReset
      | apply Good.State_bootUp | apply ByteGood.of | apply WcbGood.of | apply And.intro

theorem Good.State_setChan {b0 : State} (s : State) (c : Nat) (x : Channel)
    (hs : Good b0 s) :
    Good b0 (State.setChan s c x) := by
  unfold State.setChan
  with_reducible repeat' first
      | assumption | intro _ | apply MGood.Mem_setChan | apply MGood.of_good | apply FGood.of_good | apply ByteGood.of | apply WcbGood.of
      | simp only [Good.mk_iff, MGood.mk_iff] | apply And.intro

theorem Good.State_countCe {b0 : State} (s : State) (c : Nat)
    (hs : Good b0 s) :
    Good b0 (State.countCe s c) := by
  unfold State.countCe
  with_reducible repeat' first
      | assumption | intro _ | apply MGood.Mem_setChan | apply Good.State_setChan | apply Good.State_stuck | apply MGood.of_good
      | apply FGood.of_good | simp only [Good.mk_iff] | apply And.intro | dsimp only

theorem Good.State_countUe {b0 : State} (s : State) (c : Nat)
    (hs : Good b0 s) :
    Good b0 (State.countUe s c) := by
  unfold State.countUe
  with_reducible repeat' first
      | assumption | intro _ | apply MGood.Mem_setChan | apply Good.State_setChan | apply Good.State_stuck | apply MGood.of_good
      | apply FGood.of_good | simp only [Good.mk_iff] | apply And.intro | dsimp only

theorem Good.State_countParity {b0 : State} (s : State) (c : Nat)
    (hs : Good b0 s) :
    Good b0 (State.countParity s c) := by
  unfold State.countParity
  with_reducible repeat' first
      | assumption | intro _ | apply MGood.Mem_setChan | apply Good.State_setChan | apply Good.State_stuck | apply MGood.of_good
      | apply FGood.of_good | simp only [Good.mk_iff] | apply And.intro | dsimp only

theorem Good.State_countRetrain {b0 : State} (s : State) (c : Nat)
    (hs : Good b0 s) :
    Good b0 (State.countRetrain s c) := by
  unfold State.countRetrain
  with_reducible repeat' first
      | assumption | intro _ | apply MGood.Mem_setChan | apply Good.State_setChan | apply Good.State_stuck | apply MGood.of_good
      | apply FGood.of_good | simp only [Good.mk_iff] | apply And.intro | dsimp only

theorem Good.State_trigger {b0 : State} (s : State) (c : Nat)
    (hs : Good b0 s) :
    Good b0 (State.trigger s c) := by
  unfold State.trigger
  with_reducible repeat' first
      | assumption | intro _ | apply MGood.Mem_setChan | apply Good.State_setChan | apply Good.ite | apply MGood.of_good
      | apply FGood.of_good | apply ByteGood.of | apply WcbGood.of | apply MGood.ite | (refine Good.of_opt (o := _) ?_ (by assumption))
      | (refine Good.of_opt1 (o := _) ?_ (by assumption)) | (refine MGood.of_opt1 (o := _) ?_ (by assumption))
      | simp only [Good.mk_iff, MGood.mk_iff] | apply And.intro | dsimp only | split

theorem Good.State_parityErrors {b0 : State} (s : State) (ps : List ChannelRepeats)
    (hs : Good b0 s) :
    Good b0 (State.parityErrors s ps) := by
  unfold State.parityErrors
  with_reducible repeat' first
      | assumption | intro _ | apply Good.State_countParity | apply Good.State_trigger | apply MGood.Mem_setChan | apply Good.State_setChan
      | apply Good.ite | apply Good.foldl | apply Good.foldl_fst | apply MGood.of_good | apply FGood.of_good | simp only [Good.mk_iff]
      | apply And.intro | dsimp only | split

theorem Good.of_execRetrainDue {b0 : State} (channel : Fin 1024) (s : State)
    (hs : Good b0 s) :
    ∀ z, execRetrainDue channel s = .next z → Good b0 z := by
  unfold execRetrainDue
  intro z hz
  injection hz with hz
  subst hz
  with_reducible repeat' first | assumption | intro _ | apply Good.of_onlyIf | apply Good.State_trigger | apply And.intro

theorem Good.of_execDriftAlarm {b0 : State} (channel : Fin 1024) (s : State)
    (hs : Good b0 s) :
    ∀ z, execDriftAlarm channel s = .next z → Good b0 z := by
  unfold execDriftAlarm
  intro z hz
  injection hz with hz
  subst hz
  with_reducible repeat' first | assumption | intro _ | apply Good.State_trigger | apply And.intro

theorem Good.of_execRetrainRequest {b0 : State} (h : KcpHdr) (channel : W16) (s : State)
    (hs : Good b0 s) :
    ∀ z, execRetrainRequest h channel s = .next z → Good b0 z := by
  unfold execRetrainRequest
  intro z hz
  injection hz with hz
  subst hz
  with_reducible repeat' first
      | assumption | intro _ | apply Good.KcpCmd_arrive | apply Good.of_done | apply Good.State_trigger | apply Good.of_id
      | apply MGood.of_good | apply FGood.of_good | simp only [Good.mk_iff] | apply And.intro

theorem Good.of_execRetrainStart {b0 : State} (s : State)
    (hs : Good b0 s) :
    ∀ z, execRetrainStart s = .next z → Good b0 z := by
  unfold execRetrainStart
  intro z hz
  injection hz with hz
  subst hz
  with_reducible repeat' first
      | assumption | intro _ | apply MGood.Mem_setChan | apply Good.State_setChan | apply MGood.of_good | apply FGood.of_good
      | apply ByteGood.of | apply WcbGood.of | (refine Good.of_opt (o := _) ?_ (by assumption))
      | (refine Good.of_opt1 (o := _) ?_ (by assumption)) | (refine MGood.of_opt1 (o := _) ?_ (by assumption))
      | simp only [Good.mk_iff, MGood.mk_iff] | apply And.intro | split

theorem MGood.Mem_place {b0 : Mem} (m : Mem) (key : Nat) (poison : Bool)
    (hm : MGood b0 m) :
    MGood b0 (Mem.place m key poison) := by
  unfold Mem.place
  with_reducible repeat' first
      | assumption | intro _ | apply ByteGood.of | apply WcbGood.of | simp only [MGood.mk_iff] | apply And.intro | dsimp only

theorem MGood.Mem_poisonChannel {b0 : Mem} (m : Mem) (c : Nat)
    (hm : MGood b0 m) :
    MGood b0 (Mem.poisonChannel m c) := by
  unfold Mem.poisonChannel
  with_reducible repeat' first
      | assumption | intro _ | apply MGood.Mem_place | apply ByteGood.of | apply WcbGood.of | apply ByteGood.filter | apply MGood.foldl
      | apply MGood.foldl_fst | simp only [MGood.mk_iff] | apply And.intro | dsimp only

theorem Good.State_exhausted {b0 : State} (s : State)
    (hs : Good b0 s) :
    Good b0 (State.exhausted s) := by
  unfold State.exhausted
  with_reducible repeat' first
      | assumption | intro _ | apply Good.State_raise | apply Good.State_writeDump | apply Good.State_askReset | apply MGood.of_good
      | apply FGood.of_good | apply ByteGood.of | apply WcbGood.of | simp only [Good.mk_iff, MGood.mk_iff] | apply And.intro | dsimp only

theorem Good.State_purgeHbm {b0 : State} (s : State)
    (hs : Good b0 s) :
    Good b0 (State.purgeHbm s) := by
  unfold State.purgeHbm
  with_reducible repeat' first
      | assumption | intro _ | apply Good.State_purge | apply Good.ite | apply Good.foldl | apply Good.foldl_fst | apply And.intro | split

theorem Good.State_markLost {b0 : State} (s : State) (c : Nat)
    (hs : Good b0 s) :
    Good b0 (State.markLost s c) := by
  unfold State.markLost
  with_reducible repeat' first
      | assumption | intro _ | apply MGood.Mem_setChan | apply Good.State_setChan | apply Good.State_raise | apply Good.State_purgeHbm
      | apply Good.ite | apply MGood.of_good | apply FGood.of_good | apply ByteGood.of | apply WcbGood.of | apply MGood.ite
      | simp only [Good.mk_iff, MGood.mk_iff] | apply And.intro | dsimp only | split

theorem Good.State_loseChannel {b0 : State} (s : State) (c : Nat)
    (hs : Good b0 s) :
    Good b0 (State.loseChannel s c) := by
  unfold State.loseChannel
  with_reducible repeat' first
      | assumption | intro _ | apply Good.State_markLost | apply Good.State_exhausted | apply MGood.Mem_poisonChannel | apply MGood.drain
      | apply Good.ite | apply MGood.of_good | apply FGood.of_good | apply ByteGood.of | apply WcbGood.of | apply MGood.ite
      | (refine Good.of_opt (o := _) ?_ (by assumption)) | (refine Good.of_opt1 (o := _) ?_ (by assumption))
      | (refine MGood.of_opt1 (o := _) ?_ (by assumption)) | simp only [Good.mk_iff, MGood.mk_iff] | apply And.intro | dsimp only | split

theorem Good.of_execRetrainEnd {b0 : State} (passed : Bool) (s : State)
    (hs : Good b0 s) :
    ∀ z, execRetrainEnd passed s = .next z → Good b0 z := by
  unfold execRetrainEnd
  intro z hz
  injection hz with hz
  subst hz
  with_reducible repeat' first
      | assumption | intro _ | apply Good.of_whenReady | apply MGood.Mem_setChan | apply Good.State_setChan | apply MGood.drain
      | apply Good.State_countRetrain | apply Good.State_loseChannel | apply Good.ite | apply MGood.of_good | apply FGood.of_good
      | apply ByteGood.of | apply WcbGood.of | apply MGood.ite | simp only [Good.mk_iff, MGood.mk_iff] | apply And.intro | dsimp only
      | split

theorem Good.of_execChannelSilent {b0 : State} (channel : Fin 1024) (s : State)
    (hs : Good b0 s) :
    ∀ z, execChannelSilent channel s = .next z → Good b0 z := by
  unfold execChannelSilent
  intro z hz
  injection hz with hz
  subst hz
  with_reducible repeat' first | assumption | intro _ | apply Good.State_loseChannel | apply And.intro

theorem Good.of_execStackPhyFailure {b0 : State} (stack : Fin 32) (s : State)
    (hs : Good b0 s) :
    ∀ z, execStackPhyFailure stack s = .next z → Good b0 z := by
  unfold execStackPhyFailure
  intro z hz
  injection hz with hz
  subst hz
  with_reducible repeat' first
      | assumption | intro _ | apply Good.State_markLost | apply Good.State_exhausted | apply Good.ite | apply Good.foldl
      | apply Good.foldl_fst | apply And.intro | split

theorem Good.of_execChannelFenced {b0 : State} (channel : Fin 1024) (ceInHour ueInHour : Nat) (s : State)
    (hs : Good b0 s) :
    ∀ z, execChannelFenced channel ceInHour ueInHour s = .next z → Good b0 z := by
  unfold execChannelFenced
  intro z hz
  injection hz with hz
  subst hz
  with_reducible repeat' first
      | assumption | intro _ | apply Good.of_onlyIf | apply Good.State_raise | apply Good.State_exhausted | apply MGood.Mem_setChan
      | apply Good.State_setChan | apply Good.ite | apply MGood.of_good | apply FGood.of_good | apply ByteGood.of | apply WcbGood.of
      | apply MGood.ite | simp only [Good.mk_iff, MGood.mk_iff] | apply And.intro | dsimp only | split

theorem MGood.Mem_relocate {b0 : Mem} (m : Mem) (c : Nat)
    (hm : MGood b0 m) :
    MGood b0 (Mem.relocate m c) := by
  unfold Mem.relocate
  with_reducible repeat' first
      | assumption | intro _ | apply MGood.Mem_place | apply MGood.Mem_setChan | apply Good.State_setChan | apply ByteGood.of
      | apply WcbGood.of | apply MGood.ite | (refine MGood.of_opt1 (o := _) ?_ (by assumption)) | simp only [MGood.mk_iff]
      | apply And.intro | dsimp only | split

theorem Good.of_execGranuleRelocate {b0 : State} (channel : Fin 1024) (s : State)
    (hs : Good b0 s) :
    ∀ z, execGranuleRelocate channel s = .next z → Good b0 z := by
  unfold execGranuleRelocate
  intro z hz
  injection hz with hz
  subst hz
  with_reducible repeat' first
      | assumption | intro _ | apply Good.of_onlyIf | apply MGood.Mem_relocate | apply MGood.of_good | apply FGood.of_good
      | apply ByteGood.of | apply WcbGood.of | simp only [Good.mk_iff, MGood.mk_iff] | apply And.intro

theorem Good.of_execScrubStep {b0 : State} (channel : Fin 1024) (result : ScrubResult) (s : State)
    (hs : Good b0 s) :
    ∀ z, execScrubStep channel result s = .next z → Good b0 z := by
  unfold execScrubStep
  intro z hz
  injection hz with hz
  subst hz
  with_reducible repeat' first
      | assumption | intro _ | apply Good.of_onlyIf | apply MGood.Mem_setChan | apply Good.State_setChan | apply MGood.Mem_count
      | apply Good.State_countCe | apply Good.State_countUe | apply Good.ite | apply MGood.of_good | apply FGood.of_good
      | apply ByteGood.of | apply WcbGood.of | apply MGood.ite | (refine Good.of_opt (o := _) ?_ (by assumption))
      | (refine Good.of_opt1 (o := _) ?_ (by assumption)) | (refine MGood.of_opt1 (o := _) ?_ (by assumption))
      | simp only [Good.mk_iff, MGood.mk_iff] | apply And.intro | dsimp only | split

theorem Good.of_execWcbEvict {b0 : State} (stack : Fin 32) (s : State)
    (hs : Good b0 s) :
    ∀ z, execWcbEvict stack s = .next z → Good b0 z := by
  unfold execWcbEvict
  intro z hz
  injection hz with hz
  subst hz
  with_reducible repeat' first
      | assumption | intro _ | apply Good.of_whenReady | apply Good.State_take | apply Good.Repair_take | apply MGood.evict
      | apply MGood.of_good | apply FGood.of_good | apply ByteGood.of | apply WcbGood.of | simp only [Good.mk_iff, MGood.mk_iff]
      | apply And.intro

end Sys2Proof.Machine
end

