-- ==== Sys2Proof/Laws/KeepsProgram.lean ====
section
/-!
SUPPORT. What every operation keeps, after Laws/Keeps.lean: the operations of Machine/ in Memory, Feed, Rill, Arrays, Stats, Root, Update, Resident.
-/
namespace Sys2Proof.Machine

open Sys2Proof

theorem Good.of_execMemGrant {b0 : State} (h : KcpHdr) (base bytes : W64) (s : State)
    (hs : Good b0 s) :
    ∀ z, execMemGrant h base bytes s = .next z → Good b0 z := by
  unfold execMemGrant
  intro z hz
  injection hz with hz
  subst hz
  with_reducible repeat' first
      | assumption | intro _ | apply Good.KcpCmd_arrive | apply Good.of_done | apply Good.State_onCtx | apply Good.of_id
      | apply MGood.of_good | apply FGood.of_good | apply ByteGood.of | apply WcbGood.of | simp only [Good.mk_iff, MGood.mk_iff]
      | apply And.intro | dsimp only

theorem Good.of_execMemRelease {b0 : State} (h : KcpHdr) (region : W16) (s : State)
    (hs : Good b0 s) :
    ∀ z, execMemRelease h region s = .next z → Good b0 z := by
  unfold execMemRelease
  intro z hz
  injection hz with hz
  subst hz
  with_reducible repeat' first
      | assumption | intro _ | apply Good.KcpCmd_arrive | apply Good.of_done | apply Good.State_onCtx | apply Good.of_id
      | apply MGood.of_good | apply FGood.of_good | apply ByteGood.of | apply WcbGood.of | (refine Good.of_opt (o := _) ?_ (by assumption))
      | (refine Good.of_opt1 (o := _) ?_ (by assumption)) | (refine MGood.of_opt1 (o := _) ?_ (by assumption))
      | simp only [Good.mk_iff, MGood.mk_iff] | apply And.intro | split

theorem Good.of_execMemWrite {b0 : State} (h : KcpHdr) (addr : W64) (data : List Byte) (parityErrors : List ChannelRepeats) (s : State)
    (hs : Good b0 s) :
    ∀ z, execMemWrite h addr data parityErrors s = .next z → Good b0 z := by
  unfold execMemWrite
  intro z hz
  injection hz with hz
  subst hz
  with_reducible repeat' first
      | assumption | intro _ | apply Good.KcpCmd_arrive | apply Good.of_done | apply MGood.write | apply Good.State_write
      | apply Good.State_noteHost | apply Good.State_parityErrors | apply Good.of_id | apply MGood.of_good | apply FGood.of_good
      | apply ByteGood.of | apply WcbGood.of | simp only [Good.mk_iff, MGood.mk_iff] | apply And.intro

theorem Good.of_execMemRead {b0 : State} (h : KcpHdr) (addr : W64) (bytes : W32) (parityErrors : List ChannelRepeats) (s : State)
    (hs : Good b0 s) :
    ∀ z, execMemRead h addr bytes parityErrors s = .next z → Good b0 z := by
  unfold execMemRead
  intro z hz
  injection hz with hz
  subst hz
  with_reducible repeat' first
      | assumption | intro _ | apply Good.KcpCmd_arrive | apply Good.of_done | apply Good.State_noteReads | apply Good.State_parityErrors
      | apply Good.of_id | apply MGood.of_good | apply FGood.of_good | apply ByteGood.of | apply WcbGood.of
      | simp only [Good.mk_iff, MGood.mk_iff] | apply And.intro

theorem Good.of_execMemFill {b0 : State} (h : KcpHdr) (addr bytes : W64) (pattern : W32) (fence : W16) (s : State)
    (hs : Good b0 s) :
    ∀ z, execMemFill h addr bytes pattern fence s = .next z → Good b0 z := by
  unfold execMemFill
  intro z hz
  injection hz with hz
  subst hz
  with_reducible repeat' first
      | assumption | intro _ | apply Good.KcpCmd_arrive | apply Good.of_accepted | apply MGood.write | apply Good.State_write
      | apply Good.State_noteHost | apply Good.State_signal | apply Good.of_id | apply Good.ite | apply MGood.of_good | apply FGood.of_good
      | apply ByteGood.of | apply WcbGood.of | apply MGood.ite | simp only [Good.mk_iff, MGood.mk_iff] | apply And.intro | split

theorem Good.State_onStreams {b0 : State} (s : State) (h : KcpHdr) (f : List Stream → List Stream)
    (hs : Good b0 s) :
    Good b0 (State.onStreams s h f) := by
  unfold State.onStreams
  with_reducible repeat' first
      | assumption | intro _ | apply Good.State_setSession | apply MGood.of_good | apply FGood.of_good
      | (refine Good.of_opt (o := _) ?_ (by assumption)) | (refine Good.of_opt1 (o := _) ?_ (by assumption)) | simp only [Good.mk_iff]
      | apply And.intro | split

theorem Good.of_execStreamOpen {b0 : State} (h : KcpHdr) (stream dir : BitVec 8) (addr bytes : W64) (s : State)
    (hs : Good b0 s) :
    ∀ z, execStreamOpen h stream dir addr bytes s = .next z → Good b0 z := by
  unfold execStreamOpen
  intro z hz
  injection hz with hz
  subst hz
  with_reducible repeat' first
      | assumption | intro _ | apply Good.KcpCmd_arrive | apply Good.of_done | apply Good.State_onStreams | apply Good.State_pump
      | apply Good.of_id | apply Good.ite | apply Good.elim | apply MGood.of_good | apply FGood.of_good | apply ByteGood.of
      | apply WcbGood.of | apply MGood.ite | simp only [Good.mk_iff, MGood.mk_iff] | apply And.intro | dsimp only | split

theorem Good.of_execStreamData {b0 : State} (h : KcpHdr) (stream : BitVec 8) (offset : W64) (data : List Byte) (s : State)
    (hs : Good b0 s) :
    ∀ z, execStreamData h stream offset data s = .next z → Good b0 z := by
  unfold execStreamData
  intro z hz
  injection hz with hz
  subst hz
  with_reducible repeat' first
      | assumption | intro _ | apply Good.KcpCmd_arrive | apply Good.State_take | apply Good.Repair_take | apply MGood.Mem_writeSpans
      | apply Good.of_done | apply Good.State_noteHost | apply Good.State_countCtx | apply Good.State_onCtx | apply Good.of_id
      | apply Good.ite | apply MGood.of_good | apply FGood.of_good | apply ByteGood.of | apply WcbGood.of | apply MGood.ite
      | (refine Good.of_opt (o := _) ?_ (by assumption)) | (refine Good.of_opt1 (o := _) ?_ (by assumption))
      | (refine MGood.of_opt1 (o := _) ?_ (by assumption)) | simp only [Good.mk_iff, MGood.mk_iff] | apply And.intro | dsimp only | split

theorem Good.State_sendFetch {b0 : State} (s : State) (c : Nat) (f : Fetch)
    (hs : Good b0 s) :
    Good b0 (State.sendFetch s c f) := by
  unfold State.sendFetch
  with_reducible repeat' first
      | assumption | intro _ | apply Good.State_notify | apply MGood.of_good | apply FGood.of_good
      | (refine Good.of_opt (o := _) ?_ (by assumption)) | (refine Good.of_opt1 (o := _) ?_ (by assumption)) | simp only [Good.mk_iff]
      | apply And.intro | dsimp only | split

theorem Good.State_postFetch {b0 : State} (s : State) (c shard : Nat)
    (hs : Good b0 s) :
    Good b0 (State.postFetch s c shard) := by
  unfold State.postFetch
  with_reducible repeat' first
      | assumption | intro _ | apply Good.State_onCtx | apply Good.State_sendFetch | apply Good.State_raise | apply Good.of_id
      | apply Good.elim | apply MGood.of_good | apply FGood.of_good | (refine Good.of_opt (o := _) ?_ (by assumption))
      | (refine Good.of_opt1 (o := _) ?_ (by assumption)) | simp only [Good.mk_iff] | apply And.intro | dsimp only | split

theorem Good.State_shardResident {b0 : State} (s : State) (c shard : Nat)
    (hs : Good b0 s) :
    Good b0 (State.shardResident s c shard) := by
  unfold State.shardResident
  with_reducible repeat' first
      | assumption | intro _ | apply Good.State_onCtx | apply Good.State_refoldShard | apply MGood.of_good | apply FGood.of_good
      | (refine Good.of_opt (o := _) ?_ (by assumption)) | (refine Good.of_opt1 (o := _) ?_ (by assumption)) | simp only [Good.mk_iff]
      | apply And.intro | dsimp only | split

theorem Good.State_closeFetch {b0 : State} (s : State) (c : Nat) (f : Fetch) (good : Bool)
    (hs : Good b0 s) :
    Good b0 (State.closeFetch s c f good) := by
  unfold State.closeFetch
  with_reducible repeat' first
      | assumption | intro _ | apply Good.State_shardResident | apply Good.State_postFetch | apply Good.ite | apply And.intro | split

theorem Good.of_execStreamClose {b0 : State} (h : KcpHdr) (stream : BitVec 8) (crc : W32) (s : State)
    (hs : Good b0 s) :
    ∀ z, execStreamClose h stream crc s = .next z → Good b0 z := by
  unfold execStreamClose
  intro z hz
  injection hz with hz
  subst hz
  with_reducible repeat' first
      | assumption | intro _ | apply Good.KcpCmd_arrive | apply Good.State_noteReads | apply Good.State_closeFetch
      | apply Good.State_onStreams | apply Good.of_id | apply Good.ite | apply MGood.of_good | apply FGood.of_good | apply ByteGood.of
      | apply WcbGood.of | apply MGood.ite | (refine Good.of_opt (o := _) ?_ (by assumption))
      | (refine Good.of_opt1 (o := _) ?_ (by assumption)) | (refine MGood.of_opt1 (o := _) ?_ (by assumption))
      | simp only [Good.mk_iff, MGood.mk_iff] | apply And.intro | dsimp only | split

theorem Good.State_timeoutStream {b0 : State} (s : State) (slot : Nat) (x : Session) (t : Stream)
    (hs : Good b0 s) :
    Good b0 (State.timeoutStream s slot x t) := by
  unfold State.timeoutStream
  with_reducible repeat' first
      | assumption | intro _ | apply Good.State_setSession | apply Good.State_raise | apply Good.ite | apply MGood.of_good
      | apply FGood.of_good | simp only [Good.mk_iff] | apply And.intro | split

theorem Good.of_execStreamTimeout {b0 : State} (slot : Fin 16) (stream : Fin 32) (s : State)
    (hs : Good b0 s) :
    ∀ z, execStreamTimeout slot stream s = .next z → Good b0 z := by
  unfold execStreamTimeout
  intro z hz
  injection hz with hz
  subst hz
  with_reducible repeat' first
      | assumption | intro _ | apply Good.of_whenReady | apply Good.State_timeoutStream | apply Good.State_raise
      | apply Good.State_postFetch | apply Good.ite | apply And.intro | split

theorem Good.State_repost {b0 : State} (s : State) (c : Nat)
    (hs : Good b0 s) :
    Good b0 (State.repost s c) := by
  unfold State.repost
  with_reducible repeat' first
      | assumption | intro _ | apply Good.State_postFetch | apply Good.foldl | apply Good.foldl_fst | apply And.intro

theorem Good.of_execCisternAttach {b0 : State} (h : KcpHdr) (s : State)
    (hs : Good b0 s) :
    ∀ z, execCisternAttach h s = .next z → Good b0 z := by
  unfold execCisternAttach
  intro z hz
  injection hz with hz
  subst hz
  with_reducible repeat' first
      | assumption | intro _ | apply Good.KcpCmd_arrive | apply Good.of_done | apply Good.State_onCtx | apply Good.State_repost
      | apply Good.of_id | apply MGood.of_good | apply FGood.of_good | apply ByteGood.of | apply WcbGood.of
      | simp only [Good.mk_iff, MGood.mk_iff] | apply And.intro

theorem Good.of_execCisternPrefetch {b0 : State} (ctx : Fin 64) (shard : Nat) (s : State)
    (hs : Good b0 s) :
    ∀ z, execCisternPrefetch ctx shard s = .next z → Good b0 z := by
  unfold execCisternPrefetch
  intro z hz
  injection hz with hz
  subst hz
  with_reducible repeat' first | assumption | intro _ | apply Good.of_onlyIf | apply Good.State_postFetch | apply And.intro

theorem Good.of_execShardSet {b0 : State} (h : KcpHdr) (layer expert : W16) (firstBlock momentAge b1pow b2pow : W32) (s : State)
    (hs : Good b0 s) :
    ∀ z, execShardSet h layer expert firstBlock momentAge b1pow b2pow s = .next z → Good b0 z := by
  unfold execShardSet
  intro z hz
  injection hz with hz
  subst hz
  with_reducible repeat' first
      | assumption | intro _ | apply Good.KcpCmd_arrive | apply Good.of_done | apply Good.State_onCtx | apply Good.of_id
      | apply MGood.of_good | apply FGood.of_good | (refine Good.of_opt (o := _) ?_ (by assumption))
      | (refine Good.of_opt1 (o := _) ?_ (by assumption)) | simp only [Good.mk_iff] | apply And.intro | split

theorem Good.State_onGrid {b0 : State} (s : State) (c slot : Nat) (f : GridRun → GridRun)
    (hs : Good b0 s) :
    Good b0 (State.onGrid s c slot f) := by
  unfold State.onGrid
  with_reducible repeat' first
      | assumption | intro _ | apply Good.State_onCtx | apply Good.ite | apply MGood.of_good | apply FGood.of_good
      | simp only [Good.mk_iff] | apply And.intro | split

theorem Good.State_onTask {b0 : State} (s : State) (c slot t : Nat) (f : TaskRun → TaskRun)
    (hs : Good b0 s) :
    Good b0 (State.onTask s c slot t f) := by
  unfold State.onTask
  with_reducible repeat' first
      | assumption | intro _ | apply Good.State_onGrid | apply MGood.of_good | apply FGood.of_good | simp only [Good.mk_iff]
      | apply And.intro | split

theorem Good.State_submit {b0 : State} (s : State) (c slot : Nat) (desc : Rec) (step : Option Nat)
    (hs : Good b0 s) :
    Good b0 (State.submit s c slot desc step) := by
  unfold State.submit
  with_reducible repeat' first
      | assumption | intro _ | apply Good.State_onCtx | apply MGood.of_good | apply FGood.of_good | simp only [Good.mk_iff]
      | apply And.intro

theorem Good.State_submitFuel {b0 : State} (fuel : Nat) (s : State) (c : Nat)
    (hs : Good b0 s) :
    Good b0 (State.submitFuel fuel s c) := by
  induction fuel generalizing s c with
  | zero => unfold State.submitFuel; assumption
  | succ k ih =>
    unfold State.submitFuel
    with_reducible repeat' first
        | assumption | intro _ | apply ih | apply Good.State_submit | apply Good.State_onCtx | apply Good.ite | apply MGood.of_good
        | apply FGood.of_good | (refine Good.of_opt (o := _) ?_ (by assumption)) | (refine Good.of_opt1 (o := _) ?_ (by assumption))
        | simp only [Good.mk_iff] | apply And.intro | dsimp only | split

theorem Good.State_submitGrids {b0 : State} (s : State) (c : Nat)
    (hs : Good b0 s) :
    Good b0 (State.submitGrids s c) := by
  unfold State.submitGrids
  with_reducible repeat' first
      | assumption | intro _ | apply Good.State_submitFuel | apply Good.ite | apply Good.elim | apply MGood.of_good | apply FGood.of_good
      | simp only [Good.mk_iff] | apply And.intro | dsimp only | split

theorem Good.State_signalIf {b0 : State} (s : State) (en : Bool) (f : Nat)
    (hs : Good b0 s) :
    Good b0 (State.signalIf s en f) := by
  unfold State.signalIf
  with_reducible repeat' first | assumption | intro _ | apply Good.State_signal | apply Good.ite | apply And.intro | split

theorem Good.State_completeTask {b0 : State} (s : State) (c slot t : Nat)
    (hs : Good b0 s) :
    Good b0 (State.completeTask s c slot t) := by
  unfold State.completeTask
  with_reducible repeat' first
      | assumption | intro _ | apply Good.of_done | apply Good.State_onGrid | apply Good.State_signalIf | apply Good.State_onCtx
      | apply Good.State_submitGrids | apply Good.ite | apply MGood.of_good | apply FGood.of_good | apply ByteGood.of | apply WcbGood.of
      | apply MGood.ite | (refine Good.of_opt (o := _) ?_ (by assumption)) | (refine Good.of_opt1 (o := _) ?_ (by assumption))
      | (refine MGood.of_opt1 (o := _) ?_ (by assumption)) | simp only [Good.mk_iff, MGood.mk_iff] | apply And.intro | dsimp only | split

theorem Good.State_onBlock {b0 : State} (s : State) (c i b : Nat) (f : Block → Block)
    (hs : Good b0 s) :
    Good b0 (State.onBlock s c i b f) := by
  unfold State.onBlock
  with_reducible repeat' first
      | assumption | intro _ | apply Good.State_onCtx | apply MGood.of_good | apply FGood.of_good | simp only [Good.mk_iff]
      | apply And.intro | split

theorem Good.State_onTile {b0 : State} (s : State) (a k : Nat) (f : Tile → Tile)
    (hs : Good b0 s) :
    Good b0 (State.onTile s a k f) := by
  unfold State.onTile
  with_reducible repeat' first
      | assumption | intro _ | apply Good.State_onArray | apply MGood.of_good | apply FGood.of_good | simp only [Good.mk_iff]
      | apply And.intro | split

theorem MGood.Mem_stageRow {b0 : Mem} (m : Mem) (d : Rec) (side half slot t : Nat) (xs : List (Nat × Num))
    (hm : MGood b0 m) :
    MGood b0 ((Mem.stageRow m d side half slot t xs)).1 := by
  unfold Mem.stageRow
  with_reducible repeat' first
      | assumption | intro _ | apply MGood.write | apply Good.State_write | apply ByteGood.of | apply WcbGood.of | apply MGood.foldl
      | apply MGood.foldl_fst | simp only [MGood.mk_iff] | apply And.intro | dsimp only

theorem Good.State_tap {b0 : State} (s : State) (c : Nat) (d : Rec) (l side : Nat) (x : TapTask) (n : Nat) (counts : Bool) (rows : List (Nat × List (Nat × Num)))
    (hs : Good b0 s) :
    Good b0 ((State.tap s c d l side x n counts rows)).1 := by
  unfold State.tap
  with_reducible repeat' first
      | assumption | intro _ | apply MGood.zeroFill | apply MGood.Mem_stageRow | apply Good.State_onCtx | apply Good.State_countCtx
      | apply Good.ite | apply Good.foldl | apply Good.foldl_fst | apply MGood.of_good | apply FGood.of_good | apply ByteGood.of
      | apply WcbGood.of | apply MGood.ite | apply MGood.foldl | apply MGood.foldl_fst | simp only [Good.mk_iff, MGood.mk_iff]
      | apply And.intro | dsimp only | split

theorem Good.State_rill {b0 : State} (s : State) (c : Nat) (g : GridRun) (t : Nat) (r : Rec) (tile : Tile) (p : Pass)
    (hs : Good b0 s) :
    Good b0 ((State.rill s c g t r tile p)).1 := by
  unfold State.rill
  with_reducible repeat' first
      | assumption | intro _ | apply Good.State_tap | apply Good.KcpCmd_run | apply Good.ite | apply MGood.of_good | apply FGood.of_good
      | (refine Good.of_opt (o := _) ?_ (by assumption)) | (refine Good.of_opt1 (o := _) ?_ (by assumption)) | simp only [Good.mk_iff]
      | apply And.intro | split

theorem Good.State_tapEvent {b0 : State} (s : State) (c a slot t f : Nat)
    (hs : Good b0 s) :
    Good b0 (State.tapEvent s c a slot t f) := by
  unfold State.tapEvent
  with_reducible repeat' first
      | assumption | intro _ | apply Good.State_flagEvent | apply MGood.of_good | apply FGood.of_good | simp only [Good.mk_iff]
      | apply And.intro

theorem Good.State_sendSum {b0 : State} (s : State) (c : Nat) (d : Rec) (l side b n : Nat)
    (hs : Good b0 s) :
    Good b0 (State.sendSum s c d l side b n) := by
  unfold State.sendSum
  with_reducible repeat' first
      | assumption | intro _ | apply Good.State_sendMessage | apply Good.foldl | apply Good.foldl_fst | apply MGood.of_good
      | apply FGood.of_good | apply ByteGood.of | apply WcbGood.of | apply MGood.foldl | apply MGood.foldl_fst
      | simp only [Good.mk_iff, MGood.mk_iff] | apply And.intro | dsimp only

theorem Good.State_endStat {b0 : State} (s : State) (c a : Nat) (d : Rec) (l side b g : Nat) (p : Pass)
    (hs : Good b0 s) :
    Good b0 (State.endStat s c a d l side b g p) := by
  unfold State.endStat
  with_reducible repeat' first
      | assumption | intro _ | apply Good.KcpCmd_run | apply MGood.write | apply Good.State_write | apply Good.State_flagEvent
      | apply Good.State_onCtx | apply Good.State_sendSum | apply Good.ite | apply Good.foldl | apply Good.foldl_fst | apply Good.map_getD
      | apply Good.getD | apply MGood.of_good | apply FGood.of_good | apply ByteGood.of | apply WcbGood.of | apply MGood.ite
      | apply MGood.foldl | apply MGood.foldl_fst | simp only [Good.mk_iff, MGood.mk_iff] | apply And.intro | dsimp only | split

theorem Good.State_engineReads {b0 : State} (s : State) (c : Nat) (dma : Bool) (rs : List (Nat × Nat))
    (hs : Good b0 s) :
    Good b0 (State.engineReads s c dma rs) := by
  unfold State.engineReads
  with_reducible repeat' first | assumption | intro _ | apply Good.State_takeTokens | apply Good.State_noteReads | apply And.intro

theorem Good.State_countDelays {b0 : State} (s : State) (a : Nat)
    (hs : Good b0 s) :
    Good b0 (State.countDelays s a) := by
  unfold State.countDelays
  with_reducible repeat' first
      | assumption | intro _ | apply Good.State_countCtx | apply Good.State_onTask | apply Good.ite | apply Good.foldl
      | apply Good.foldl_fst | apply MGood.of_good | apply FGood.of_good | (refine Good.of_opt (o := _) ?_ (by assumption))
      | (refine Good.of_opt1 (o := _) ?_ (by assumption)) | simp only [Good.mk_iff] | apply And.intro | split

theorem Good.State_acceptPass {b0 : State} (s : State) (a c : Nat) (p : Pass)
    (hs : Good b0 s) :
    Good b0 (State.acceptPass s a c p) := by
  unfold State.acceptPass
  with_reducible repeat' first
      | assumption | intro _ | apply Good.State_onArray | apply MGood.of_good | apply FGood.of_good | simp only [Good.mk_iff]
      | apply And.intro

theorem Good.State_startRun {b0 : State} (s : State) (a c : Nat) (g : GridRun) (t : Nat) (r : Rec) (b n i : Nat)
    (hs : Good b0 s) :
    Good b0 (State.startRun s a c g t r b n i) := by
  unfold State.startRun
  with_reducible repeat' first
      | assumption | intro _ | apply Good.State_guarded | apply Good.State_engineReads | apply Good.State_onTile | apply Good.State_onTask
      | apply Good.State_acceptPass | apply Good.ite | apply MGood.of_good | apply FGood.of_good | apply ByteGood.of | apply WcbGood.of
      | apply MGood.ite | simp only [Good.mk_iff, MGood.mk_iff] | apply And.intro | dsimp only | split

theorem Good.State_startStat {b0 : State} (s : State) (a c : Nat) (d : Rec) (l side b n g : Nat)
    (hs : Good b0 s) :
    Good b0 (State.startStat s a c d l side b n g) := by
  unfold State.startStat
  with_reducible repeat' first
      | assumption | intro _ | apply Good.State_guarded | apply Good.State_noteReads | apply Good.State_acceptPass | apply MGood.of_good
      | apply FGood.of_good | simp only [Good.mk_iff] | apply And.intro | dsimp only

theorem Good.State_startPre {b0 : State} (s : State) (a c i b : Nat)
    (hs : Good b0 s) :
    Good b0 (State.startPre s a c i b) := by
  unfold State.startPre
  with_reducible repeat' first
      | assumption | intro _ | apply Good.State_onBlock | apply Good.State_acceptPass | apply MGood.of_good | apply FGood.of_good
      | simp only [Good.mk_iff] | apply And.intro

theorem Good.of_execPassStart {b0 : State} (array : Fin 192) (s : State)
    (hs : Good b0 s) :
    ∀ z, execPassStart array s = .next z → Good b0 z := by
  unfold execPassStart
  intro z hz
  injection hz with hz
  subst hz
  with_reducible repeat' first
      | assumption | intro _ | apply Good.of_onlyIf | apply Good.State_countDelays | apply Good.of_whenReady | apply Good.State_startRun
      | apply Good.State_startStat | apply Good.State_startPre | apply MGood.of_good | apply FGood.of_good
      | (refine Good.of_opt (o := _) ?_ (by assumption)) | (refine Good.of_opt1 (o := _) ?_ (by assumption)) | simp only [Good.mk_iff]
      | apply And.intro | dsimp only | split

theorem Good.State_countParityEvent {b0 : State} (s : State) (a : Nat)
    (hs : Good b0 s) :
    Good b0 (State.countParityEvent s a) := by
  unfold State.countParityEvent
  with_reducible repeat' first
      | assumption | intro _ | apply Good.State_onArray | apply Good.State_stuck | apply MGood.of_good | apply FGood.of_good
      | simp only [Good.mk_iff] | apply And.intro | dsimp only

theorem Good.State_countParityEvents {b0 : State} (s : State) (a n : Nat)
    (hs : Good b0 s) :
    Good b0 (State.countParityEvents s a n) := by
  unfold State.countParityEvents
  with_reducible repeat' first
      | assumption | intro _ | apply Good.State_countParityEvent | apply Good.foldl | apply Good.foldl_fst | apply And.intro

theorem Good.State_withdraw {b0 : State} (s : State) (a : Nat) (which : Pass → Bool)
    (hs : Good b0 s) :
    Good b0 (State.withdraw s a which) := by
  unfold State.withdraw
  with_reducible repeat' first
      | assumption | intro _ | apply Good.State_onArray | apply Good.State_onTask | apply Good.State_onBlock | apply Good.foldl
      | apply Good.foldl_fst | apply MGood.of_good | apply FGood.of_good | (refine Good.of_opt (o := _) ?_ (by assumption))
      | (refine Good.of_opt1 (o := _) ?_ (by assumption)) | simp only [Good.mk_iff] | apply And.intro | dsimp only | split

theorem Good.State_offerTile {b0 : State} (s : State) (a c slot t : Nat) (tile : Tile) (r : Rec) (pos : Nat)
    (hs : Good b0 s) :
    Good b0 ((State.offerTile s a c slot t tile r pos)).1 := by
  unfold State.offerTile
  with_reducible repeat' first
      | assumption | intro _ | apply Good.State_captureFlags | apply Good.ite | apply Good.map_getD | apply Good.getD | apply MGood.of_good
      | apply FGood.of_good | simp only [Good.mk_iff] | apply And.intro | dsimp only | split

theorem Good.State_bankUe {b0 : State} (s : State) (a c i : Nat)
    (hs : Good b0 s) :
    Good b0 (State.bankUe s a c i) := by
  unfold State.bankUe
  with_reducible repeat' first
      | assumption | intro _ | apply Good.State_onTile | apply Good.State_raise | apply Good.State_purge | apply MGood.of_good
      | apply FGood.of_good | simp only [Good.mk_iff] | apply And.intro | dsimp only

theorem Good.State_finishRun {b0 : State} (s : State) (a slot t : Nat) (p : Pass)
    (hs : Good b0 s) :
    Good b0 (State.finishRun s a slot t p) := by
  unfold State.finishRun
  with_reducible repeat' first
      | assumption | intro _ | apply Good.State_onTile | apply Good.State_tap | apply Good.State_rill | apply Good.KcpCmd_run
      | apply Good.State_onTask | apply Good.State_tapEvent | apply Good.State_offerTile | apply Good.State_onArray | apply Good.ite
      | apply MGood.of_good | apply FGood.of_good | apply ByteGood.of | apply WcbGood.of | apply MGood.ite
      | (refine Good.of_opt (o := _) ?_ (by assumption)) | (refine Good.of_opt1 (o := _) ?_ (by assumption))
      | (refine MGood.of_opt1 (o := _) ?_ (by assumption)) | simp only [Good.mk_iff, MGood.mk_iff] | apply And.intro | dsimp only | split

theorem Good.State_bankUeFree {b0 : State} (s : State) (a c : Nat)
    (hs : Good b0 s) :
    Good b0 (State.bankUeFree s a c) := by
  unfold State.bankUeFree
  with_reducible repeat' first
      | assumption | intro _ | apply Good.State_raise | apply Good.State_purge | apply Good.State_drawn | apply And.intro

theorem Good.State_endPass {b0 : State} (s : State) (a : Nat) (p : Pass) (ecc : BankEcc)
    (hs : Good b0 s) :
    Good b0 (State.endPass s a p ecc) := by
  unfold State.endPass
  with_reducible repeat' first
      | assumption | intro _ | apply Good.State_onArray | apply Good.State_countArray | apply Good.State_bankUe
      | apply Good.State_finishRun | apply Good.State_bankUeFree | apply Good.State_endStat | apply Good.State_onBlock | apply Good.ite
      | apply MGood.of_good | apply FGood.of_good | (refine Good.of_opt (o := _) ?_ (by assumption))
      | (refine Good.of_opt1 (o := _) ?_ (by assumption)) | simp only [Good.mk_iff] | apply And.intro | dsimp only | split

theorem Good.of_execPassEnd {b0 : State} (array : Fin 192) (parityErrors : Nat) (ecc : BankEcc) (s : State)
    (hs : Good b0 s) :
    ∀ z, execPassEnd array parityErrors ecc s = .next z → Good b0 z := by
  unfold execPassEnd
  intro z hz
  injection hz with hz
  subst hz
  with_reducible repeat' first
      | assumption | intro _ | apply Good.of_onlyIf | apply Good.State_parityErrors | apply Good.State_countParityEvents
      | apply Good.State_withdraw | apply Good.State_onArray | apply Good.State_endPass | apply Good.ite | apply MGood.of_good
      | apply FGood.of_good | (refine Good.of_opt (o := _) ?_ (by assumption)) | (refine Good.of_opt1 (o := _) ?_ (by assumption))
      | simp only [Good.mk_iff] | apply And.intro | dsimp only | split

theorem Good.State_enterSluice {b0 : State} (s : State) (a : Nat) (e : SluiceSlot)
    (hs : Good b0 s) :
    Good b0 (State.enterSluice s a e) := by
  unfold State.enterSluice
  with_reducible repeat' first
      | assumption | intro _ | apply Good.State_onTile | apply Good.State_onArray | apply MGood.of_good | apply FGood.of_good
      | simp only [Good.mk_iff] | apply And.intro

theorem Good.State_fillSluice {b0 : State} (s : State) (a : Nat)
    (hs : Good b0 s) :
    Good b0 (State.fillSluice s a) := by
  unfold State.fillSluice
  with_reducible repeat' first
      | assumption | intro _ | apply Good.State_onArray | apply Good.State_enterSluice | apply Good.ite | apply MGood.of_good
      | apply FGood.of_good | (refine Good.of_opt (o := _) ?_ (by assumption)) | (refine Good.of_opt1 (o := _) ?_ (by assumption))
      | simp only [Good.mk_iff] | apply And.intro | dsimp only | split

theorem Good.of_execSluiceHandover {b0 : State} (array : Fin 192) (s : State)
    (hs : Good b0 s) :
    ∀ z, execSluiceHandover array s = .next z → Good b0 z := by
  unfold execSluiceHandover
  intro z hz
  injection hz with hz
  subst hz
  with_reducible repeat' first | assumption | intro _ | apply Good.of_onlyIf | apply Good.State_fillSluice | apply And.intro

theorem Good.of_execZrelClearDone {b0 : State} (array : Fin 192) (tile : Fin 16) (s : State)
    (hs : Good b0 s) :
    ∀ z, execZrelClearDone array tile s = .next z → Good b0 z := by
  unfold execZrelClearDone
  intro z hz
  injection hz with hz
  subst hz
  with_reducible repeat' first
      | assumption | intro _ | apply Good.of_onlyIf | apply Good.State_onTile | apply MGood.of_good | apply FGood.of_good
      | simp only [Good.mk_iff] | apply And.intro

theorem Good.of_execKatDue {b0 : State} (array : Fin 192) (s : State)
    (hs : Good b0 s) :
    ∀ z, execKatDue array s = .next z → Good b0 z := by
  unfold execKatDue
  intro z hz
  injection hz with hz
  subst hz
  with_reducible repeat' first
      | assumption | intro _ | apply Good.of_onlyIf | apply Good.State_onArray | apply MGood.of_good | apply FGood.of_good
      | simp only [Good.mk_iff] | apply And.intro

theorem Good.of_execKatEnd {b0 : State} (array : Fin 192) (result : KatResult) (s : State)
    (hs : Good b0 s) :
    ∀ z, execKatEnd array result s = .next z → Good b0 z := by
  unfold execKatEnd
  intro z hz
  injection hz with hz
  subst hz
  with_reducible repeat' first
      | assumption | intro _ | apply Good.of_onlyIf | apply Good.State_onArray | apply Good.State_katFailed | apply MGood.of_good
      | apply FGood.of_good | (refine Good.of_opt (o := _) ?_ (by assumption)) | (refine Good.of_opt1 (o := _) ?_ (by assumption))
      | simp only [Good.mk_iff] | apply And.intro | split

theorem Good.State_writeRepair {b0 : State} (s : State) (a : Fin 192) (f : ArrayUnit → ArrayUnit)
    (hs : Good b0 s) :
    Good b0 (State.writeRepair s a f) := by
  unfold State.writeRepair
  with_reducible repeat' first
      | assumption | intro _ | apply Good.of_onlyIf | apply Good.State_onArray | apply MGood.of_good | apply FGood.of_good
      | (refine Good.of_opt (o := _) ?_ (by assumption)) | (refine Good.of_opt1 (o := _) ?_ (by assumption)) | simp only [Good.mk_iff]
      | apply And.intro | dsimp only | split

theorem Good.of_execSpareCtl {b0 : State} (array : Fin 192) (value : W32) (s : State)
    (hs : Good b0 s) :
    ∀ z, execSpareCtl array value s = .next z → Good b0 z := by
  unfold execSpareCtl
  intro z hz
  injection hz with hz
  subst hz
  with_reducible repeat' first
      | assumption | intro _ | apply Good.State_writeRepair | apply MGood.of_good | apply FGood.of_good | simp only [Good.mk_iff]
      | apply And.intro

theorem Good.of_execSkewTrim {b0 : State} (array : Fin 192) (value : W32) (s : State)
    (hs : Good b0 s) :
    ∀ z, execSkewTrim array value s = .next z → Good b0 z := by
  unfold execSkewTrim
  intro z hz
  injection hz with hz
  subst hz
  with_reducible repeat' first
      | assumption | intro _ | apply Good.State_writeRepair | apply MGood.of_good | apply FGood.of_good | simp only [Good.mk_iff]
      | apply And.intro

theorem Good.of_execRunKat {b0 : State} (array : Fin 192) (s : State)
    (hs : Good b0 s) :
    ∀ z, execRunKat array s = .next z → Good b0 z := by
  unfold execRunKat
  intro z hz
  injection hz with hz
  subst hz
  with_reducible repeat' first
      | assumption | intro _ | apply Good.of_onlyIf | apply Good.State_onArray | apply MGood.of_good | apply FGood.of_good
      | simp only [Good.mk_iff] | apply And.intro

theorem FGood.Boot_logArray {b0 : Boot} (b : Boot) (a : Nat) (ctl : W32) (ret : Bool)
    (hb : FGood b0 b) :
    FGood b0 (Boot.logArray b a ctl ret) := by
  unfold Boot.logArray
  with_reducible repeat' first | assumption | intro _ | simp only [FGood.mk_iff] | apply And.intro

theorem Good.of_execResume {b0 : State} (array : Fin 192) (s : State)
    (hs : Good b0 s) :
    ∀ z, execResume array s = .next z → Good b0 z := by
  unfold execResume
  intro z hz
  injection hz with hz
  subst hz
  with_reducible repeat' first
      | assumption | intro _ | apply Good.of_onlyIf | apply Good.State_onArray | apply FGood.Boot_logArray | apply Good.State_raise
      | apply Good.ite | apply MGood.of_good | apply FGood.of_good | apply FGood.ite | (refine Good.of_opt (o := _) ?_ (by assumption))
      | (refine Good.of_opt1 (o := _) ?_ (by assumption)) | simp only [Good.mk_iff, FGood.mk_iff] | apply And.intro | dsimp only | split

theorem Good.State_moveTile {b0 : State} (s : State) (a : Nat) (m : Nat × Nat × Nat)
    (hs : Good b0 s) :
    Good b0 (State.moveTile s a m) := by
  unfold State.moveTile
  with_reducible repeat' first
      | assumption | intro _ | apply Good.State_onTile | apply Good.State_onArray | apply MGood.of_good | apply FGood.of_good
      | simp only [Good.mk_iff] | apply And.intro | dsimp only

theorem Good.State_moveSlot {b0 : State} (s : State) (ms : List (Nat × Nat × Nat)) (e : SluiceSlot)
    (hs : Good b0 s) :
    Good b0 (State.moveSlot s ms e) := by
  unfold State.moveSlot
  with_reducible repeat' first
      | assumption | intro _ | apply Good.State_enterSluice | apply Good.State_onArray | apply Good.ite | apply MGood.of_good
      | apply FGood.of_good | (refine Good.of_opt (o := _) ?_ (by assumption)) | (refine Good.of_opt1 (o := _) ?_ (by assumption))
      | simp only [Good.mk_iff] | apply And.intro | dsimp only | split

theorem Good.State_retireArray {b0 : State} (s : State) (a : Nat)
    (hs : Good b0 s) :
    Good b0 (State.retireArray s a) := by
  unfold State.retireArray
  with_reducible repeat' first
      | assumption | intro _ | apply Good.State_withdraw | apply Good.State_onArray | apply Good.State_moveTile | apply Good.State_moveSlot
      | apply FGood.Boot_logArray | apply Good.State_raise | apply Good.State_purge | apply Good.ite | apply Good.foldl
      | apply Good.foldl_fst | apply Good.map_getD | apply Good.getD | apply MGood.of_good | apply FGood.of_good | apply FGood.ite
      | simp only [Good.mk_iff, FGood.mk_iff] | apply And.intro | dsimp only | split

theorem Good.of_execRetire {b0 : State} (array : Fin 192) (s : State)
    (hs : Good b0 s) :
    ∀ z, execRetire array s = .next z → Good b0 z := by
  unfold execRetire
  intro z hz
  injection hz with hz
  subst hz
  with_reducible repeat' first | assumption | intro _ | apply Good.of_onlyIf | apply Good.State_retireArray | apply And.intro

theorem MGood.Mem_putHead {b0 : Mem} (m : Mem) (a : Nat) (h : FactorHead)
    (hm : MGood b0 m) :
    MGood b0 (Mem.putHead m a h) := by
  unfold Mem.putHead
  with_reducible repeat' first
      | assumption | intro _ | apply MGood.write | apply Good.State_write | apply ByteGood.of | apply WcbGood.of | apply And.intro

theorem Good.State_putFactor {b0 : State} (s : State) (c die : Nat) (d : Rec) (l side q n count : Nat) (es : List (List (Flagged W32)))
    (hs : Good b0 s) :
    Good b0 (State.putFactor s c die d l side q n count es) := by
  unfold State.putFactor
  with_reducible repeat' first
      | assumption | intro _ | apply MGood.write | apply Good.State_write | apply MGood.Mem_putHead | apply MGood.Mem_count
      | apply Good.State_countCtx | apply Good.State_onCtx | apply Good.State_flagEvent | apply Good.ite | apply Good.foldl
      | apply Good.foldl_fst | apply MGood.of_good | apply FGood.of_good | apply ByteGood.of | apply WcbGood.of | apply MGood.ite
      | apply MGood.foldl | apply MGood.foldl_fst | simp only [Good.mk_iff, MGood.mk_iff] | apply And.intro | dsimp only | split

theorem Good.State_copyFactor {b0 : State} (s : State) (d : Rec) (side q n count : Nat)
    (hs : Good b0 s) :
    Good b0 (State.copyFactor s d side q n count) := by
  unfold State.copyFactor
  with_reducible repeat' first
      | assumption | intro _ | apply MGood.write | apply Good.State_write | apply MGood.Mem_putHead | apply MGood.Mem_count
      | apply MGood.of_good | apply FGood.of_good | apply ByteGood.of | apply WcbGood.of | simp only [Good.mk_iff, MGood.mk_iff]
      | apply And.intro | dsimp only

theorem Good.State_absorb {b0 : State} (s : State) (c die : Nat) (d : Rec) (l side q n : Nat) (ms : List (Nat × (Nat → Nat → W32)))
    (hs : Good b0 s) :
    Good b0 (State.absorb s c die d l side q n ms) := by
  unfold State.absorb
  with_reducible repeat' first
      | assumption | intro _ | apply MGood.Mem_count | apply Good.State_onCtx | apply Good.State_copyFactor | apply Good.State_putFactor
      | apply Good.ite | apply Good.foldl | apply Good.foldl_fst | apply MGood.of_good | apply FGood.of_good | apply ByteGood.of
      | apply WcbGood.of | apply MGood.ite | apply MGood.foldl | apply MGood.foldl_fst | (refine Good.of_opt (o := _) ?_ (by assumption))
      | (refine Good.of_opt1 (o := _) ?_ (by assumption)) | (refine MGood.of_opt1 (o := _) ?_ (by assumption))
      | simp only [Good.mk_iff, MGood.mk_iff] | apply And.intro | dsimp only | split

theorem Good.State_statAbsorption {b0 : State} (s : State) (c layer expert side q : Nat)
    (hs : Good b0 s) :
    Good b0 (State.statAbsorption s c layer expert side q) := by
  unfold State.statAbsorption
  with_reducible repeat' first
      | assumption | intro _ | apply Good.State_guarded | apply Good.State_noteReads | apply Good.State_absorb | apply Good.ite
      | apply Good.map_getD | apply Good.getD | apply MGood.of_good | apply FGood.of_good | apply ByteGood.of | apply WcbGood.of
      | apply MGood.ite | (refine Good.of_opt (o := _) ?_ (by assumption)) | (refine Good.of_opt1 (o := _) ?_ (by assumption))
      | (refine MGood.of_opt1 (o := _) ?_ (by assumption)) | simp only [Good.mk_iff, MGood.mk_iff] | apply And.intro | dsimp only | split

theorem Good.of_execStatAbsorption {b0 : State} (ctx : Fin 64) (layer expert side block : Nat) (s : State)
    (hs : Good b0 s) :
    ∀ z, execStatAbsorption ctx layer expert side block s = .next z → Good b0 z := by
  unfold execStatAbsorption
  intro z hz
  injection hz with hz
  subst hz
  with_reducible repeat' first | assumption | intro _ | apply Good.State_statAbsorption | apply And.intro

theorem Good.State_absorbGrad {b0 : State} (s : State) (c unit prec : Nat) (d : Rec) (l side q n : Nat) (g : List (List W32)) (cols : Nat)
    (hs : Good b0 s) :
    Good b0 (State.absorbGrad s c unit prec d l side q n g cols) := by
  unfold State.absorbGrad
  with_reducible repeat' first
      | assumption | intro _ | apply Good.State_putFactor | apply Good.ite | apply MGood.of_good | apply FGood.of_good | apply ByteGood.of
      | apply WcbGood.of | apply MGood.ite | simp only [Good.mk_iff, MGood.mk_iff] | apply And.intro | dsimp only | split

theorem MGood.Mem_invalidate {b0 : Mem} (m : Mem) (a : Nat)
    (hm : MGood b0 m) :
    MGood b0 (Mem.invalidate m a) := by
  unfold Mem.invalidate
  with_reducible repeat' first
      | assumption | intro _ | apply MGood.write | apply Good.State_write | apply ByteGood.of | apply WcbGood.of | apply And.intro

theorem Good.State_startRefresh {b0 : State} (s : State) (n c : Nat) (r : Refresh)
    (hs : Good b0 s) :
    Good b0 (State.startRefresh s n c r) := by
  unfold State.startRefresh
  with_reducible repeat' first
      | assumption | intro _ | apply Good.State_guarded | apply Good.State_noteReads | apply Good.State_onCtx | apply Good.State_flagEvent
      | apply MGood.Mem_putHead | apply Good.State_countCtx | apply Good.State_setRte | apply Good.ite | apply MGood.of_good
      | apply FGood.of_good | apply ByteGood.of | apply WcbGood.of | apply MGood.ite | (refine Good.of_opt (o := _) ?_ (by assumption))
      | (refine Good.of_opt1 (o := _) ?_ (by assumption)) | (refine MGood.of_opt1 (o := _) ?_ (by assumption))
      | simp only [Good.mk_iff, MGood.mk_iff] | apply And.intro | dsimp only | split

theorem MGood.Mem_putRoot {b0 : Mem} (m : Mem) (a b : Nat) (j : RteJob) (w3 : Nat) (rows : List (List Int))
    (hm : MGood b0 m) :
    MGood b0 (Mem.putRoot m a b j w3 rows) := by
  unfold Mem.putRoot
  with_reducible repeat' first
      | assumption | intro _ | apply MGood.write | apply Good.State_write | apply MGood.Mem_invalidate | apply ByteGood.of
      | apply WcbGood.of | apply MGood.foldl | apply MGood.foldl_fst | simp only [MGood.mk_iff] | apply And.intro | dsimp only

theorem Good.State_publishRoot {b0 : State} (s : State) (n : Nat) (j : RteJob) (d : Rec) (root : Rec)
    (hs : Good b0 s) :
    Good b0 (State.publishRoot s n j d root) := by
  unfold State.publishRoot
  with_reducible repeat' first
      | assumption | intro _ | apply Good.State_countCtx | apply MGood.Mem_count | apply Good.State_flagEvent | apply MGood.Mem_putRoot
      | apply Good.State_drawn | apply Good.ite | apply MGood.of_good | apply FGood.of_good | apply ByteGood.of | apply WcbGood.of
      | apply MGood.ite | (refine Good.of_opt (o := _) ?_ (by assumption)) | (refine Good.of_opt1 (o := _) ?_ (by assumption))
      | (refine MGood.of_opt1 (o := _) ?_ (by assumption)) | simp only [Good.mk_iff, MGood.mk_iff] | apply And.intro | dsimp only | split

theorem Good.of_execRootPublish {b0 : State} (engine : Fin 8) (s : State)
    (hs : Good b0 s) :
    ∀ z, execRootPublish engine s = .next z → Good b0 z := by
  unfold execRootPublish
  intro z hz
  injection hz with hz
  subst hz
  with_reducible repeat' first
      | assumption | intro _ | apply Good.of_whenReady | apply Good.State_setRte | apply Good.State_guarded | apply Good.State_publishRoot
      | apply MGood.of_good | apply FGood.of_good | apply ByteGood.of | apply WcbGood.of | simp only [Good.mk_iff, MGood.mk_iff]
      | apply And.intro | dsimp only

theorem Good.of_execRootConfig {b0 : State} (h : KcpHdr) (w0 w1 w2 w3 : W64) (s : State)
    (hs : Good b0 s) :
    ∀ z, execRootConfig h w0 w1 w2 w3 s = .next z → Good b0 z := by
  unfold execRootConfig
  intro z hz
  injection hz with hz
  subst hz
  with_reducible repeat' first
      | assumption | intro _ | apply Good.KcpCmd_arrive | apply Good.of_done | apply Good.State_onCtx | apply Good.of_id
      | apply MGood.of_good | apply FGood.of_good | simp only [Good.mk_iff] | apply And.intro

theorem Good.of_execRootQuery {b0 : State} (h : KcpHdr) (layer expert : W16) (side : BitVec 8) (block : W16) (s : State)
    (hs : Good b0 s) :
    ∀ z, execRootQuery h layer expert side block s = .next z → Good b0 z := by
  unfold execRootQuery
  intro z hz
  injection hz with hz
  subst hz
  with_reducible repeat' first
      | assumption | intro _ | apply Good.KcpCmd_arrive | apply Good.of_done | apply Good.of_id | apply MGood.of_good | apply FGood.of_good
      | apply ByteGood.of | apply WcbGood.of | (refine Good.of_opt (o := _) ?_ (by assumption))
      | (refine Good.of_opt1 (o := _) ?_ (by assumption)) | (refine MGood.of_opt1 (o := _) ?_ (by assumption))
      | simp only [Good.mk_iff, MGood.mk_iff] | apply And.intro | split

theorem Good.State_setBlock {b0 : State} (s : State) (c i b : Nat) (x : Block)
    (hs : Good b0 s) :
    Good b0 (State.setBlock s c i b x) := by
  unfold State.setBlock
  with_reducible repeat' first
      | assumption | intro _ | apply Good.State_onCtx | apply MGood.of_good | apply FGood.of_good | simp only [Good.mk_iff]
      | apply And.intro | split

theorem Good.State_skipFactors {b0 : State} (s : State) (x : Site) (k : Nat)
    (hs : Good b0 s) :
    Good b0 (State.skipFactors s x k) := by
  unfold State.skipFactors
  with_reducible repeat' first
      | assumption | intro _ | apply Good.State_copyFactor | apply Good.ite | apply MGood.of_good | apply FGood.of_good
      | (refine Good.of_opt (o := _) ?_ (by assumption)) | (refine Good.of_opt1 (o := _) ?_ (by assumption)) | simp only [Good.mk_iff]
      | apply And.intro | split

theorem Good.State_startBlock {b0 : State} (s : State) (c i : Nat) (x : Site) (k : Nat) (g : List W32) (late : Bool)
    (hs : Good b0 s) :
    Good b0 (State.startBlock s c i x k g late) := by
  unfold State.startBlock
  with_reducible repeat' first
      | assumption | intro _ | apply Good.State_copyLabel | apply Good.State_setBlock | apply Good.State_guarded
      | apply Good.State_noteReads | apply Good.State_skipFactors | apply Good.State_absorbGrad | apply Good.ite | apply MGood.of_good
      | apply FGood.of_good | apply ByteGood.of | apply WcbGood.of | apply MGood.ite | (refine Good.of_opt (o := _) ?_ (by assumption))
      | (refine Good.of_opt1 (o := _) ?_ (by assumption)) | (refine MGood.of_opt1 (o := _) ?_ (by assumption))
      | simp only [Good.mk_iff, MGood.mk_iff] | apply And.intro | dsimp only | split

theorem Good.State_blockUpdateStart {b0 : State} (s : State) (c i b : Nat)
    (hs : Good b0 s) :
    Good b0 (State.blockUpdateStart s c i b) := by
  unfold State.blockUpdateStart
  with_reducible repeat' first
      | assumption | intro _ | apply Good.State_startBlock | apply Good.ite | apply MGood.of_good | apply FGood.of_good
      | (refine Good.of_opt (o := _) ?_ (by assumption)) | (refine Good.of_opt1 (o := _) ?_ (by assumption)) | simp only [Good.mk_iff]
      | apply And.intro | dsimp only | split

theorem Good.of_execBlockUpdateStart {b0 : State} (ctx : Fin 64) (shard block : Nat) (s : State)
    (hs : Good b0 s) :
    ∀ z, execBlockUpdateStart ctx shard block s = .next z → Good b0 z := by
  unfold execBlockUpdateStart
  intro z hz
  injection hz with hz
  subst hz
  with_reducible repeat' first | assumption | intro _ | apply Good.State_blockUpdateStart | apply And.intro

theorem Good.State_lateUpdate {b0 : State} (s : State) (c i : Nat)
    (hs : Good b0 s) :
    Good b0 (State.lateUpdate s c i) := by
  unfold State.lateUpdate
  with_reducible repeat' first
      | assumption | intro _ | apply Good.State_startBlock | apply Good.ite | apply Good.foldl | apply Good.foldl_fst | apply MGood.of_good
      | apply FGood.of_good | (refine Good.of_opt (o := _) ?_ (by assumption)) | (refine Good.of_opt1 (o := _) ?_ (by assumption))
      | simp only [Good.mk_iff] | apply And.intro | split

theorem Good.of_execLateUpdate {b0 : State} (ctx : Fin 64) (shard : Nat) (s : State)
    (hs : Good b0 s) :
    ∀ z, execLateUpdate ctx shard s = .next z → Good b0 z := by
  unfold execLateUpdate
  intro z hz
  injection hz with hz
  subst hz
  with_reducible repeat' first | assumption | intro _ | apply Good.State_lateUpdate | apply And.intro

theorem Good.State_writeSweepStart {b0 : State} (s : State) (c i b : Nat)
    (hs : Good b0 s) :
    Good b0 (State.writeSweepStart s c i b) := by
  unfold State.writeSweepStart
  with_reducible repeat' first
      | assumption | intro _ | apply Good.State_guarded | apply Good.State_noteReads | apply Good.State_countSweeps
      | apply Good.State_setBlock | apply Good.State_setFuu | apply Good.ite | apply MGood.of_good | apply FGood.of_good
      | apply ByteGood.of | apply WcbGood.of | apply MGood.ite | (refine Good.of_opt (o := _) ?_ (by assumption))
      | (refine Good.of_opt1 (o := _) ?_ (by assumption)) | (refine MGood.of_opt1 (o := _) ?_ (by assumption))
      | simp only [Good.mk_iff, MGood.mk_iff] | apply And.intro | dsimp only | split

theorem Good.of_execWriteSweepStart {b0 : State} (ctx : Fin 64) (shard block : Nat) (s : State)
    (hs : Good b0 s) :
    ∀ z, execWriteSweepStart ctx shard block s = .next z → Good b0 z := by
  unfold execWriteSweepStart
  intro z hz
  injection hz with hz
  subst hz
  with_reducible repeat' first | assumption | intro _ | apply Good.State_writeSweepStart | apply And.intro

theorem Good.State_signalLayer {b0 : State} (s : State) (c layer : Nat)
    (hs : Good b0 s) :
    Good b0 (State.signalLayer s c layer) := by
  unfold State.signalLayer
  with_reducible repeat' first
      | assumption | intro _ | apply Good.State_signal | apply Good.State_sendMessage | apply Good.ite | apply Good.foldl
      | apply Good.foldl_fst | apply MGood.of_good | apply FGood.of_good | (refine Good.of_opt (o := _) ?_ (by assumption))
      | (refine Good.of_opt1 (o := _) ?_ (by assumption)) | simp only [Good.mk_iff] | apply And.intro | dsimp only | split

theorem Good.State_tryFence {b0 : State} (fuel : Nat) (s : State) (c layer : Nat)
    (hs : Good b0 s) :
    Good b0 (State.tryFence fuel s c layer) := by
  induction fuel generalizing s c layer with
  | zero => unfold State.tryFence; assumption
  | succ k ih =>
    unfold State.tryFence
    with_reducible repeat' first
        | assumption | intro _ | apply ih | apply MGood.Mem_count | apply Good.State_onCtx | apply Good.State_signalLayer | apply Good.ite
        | apply MGood.of_good | apply FGood.of_good | (refine Good.of_opt (o := _) ?_ (by assumption))
        | (refine Good.of_opt1 (o := _) ?_ (by assumption)) | simp only [Good.mk_iff] | apply And.intro | dsimp only | split

theorem Good.State_closeLayer {b0 : State} (s : State) (c layer k : Nat)
    (hs : Good b0 s) :
    Good b0 (State.closeLayer s c layer k) := by
  unfold State.closeLayer
  with_reducible repeat' first
      | assumption | intro _ | apply Good.State_onCtx | apply Good.State_tryFence | apply Good.ite | apply Good.foldl
      | apply Good.foldl_fst | apply MGood.of_good | apply FGood.of_good | (refine Good.of_opt (o := _) ?_ (by assumption))
      | (refine Good.of_opt1 (o := _) ?_ (by assumption)) | simp only [Good.mk_iff] | apply And.intro | dsimp only | split

theorem Good.State_closeShard {b0 : State} (s : State) (c i : Nat)
    (hs : Good b0 s) :
    Good b0 (State.closeShard s c i) := by
  unfold State.closeShard
  with_reducible repeat' first
      | assumption | intro _ | apply MGood.Mem_count | apply Good.State_onCtx | apply Good.State_closeLayer | apply Good.ite
      | apply MGood.of_good | apply FGood.of_good | (refine Good.of_opt (o := _) ?_ (by assumption))
      | (refine Good.of_opt1 (o := _) ?_ (by assumption)) | simp only [Good.mk_iff] | apply And.intro | dsimp only | split

theorem Good.State_commitBlock {b0 : State} (s : State) (c i : Nat) (x : Site) (r : SweepResult)
    (hs : Good b0 s) :
    Good b0 (State.commitBlock s c i x r) := by
  unfold State.commitBlock
  with_reducible repeat' first
      | assumption | intro _ | apply MGood.Mem_writeSpans | apply MGood.write | apply Good.State_write | apply Good.State_take
      | apply Good.Repair_take | apply Good.State_foldChange | apply Good.State_skipFactors | apply Good.State_flagEvent
      | apply Good.State_countCtx | apply Good.State_setBlock | apply Good.State_onCtx | apply Good.State_sendParity | apply Good.ite
      | apply MGood.of_good | apply FGood.of_good | apply ByteGood.of | apply WcbGood.of | apply MGood.ite
      | simp only [Good.mk_iff, MGood.mk_iff] | apply And.intro | dsimp only | split

theorem Good.State_blockCommit {b0 : State} (s : State) (c i b : Nat)
    (hs : Good b0 s) :
    Good b0 (State.blockCommit s c i b) := by
  unfold State.blockCommit
  with_reducible repeat' first
      | assumption | intro _ | apply Good.State_setFuu | apply Good.State_commitBlock | apply Good.State_closeShard | apply Good.ite
      | apply MGood.of_good | apply FGood.of_good | (refine Good.of_opt (o := _) ?_ (by assumption))
      | (refine Good.of_opt1 (o := _) ?_ (by assumption)) | simp only [Good.mk_iff] | apply And.intro | dsimp only | split

theorem Good.of_execBlockCommit {b0 : State} (ctx : Fin 64) (shard block : Nat) (s : State)
    (hs : Good b0 s) :
    ∀ z, execBlockCommit ctx shard block s = .next z → Good b0 z := by
  unfold execBlockCommit
  intro z hz
  injection hz with hz
  subst hz
  with_reducible repeat' first | assumption | intro _ | apply Good.State_blockCommit | apply And.intro

theorem Good.State_landGradient {b0 : State} (s : State) (c i b k e : Nat) (xs : List W32)
    (hs : Good b0 s) :
    Good b0 (State.landGradient s c i b k e xs) := by
  unfold State.landGradient
  with_reducible repeat' first
      | assumption | intro _ | apply Good.State_countCtx9 | apply Good.State_closeShard | apply Good.State_tryFence
      | apply Good.State_onCtx | apply Good.State_countCtx | apply Good.State_postFetch | apply Good.State_setBlock | apply Good.ite
      | apply Good.foldl | apply Good.foldl_fst | apply Good.map_getD | apply Good.getD | apply MGood.of_good | apply FGood.of_good
      | (refine Good.of_opt (o := _) ?_ (by assumption)) | (refine Good.of_opt1 (o := _) ?_ (by assumption)) | simp only [Good.mk_iff]
      | apply And.intro | dsimp only | split

theorem Good.State_setStruct {b0 : State} (s : State) (h : Nat) (r : RsStruct)
    (hs : Good b0 s) :
    Good b0 (State.setStruct s h r) := by
  unfold State.setStruct
  with_reducible repeat' first
      | assumption | intro _ | apply MGood.of_good | apply FGood.of_good | simp only [Good.mk_iff] | apply And.intro

theorem Good.of_execRsCreate {b0 : State} (h : KcpHdr) (order nblkA : W32) (pattern memBase memBytes : W64) (damp : W32) (mode : BitVec 8) (s : State)
    (hs : Good b0 s) :
    ∀ z, execRsCreate h order nblkA pattern memBase memBytes damp mode s = .next z → Good b0 z := by
  unfold execRsCreate
  intro z hz
  injection hz with hz
  subst hz
  with_reducible repeat' first
      | assumption | intro _ | apply Good.KcpCmd_arrive | apply MGood.zeroFill | apply Good.of_done | apply Good.State_setStruct
      | apply Good.of_id | apply MGood.of_good | apply FGood.of_good | apply ByteGood.of | apply WcbGood.of
      | simp only [Good.mk_iff, MGood.mk_iff] | apply And.intro | dsimp only

theorem Good.of_execRsDestroy {b0 : State} (h : KcpHdr) (handle : W16) (s : State)
    (hs : Good b0 s) :
    ∀ z, execRsDestroy h handle s = .next z → Good b0 z := by
  unfold execRsDestroy
  intro z hz
  injection hz with hz
  subst hz
  with_reducible repeat' first
      | assumption | intro _ | apply Good.KcpCmd_arrive | apply Good.of_done | apply Good.of_id | apply MGood.of_good | apply FGood.of_good
      | simp only [Good.mk_iff] | apply And.intro

theorem MGood.Mem_putItem {b0 : Mem} (m : Mem) (r : RsStruct) (add : Bool) (x : Nat × Nat × W32)
    (hm : MGood b0 m) :
    MGood b0 (Mem.putItem m r add x) := by
  unfold Mem.putItem
  with_reducible repeat' first
      | assumption | intro _ | apply MGood.write | apply Good.State_write | apply ByteGood.of | apply WcbGood.of | apply MGood.ite
      | (refine MGood.of_opt1 (o := _) ?_ (by assumption)) | simp only [MGood.mk_iff] | apply And.intro | dsimp only | split

theorem MGood.Mem_stageDelta {b0 : Mem} (m : Mem) (r : RsStruct) (d : Delta)
    (hm : MGood b0 m) :
    MGood b0 ((Mem.stageDelta m r d)).1 := by
  unfold Mem.stageDelta
  with_reducible repeat' first
      | assumption | intro _ | apply MGood.write | apply Good.State_write | apply MGood.Mem_putItem | apply ByteGood.of | apply WcbGood.of
      | apply MGood.ite | apply MGood.foldl | apply MGood.foldl_fst | simp only [MGood.mk_iff] | apply And.intro | dsimp only | split

theorem MGood.of_feedDeltas {b0 : Mem} (ds : List Delta) (hd : Nat) (m : Mem) (r : RsStruct) (hm : MGood b0 m) :
    OptAll (fun r => MGood b0 r.1) (feedDeltas ds hd m r) := by
  unfold feedDeltas
  suffices ∀ (l : List Delta) (o : Option (Mem × RsStruct)), OptAll (fun r => MGood b0 r.1) o →
      OptAll (fun r => MGood b0 r.1) (l.foldl (fun o d => o.bind fun x => if d.refused hd x.2 then none else some (x.1.stageDelta x.2 d)) o) from
    this ds _ (OptAll.some' hm)
  intro l
  induction l with
  | nil => exact fun o ho => ho
  | cons d l ih =>
    intro o ho
    refine ih _ (OptAll.bind ho fun x hx => ?_)
    split
    · exact OptAll.none'
    · exact OptAll.some' (MGood.Mem_stageDelta _ _ _ hx)

theorem Good.of_execRsFeed {b0 : State} (h : KcpHdr) (handle : W16) (bytes : W32) (src : W64) (s : State)
    (hs : Good b0 s) :
    ∀ z, execRsFeed h handle bytes src s = .next z → Good b0 z := by
  unfold execRsFeed
  intro z hz
  injection hz with hz
  subst hz
  with_reducible repeat' first
      | assumption | intro _ | apply Good.KcpCmd_arrive | apply Good.State_countCtx | apply MGood.of_feedDeltas | apply Good.of_done
      | apply Good.State_setStruct | apply Good.of_id | apply Good.map_getD | apply Good.getD | apply MGood.of_good | apply FGood.of_good
      | apply ByteGood.of | apply WcbGood.of | (refine Good.of_opt (o := _) ?_ (by assumption))
      | (refine Good.of_opt1 (o := _) ?_ (by assumption)) | (refine MGood.of_opt1 (o := _) ?_ (by assumption))
      | simp only [Good.mk_iff, MGood.mk_iff] | apply And.intro | dsimp only | split

theorem Good.of_execRsGenerationResident {b0 : State} (handle : Fin 256) (s : State)
    (hs : Good b0 s) :
    ∀ z, execRsGenerationResident handle s = .next z → Good b0 z := by
  unfold execRsGenerationResident
  intro z hz
  injection hz with hz
  subst hz
  with_reducible repeat' first
      | assumption | intro _ | apply Good.of_whenReady | apply Good.State_setStruct | apply Good.map_getD | apply Good.getD
      | apply MGood.of_good | apply FGood.of_good | simp only [Good.mk_iff] | apply And.intro

theorem Good.State_queueWork {b0 : State} (s : State) (hd : Nat) (r : RsStruct) (w : RsWork)
    (hs : Good b0 s) :
    Good b0 (State.queueWork s hd r w) := by
  unfold State.queueWork
  with_reducible repeat' first
      | assumption | intro _ | apply Good.State_setStruct | apply MGood.of_good | apply FGood.of_good | simp only [Good.mk_iff]
      | apply And.intro

theorem Good.of_execRsFactor {b0 : State} (h : KcpHdr) (handle fence : W16) (status : W64) (s : State)
    (hs : Good b0 s) :
    ∀ z, execRsFactor h handle fence status s = .next z → Good b0 z := by
  unfold execRsFactor
  intro z hz
  injection hz with hz
  subst hz
  with_reducible repeat' first
      | assumption | intro _ | apply Good.KcpCmd_arrive | apply Good.of_accepted | apply Good.State_queueWork | apply Good.of_id
      | apply MGood.of_good | apply FGood.of_good | (refine Good.of_opt (o := _) ?_ (by assumption))
      | (refine Good.of_opt1 (o := _) ?_ (by assumption)) | simp only [Good.mk_iff] | apply And.intro | split

theorem Good.of_execRsSolve {b0 : State} (h : KcpHdr) (handle flags fence : W16) (nrhs : W32) (b x status : W64) (s : State)
    (hs : Good b0 s) :
    ∀ z, execRsSolve h handle flags fence nrhs b x status s = .next z → Good b0 z := by
  unfold execRsSolve
  intro z hz
  injection hz with hz
  subst hz
  with_reducible repeat' first
      | assumption | intro _ | apply Good.KcpCmd_arrive | apply Good.of_accepted | apply Good.State_queueWork | apply Good.of_id
      | apply Good.map_getD | apply Good.getD | apply MGood.of_good | apply FGood.of_good
      | (refine Good.of_opt (o := _) ?_ (by assumption)) | (refine Good.of_opt1 (o := _) ?_ (by assumption)) | simp only [Good.mk_iff]
      | apply And.intro | dsimp only | split

theorem Good.of_execRsQuery {b0 : State} (h : KcpHdr) (handle : W16) (s : State)
    (hs : Good b0 s) :
    ∀ z, execRsQuery h handle s = .next z → Good b0 z := by
  unfold execRsQuery
  intro z hz
  injection hz with hz
  subst hz
  with_reducible repeat' first
      | assumption | intro _ | apply Good.KcpCmd_arrive | apply Good.of_done | apply Good.of_id | apply MGood.of_good | apply FGood.of_good
      | (refine Good.of_opt (o := _) ?_ (by assumption)) | (refine Good.of_opt1 (o := _) ?_ (by assumption)) | simp only [Good.mk_iff]
      | apply And.intro | split

theorem Good.State_endWork {b0 : State} (s : State) (hd : Nat) (r : RsStruct) (w : RsWork) (rest : List RsWork)
    (hs : Good b0 s) :
    Good b0 (State.endWork s hd r w rest) := by
  unfold State.endWork
  with_reducible repeat' first
      | assumption | intro _ | apply Good.State_guarded | apply Good.State_noteReads | apply Good.State_drawn | apply MGood.Mem_count
      | apply MGood.write | apply Good.State_write | apply Good.State_writeRec | apply Good.State_setStruct | apply Good.State_countCtx
      | apply Good.State_flagEvent | apply Good.State_signal | apply Good.ite | apply Good.foldl | apply Good.foldl_fst
      | apply MGood.of_good | apply FGood.of_good | apply ByteGood.of | apply WcbGood.of | apply MGood.ite | apply MGood.foldl
      | apply MGood.foldl_fst | (refine Good.of_opt (o := _) ?_ (by assumption)) | (refine Good.of_opt1 (o := _) ?_ (by assumption))
      | (refine MGood.of_opt1 (o := _) ?_ (by assumption)) | simp only [Good.mk_iff, MGood.mk_iff] | apply And.intro | dsimp only | split

theorem Good.State_workComplete {b0 : State} (s : State) (hd : Nat)
    (hs : Good b0 s) :
    Good b0 (State.workComplete s hd) := by
  unfold State.workComplete
  with_reducible repeat' first
      | assumption | intro _ | apply Good.State_endWork | apply Good.ite | apply MGood.of_good | apply FGood.of_good
      | (refine Good.of_opt (o := _) ?_ (by assumption)) | (refine Good.of_opt1 (o := _) ?_ (by assumption)) | simp only [Good.mk_iff]
      | apply And.intro | split

theorem Good.of_execRsWorkComplete {b0 : State} (handle : Fin 256) (s : State)
    (hs : Good b0 s) :
    ∀ z, execRsWorkComplete handle s = .next z → Good b0 z := by
  unfold execRsWorkComplete
  intro z hz
  injection hz with hz
  subst hz
  with_reducible repeat' first | assumption | intro _ | apply Good.State_workComplete | apply And.intro | dsimp only

theorem Good.State_rteJobStart {b0 : State} (s : State) (n : Nat)
    (hs : Good b0 s) :
    Good b0 (State.rteJobStart s n) := by
  unfold State.rteJobStart
  with_reducible repeat' first
      | assumption | intro _ | apply Good.State_setRte | apply Good.State_startRefresh | apply Good.State_setStruct | apply Good.ite
      | apply MGood.of_good | apply FGood.of_good | (refine Good.of_opt (o := _) ?_ (by assumption))
      | (refine Good.of_opt1 (o := _) ?_ (by assumption)) | simp only [Good.mk_iff] | apply And.intro | dsimp only | split

theorem Good.of_execRteJobStart {b0 : State} (engine : Fin 8) (s : State)
    (hs : Good b0 s) :
    ∀ z, execRteJobStart engine s = .next z → Good b0 z := by
  unfold execRteJobStart
  intro z hz
  injection hz with hz
  subst hz
  with_reducible repeat' first | assumption | intro _ | apply Good.State_rteJobStart | apply And.intro

theorem Good.State_productDrain {b0 : State} (s : State) (n : Nat) (bad : Bool)
    (hs : Good b0 s) :
    Good b0 (State.productDrain s n bad) := by
  unfold State.productDrain
  with_reducible repeat' first
      | assumption | intro _ | apply Good.State_setRte | apply MGood.Mem_count | apply Good.State_setStruct | apply Good.of_done
      | apply Good.ite | apply MGood.of_good | apply FGood.of_good | (refine Good.of_opt (o := _) ?_ (by assumption))
      | (refine Good.of_opt1 (o := _) ?_ (by assumption)) | simp only [Good.mk_iff] | apply And.intro | dsimp only | split

theorem Good.of_execRteProductDrain {b0 : State} (engine : Fin 8) (residueError : Bool) (s : State)
    (hs : Good b0 s) :
    ∀ z, execRteProductDrain engine residueError s = .next z → Good b0 z := by
  unfold execRteProductDrain
  intro z hz
  injection hz with hz
  subst hz
  with_reducible repeat' first | assumption | intro _ | apply Good.State_productDrain | apply And.intro

theorem Good.State_rteFault {b0 : State} (s : State) (n : Nat) (passed : Bool)
    (hs : Good b0 s) :
    Good b0 (State.rteFault s n passed) := by
  unfold State.rteFault
  with_reducible repeat' first
      | assumption | intro _ | apply Good.State_setRte | apply Good.State_raise | apply Good.ite | apply MGood.of_good
      | apply FGood.of_good | apply FGood.ite | simp only [Good.mk_iff, FGood.mk_iff] | apply And.intro | dsimp only | split

theorem Good.of_execRteFault {b0 : State} (engine : Fin 8) (testPassed : Bool) (s : State)
    (hs : Good b0 s) :
    ∀ z, execRteFault engine testPassed s = .next z → Good b0 z := by
  unfold execRteFault
  intro z hz
  injection hz with hz
  subst hz
  with_reducible repeat' first | assumption | intro _ | apply Good.of_onlyIf | apply Good.State_rteFault | apply And.intro

end Sys2Proof.Machine
end

