-- ==== Sys2Proof/Laws/KeepsFabric.lean ====
section
/-!
SUPPORT. What every operation keeps, after Laws/Keeps.lean: the operations of Machine/ in Fabric, Link, Vxu, Collective.
-/
namespace Sys2Proof.Machine

open Sys2Proof

theorem Good.State_hdrErr {b0 : State} (s : State) (p : Nat)
    (hs : Good b0 s) :
    Good b0 (State.hdrErr s p) := by
  unfold State.hdrErr
  with_reducible repeat' first
      | assumption | intro _ | apply Good.State_onPort | apply Good.State_stuck | apply MGood.of_good | apply FGood.of_good
      | simp only [Good.mk_iff] | apply And.intro | dsimp only

theorem Good.State_misroute {b0 : State} (s : State) (p : Nat)
    (hs : Good b0 s) :
    Good b0 (State.misroute s p) := by
  unfold State.misroute
  with_reducible repeat' first
      | assumption | intro _ | apply Good.State_onPort | apply Good.State_stuck | apply MGood.of_good | apply FGood.of_good
      | simp only [Good.mk_iff] | apply And.intro | dsimp only

theorem Good.State_sendLink {b0 : State} (s : State) (p : Nat) (op : Byte) (arg : W64) (payload : List Byte)
    (hs : Good b0 s) :
    Good b0 (State.sendLink s p op arg payload) := by
  unfold State.sendLink
  with_reducible repeat' first
      | assumption | intro _ | apply Good.State_onPort | apply Good.State_emit | apply MGood.of_good | apply FGood.of_good
      | simp only [Good.mk_iff] | apply And.intro

theorem Good.State_hopAcked {b0 : State} (s : State) (p : Nat) (ack : W16)
    (hs : Good b0 s) :
    Good b0 (State.hopAcked s p ack) := by
  unfold State.hopAcked
  with_reducible repeat' first
      | assumption | intro _ | apply Good.State_setPort | apply Good.State_pumpOut | apply Good.ite | apply MGood.of_good
      | apply FGood.of_good | simp only [Good.mk_iff] | apply And.intro | dsimp only | split

theorem Good.State_hopReceive {b0 : State} (s : State) (f : FrameHdr) (n : Nat) (take : State → State)
    (hs : Good b0 s) (htake : ∀ (y0 : State), Good b0 y0 → Good b0 (take y0)) :
    Good b0 (State.hopReceive s f n take) := by
  unfold State.hopReceive
  with_reducible repeat' first
      | assumption | intro _ | apply htake | apply Good.State_countPort | apply Good.State_misroute | apply Good.State_hdrErr
      | apply Good.State_hopAcked | apply Good.State_take | apply Good.Repair_take | apply Good.State_setPort | apply Good.State_onPort
      | apply Good.State_sendLink | apply Good.ite | apply MGood.of_good | apply FGood.of_good | simp only [Good.mk_iff] | apply And.intro
      | dsimp only | split

theorem Good.State_linkReceive {b0 : State} (s : State) (f : FrameHdr) (states : List PortState) (take : State → State)
    (hs : Good b0 s) (htake : ∀ (y0 : State), Good b0 y0 → Good b0 (take y0)) :
    Good b0 (State.linkReceive s f states take) := by
  unfold State.linkReceive
  with_reducible repeat' first
      | assumption | intro _ | apply htake | apply Good.State_countPort | apply Good.State_misroute | apply Good.State_hdrErr
      | apply Good.State_take | apply Good.Repair_take | apply Good.State_hopAcked | apply Good.ite | apply MGood.of_good
      | apply FGood.of_good | simp only [Good.mk_iff] | apply And.intro | dsimp only | split

theorem Good.State_e2eAcked {b0 : State} (s : State) (cls src : Nat) (ack : BitVec 24)
    (hs : Good b0 s) :
    Good b0 (State.e2eAcked s cls src ack) := by
  unfold State.e2eAcked
  with_reducible repeat' first
      | assumption | intro _ | apply Good.of_done | apply Good.State_setTx | apply Good.State_onTask | apply Good.State_inject
      | apply Good.foldl | apply Good.foldl_fst | apply MGood.of_good | apply FGood.of_good | simp only [Good.mk_iff] | apply And.intro
      | dsimp only

theorem Good.State_ackStream {b0 : State} (s : State) (cls src : Nat)
    (hs : Good b0 s) :
    Good b0 (State.ackStream s cls src) := by
  unfold State.ackStream
  with_reducible repeat' first | assumption | intro _ | apply Good.State_sendControl | apply And.intro

theorem Good.State_transit {b0 : State} (s : State) (f : FrameHdr) (op : Byte) (payload : List Byte)
    (hs : Good b0 s) :
    Good b0 (State.transit s f op payload) := by
  unfold State.transit
  with_reducible repeat' first
      | assumption | intro _ | apply Good.State_freeUnitsAt | apply Good.State_misroute | apply Good.State_raise | apply Good.State_route
      | apply Good.ite | apply MGood.of_good | apply FGood.of_good | simp only [Good.mk_iff] | apply And.intro | dsimp only | split

theorem Good.State_takeFactorBlock {b0 : State} (s : State) (c src : Nat) (d : Delta) (hs
    : Good b0 s) : OptAll (Good b0) (s.takeFactorBlock c src d) := by
  unfold State.takeFactorBlock
  dsimp only
  generalize (((s.ctx c).program.map fun p => (p.stats.zipIdx.flatMap fun x => [0, 1].flatMap fun side =>
    (List.range (sFactors x.1 side)).filterMap fun q =>
      if !sGrad x.1 && tagOf s.mem x.1 side q = d.tag then some (x.1, x.2, side, q) else none)).getD []) = hits
  split
  · exact OptAll.none'
  · refine OptAll.ite (fun _ => OptAll.none') fun _ => OptAll.some' ?_
    exact Good.State_onCtx _ _ _ hs

theorem Good.State_deltaMessage {b0 : State} (s : State) (c src : Nat) (bs : List Byte) (hs : Good b0 s)
    : Good b0 (s.deltaMessage c src bs) := by
  have key : OptAll (Good b0) (match parseDelta bs with
    | none => none
    | some d =>
      if bs.length ≠ 64 + d.bytes then none
      else if d.kind = 3 then s.takeFactorBlock c src d
      else match s.struct? c (BitVec.ofNat 16 d.hnd) with
        | none => none
        | some r => (feedDeltas [d] d.hnd s.mem r).map fun (x : Mem × RsStruct) => ({ s with mem := x.1 }).setStruct d.hnd x.2) := by
    split
    · exact OptAll.none'
    · refine OptAll.ite (fun _ => OptAll.none') fun _ => OptAll.ite (fun _ => Good.State_takeFactorBlock _ _ _ _ hs) fun _ => ?_
      split
      · exact OptAll.none'
      · exact OptAll.map (MGood.of_feedDeltas _ _ _ _ hs.mem) fun x hx => Good.State_setStruct _ _ _ ⟨hx, hs.boot⟩
  exact Good.getD (Good.State_countCtx _ _ _ _ hs) fun x hx => key.of x hx

theorem Good.State_parityMessage {b0 : State} (s : State) (c src : Nat) (bs : List Byte)
    (hs : Good b0 s) :
    Good b0 (State.parityMessage s c src bs) := by
  unfold State.parityMessage
  with_reducible repeat' first
      | assumption | intro _ | apply Good.State_take | apply Good.Repair_take | apply Good.State_raise | apply Good.State_purge
      | apply MGood.write | apply Good.State_write | apply Good.State_countCtx9 | apply Good.State_sendMessage | apply Good.ite
      | apply MGood.of_good | apply FGood.of_good | apply ByteGood.of | apply WcbGood.of | apply MGood.ite
      | (refine Good.of_opt (o := _) ?_ (by assumption)) | (refine Good.of_opt1 (o := _) ?_ (by assumption))
      | (refine MGood.of_opt1 (o := _) ?_ (by assumption)) | simp only [Good.mk_iff, MGood.mk_iff] | apply And.intro | dsimp only | split

theorem Good.State_parityAcked {b0 : State} (s : State) (c h : Nat) (msg : W32)
    (hs : Good b0 s) :
    Good b0 (State.parityAcked s c h msg) := by
  unfold State.parityAcked
  with_reducible repeat' first
      | assumption | intro _ | apply Good.State_onCtx | apply Good.State_pumpParity | apply Good.State_ackBlocks | apply MGood.of_good
      | apply FGood.of_good | (refine Good.of_opt (o := _) ?_ (by assumption)) | (refine Good.of_opt1 (o := _) ?_ (by assumption))
      | simp only [Good.mk_iff] | apply And.intro | dsimp only | split

theorem Good.State_noteParityAck {b0 : State} (s : State) (c a n : Nat)
    (hs : Good b0 s) :
    Good b0 (State.noteParityAck s c a n) := by
  unfold State.noteParityAck
  with_reducible repeat' first
      | assumption | intro _ | apply Good.State_parityAcked | apply Good.ite | apply Good.foldl | apply Good.foldl_fst
      | apply MGood.of_good | apply FGood.of_good | apply ByteGood.of | apply WcbGood.of | apply MGood.ite | apply MGood.foldl
      | apply MGood.foldl_fst | (refine Good.of_opt (o := _) ?_ (by assumption)) | (refine Good.of_opt1 (o := _) ?_ (by assumption))
      | (refine MGood.of_opt1 (o := _) ?_ (by assumption)) | simp only [Good.mk_iff, MGood.mk_iff] | apply And.intro | dsimp only | split

theorem Good.State_setRx {b0 : State} (s : State) (cls src : Nat) (x : RxStream)
    (hs : Good b0 s) :
    Good b0 (State.setRx s cls src x) := by
  unfold State.setRx
  with_reducible repeat' first
      | assumption | intro _ | apply MGood.of_good | apply FGood.of_good | simp only [Good.mk_iff] | apply And.intro

theorem Good.State_endMessage {b0 : State} (s : State) (cls src : Nat)
    (hs : Good b0 s) :
    Good b0 (State.endMessage s cls src) := by
  unfold State.endMessage
  with_reducible repeat' first
      | assumption | intro _ | apply Good.State_onCtx | apply Good.State_signal | apply Good.State_setRx | apply Good.ite
      | apply Good.foldl | apply Good.foldl_fst | apply MGood.of_good | apply FGood.of_good | simp only [Good.mk_iff] | apply And.intro
      | dsimp only | split

theorem Good.State_takeItem {b0 : State} (s : State) (cls src : Nat) (i : RxItem)
    (hs : Good b0 s) :
    Good b0 (State.takeItem s cls src i) := by
  unfold State.takeItem
  with_reducible repeat' first
      | assumption | intro _ | apply Good.State_endMessage | apply Good.State_setRx | apply Good.State_deltaMessage
      | apply Good.State_parityMessage | apply Good.ite | apply MGood.of_good | apply FGood.of_good
      | (refine Good.of_opt (o := _) ?_ (by assumption)) | (refine Good.of_opt1 (o := _) ?_ (by assumption)) | simp only [Good.mk_iff]
      | apply And.intro | dsimp only | split

theorem Good.State_advanceRx {b0 : State} (fuel : Nat) (s : State) (cls src : Nat)
    (hs : Good b0 s) :
    Good b0 (State.advanceRx fuel s cls src) := by
  induction fuel generalizing s cls src with
  | zero => unfold State.advanceRx; assumption
  | succ k ih =>
    unfold State.advanceRx
    with_reducible repeat' first
        | assumption | intro _ | apply ih | apply Good.State_setRx | apply Good.State_takeItem | apply Good.ite | apply MGood.of_good
        | apply FGood.of_good | (refine Good.of_opt (o := _) ?_ (by assumption)) | (refine Good.of_opt1 (o := _) ?_ (by assumption))
        | simp only [Good.mk_iff] | apply And.intro | dsimp only | split

theorem Good.State_streamReceive {b0 : State} (s : State) (f : FrameHdr) (cls : Nat) (also : Ctx → Bool) (handle : State → State × RxItem)
    (hs : Good b0 s) (hhandle : ∀ (y0 : State), Good b0 y0 → Good b0 (handle y0).1) :
    Good b0 (State.streamReceive s f cls also handle) := by
  unfold State.streamReceive
  with_reducible repeat' first
      | assumption | intro _ | apply hhandle | apply Good.State_countCtx | apply Good.State_ackStream | apply Good.State_hdrErr
      | apply Good.State_setRx | apply Good.State_advanceRx | apply Good.ite | apply MGood.of_good | apply FGood.of_good
      | simp only [Good.mk_iff] | apply And.intro | dsimp only | split

theorem Good.State_frameIn {b0 : State} (s : State) (f : FrameHdr) (op : Byte) (cls : Nat) (payload : List Byte) (here : State → State) (bad : Bool)
    (hs : Good b0 s) (hhere : ∀ (y0 : State), Good b0 y0 → Good b0 (here y0)) :
    Good b0 (State.frameIn s f op cls payload here bad) := by
  unfold State.frameIn
  with_reducible repeat' first
      | assumption | intro _ | apply hhere | apply Good.State_hopReceive | apply Good.State_freeUnitsAt | apply Good.State_hdrErr
      | apply Good.State_transit | apply Good.State_e2eAcked | apply Good.ite | apply MGood.of_good | apply FGood.of_good
      | simp only [Good.mk_iff] | apply And.intro | dsimp only | split

theorem Good.State_streamIn {b0 : State} (s : State) (f : FrameHdr) (op : Byte) (cls : Nat) (payload : List Byte) (handle : State → State × RxItem) (also : Ctx → Bool) (bad : Bool)
    (hs : Good b0 s) (hhandle : ∀ (y0 : State), Good b0 y0 → Good b0 (handle y0).1) :
    Good b0 (State.streamIn s f op cls payload handle also bad) := by
  unfold State.streamIn
  with_reducible repeat' first
      | assumption | intro _ | apply hhandle | apply Good.State_frameIn | apply Good.State_streamReceive | apply And.intro

theorem Good.State_badFabricAddr {b0 : State} (s : State) (f : FrameHdr) (a : Nat)
    (hs : Good b0 s) :
    Good b0 (State.badFabricAddr s f a) := by
  unfold State.badFabricAddr
  with_reducible repeat' first | assumption | intro _ | apply Good.State_raise | apply Good.State_purge | apply And.intro

theorem Good.State_noteRow {b0 : State} (s : State) (c a n : Nat)
    (hs : Good b0 s) :
    Good b0 (State.noteRow s c a n) := by
  unfold State.noteRow
  with_reducible repeat' first
      | assumption | intro _ | apply Good.ite | apply MGood.of_good | apply FGood.of_good | apply ByteGood.of | apply WcbGood.of
      | apply MGood.ite | (refine Good.of_opt (o := _) ?_ (by assumption)) | (refine Good.of_opt1 (o := _) ?_ (by assumption))
      | (refine MGood.of_opt1 (o := _) ?_ (by assumption)) | simp only [Good.mk_iff, MGood.mk_iff] | apply And.intro | dsimp only | split

theorem Good.State_noteDigest {b0 : State} (s : State) (c a : Nat) (bs : List Byte)
    (hs : Good b0 s) :
    Good b0 (State.noteDigest s c a bs) := by
  unfold State.noteDigest
  with_reducible repeat' first
      | assumption | intro _ | apply Good.State_onFolds | apply Good.ite | apply Good.foldl | apply Good.foldl_fst | apply MGood.of_good
      | apply FGood.of_good | (refine Good.of_opt (o := _) ?_ (by assumption)) | (refine Good.of_opt1 (o := _) ?_ (by assumption))
      | simp only [Good.mk_iff] | apply And.intro | dsimp only | split

theorem Good.State_landWrite {b0 : State} (s : State) (f : FrameHdr) (payload : List Byte)
    (hs : Good b0 s) :
    Good b0 ((State.landWrite s f payload)).1 := by
  unfold State.landWrite
  with_reducible repeat' first
      | assumption | intro _ | apply Good.State_badFabricAddr | apply MGood.write | apply Good.State_write | apply Good.State_noteRow
      | apply Good.State_noteParityAck | apply Good.State_noteDigest | apply Good.ite | apply MGood.of_good | apply FGood.of_good
      | simp only [Good.mk_iff] | apply And.intro | dsimp only | split

theorem Good.of_execWrite {b0 : State} (f : FrameHdr) (payload : List Byte) (s : State)
    (hs : Good b0 s) :
    ∀ z, execWrite f payload s = .next z → Good b0 z := by
  unfold execWrite
  intro z hz
  injection hz with hz
  subst hz
  with_reducible repeat' first | assumption | intro _ | apply Good.State_streamIn | apply Good.State_landWrite | apply And.intro

theorem Good.of_execReadResp {b0 : State} (f : FrameHdr) (payload : List Byte) (s : State)
    (hs : Good b0 s) :
    ∀ z, execReadResp f payload s = .next z → Good b0 z := by
  unfold execReadResp
  intro z hz
  injection hz with hz
  subst hz
  with_reducible repeat' first | assumption | intro _ | apply Good.State_streamIn | apply Good.State_landWrite | apply And.intro

theorem Good.of_execSignal {b0 : State} (f : FrameHdr) (s : State)
    (hs : Good b0 s) :
    ∀ z, execSignal f s = .next z → Good b0 z := by
  unfold execSignal
  intro z hz
  injection hz with hz
  subst hz
  with_reducible repeat' first | assumption | intro _ | apply Good.State_streamIn | apply Good.State_landWrite | apply And.intro

theorem Good.State_answerRead {b0 : State} (s : State) (f : FrameHdr) (requester : W64) (n : Nat)
    (hs : Good b0 s) :
    Good b0 (State.answerRead s f requester n) := by
  unfold State.answerRead
  with_reducible repeat' first
      | assumption | intro _ | apply Good.State_guarded | apply Good.State_noteReads | apply Good.State_sendMessage | apply Good.ite
      | apply MGood.of_good | apply FGood.of_good | apply ByteGood.of | apply WcbGood.of | apply MGood.ite
      | simp only [Good.mk_iff, MGood.mk_iff] | apply And.intro | dsimp only | split

theorem Good.of_execReadReq {b0 : State} (f : FrameHdr) (requester : W64) (length : ReqLength) (s : State)
    (hs : Good b0 s) :
    ∀ z, execReadReq f requester length s = .next z → Good b0 z := by
  unfold execReadReq
  intro z hz
  injection hz with hz
  subst hz
  with_reducible repeat' first
      | assumption | intro _ | apply Good.State_streamIn | apply Good.State_badFabricAddr | apply Good.State_answerRead | apply Good.ite
      | apply Good.map_getD | apply Good.getD | apply And.intro | split

theorem Good.of_execDispatch {b0 : State} (f : FrameHdr) (payload : List Byte) (s : State)
    (hs : Good b0 s) :
    ∀ z, execDispatch f payload s = .next z → Good b0 z := by
  unfold execDispatch
  intro z hz
  injection hz with hz
  subst hz
  with_reducible repeat' first
      | assumption | intro _ | apply Good.State_streamIn | apply MGood.of_good | apply FGood.of_good | simp only [Good.mk_iff]
      | apply And.intro | dsimp only | split

theorem Good.of_execDelta {b0 : State} (f : FrameHdr) (payload : List Byte) (s : State)
    (hs : Good b0 s) :
    ∀ z, execDelta f payload s = .next z → Good b0 z := by
  unfold execDelta
  intro z hz
  injection hz with hz
  subst hz
  with_reducible repeat' first | assumption | intro _ | apply Good.State_streamIn | apply And.intro

theorem Good.State_landParity {b0 : State} (s : State) (f : FrameHdr) (payload : List Byte)
    (hs : Good b0 s) :
    Good b0 ((State.landParity s f payload)).1 := by
  unfold State.landParity
  with_reducible repeat' first
      | assumption | intro _ | apply Good.State_badFabricAddr | apply MGood.write | apply Good.State_write | apply Good.ite
      | apply MGood.of_good | apply FGood.of_good | (refine Good.of_opt (o := _) ?_ (by assumption))
      | (refine Good.of_opt1 (o := _) ?_ (by assumption)) | simp only [Good.mk_iff] | apply And.intro | dsimp only | split

theorem Good.of_execParity {b0 : State} (f : FrameHdr) (payload : List Byte) (s : State)
    (hs : Good b0 s) :
    ∀ z, execParity f payload s = .next z → Good b0 z := by
  unfold execParity
  intro z hz
  injection hz with hz
  subst hz
  with_reducible repeat' first | assumption | intro _ | apply Good.State_streamIn | apply Good.State_landParity | apply And.intro

theorem Good.of_execE2eAck {b0 : State} (f : FrameHdr) (s : State)
    (hs : Good b0 s) :
    ∀ z, execE2eAck f s = .next z → Good b0 z := by
  unfold execE2eAck
  intro z hz
  injection hz with hz
  subst hz
  with_reducible repeat' first | assumption | intro _ | apply Good.State_frameIn | apply And.intro

theorem Good.State_resend {b0 : State} (s : State) (cls dst first last : Nat)
    (hs : Good b0 s) :
    Good b0 (State.resend s cls dst first last) := by
  unfold State.resend
  with_reducible repeat' first
      | assumption | intro _ | apply Good.State_route | apply Good.State_inject | apply Good.foldl | apply Good.foldl_fst
      | apply MGood.of_good | apply FGood.of_good | simp only [Good.mk_iff] | apply And.intro | dsimp only

theorem Good.of_execE2eNack {b0 : State} (f : FrameHdr) (s : State)
    (hs : Good b0 s) :
    ∀ z, execE2eNack f s = .next z → Good b0 z := by
  unfold execE2eNack
  intro z hz
  injection hz with hz
  subst hz
  with_reducible repeat' first | assumption | intro _ | apply Good.State_frameIn | apply Good.State_resend | apply And.intro

theorem Good.State_sendDiscover {b0 : State} (s : State) (p : Nat)
    (hs : Good b0 s) :
    Good b0 (State.sendDiscover s p) := by
  unfold State.sendDiscover
  with_reducible repeat' first
      | assumption | intro _ | apply MGood.Mem_place | apply Good.State_onPort | apply Good.State_sendLink | apply Good.State_drawn | apply Good.ite
      | apply Good.elim | apply MGood.of_good | apply FGood.of_good | apply FGood.ite | (refine Good.of_opt (o := _) ?_ (by assumption))
      | (refine Good.of_opt1 (o := _) ?_ (by assumption)) | simp only [Good.mk_iff, FGood.mk_iff] | apply And.intro | dsimp only | split

theorem Good.State_sendCredit {b0 : State} (s : State) (p : Nat)
    (hs : Good b0 s) :
    Good b0 (State.sendCredit s p) := by
  unfold State.sendCredit
  with_reducible repeat' first | assumption | intro _ | apply Good.State_sendLink | apply And.intro

theorem Good.State_holdPort {b0 : State} (s : State) (p : Nat) (r : FarEnd) (expected : Nat)
    (hs : Good b0 s) :
    Good b0 (State.holdPort s p r expected) := by
  unfold State.holdPort
  with_reducible repeat' first
      | assumption | intro _ | apply Good.State_onPort | apply Good.State_raise | apply MGood.of_good | apply FGood.of_good
      | simp only [Good.mk_iff] | apply And.intro

theorem Good.State_checkTag {b0 : State} (s : State) (pos tag : Nat)
    (hs : Good b0 s) :
    OptAll (Good b0) (State.checkTag s pos tag) := by
  unfold State.checkTag
  with_reducible repeat' first
      | assumption | intro _ | apply Good.ite | apply MGood.of_good | apply FGood.of_good | apply OptAll.none' | apply OptAll.some'
      | apply OptAll.ite | simp only [Good.mk_iff] | apply And.intro | dsimp only | split

theorem Good.State_bringUp {b0 : State} (s : State) (l : Rec) (p : Nat)
    (hs : Good b0 s) :
    Good b0 (State.bringUp s l p) := by
  unfold State.bringUp
  with_reducible repeat' first
      | assumption | intro _ | apply Good.State_onPort | apply Good.State_sendDiscover | apply Good.State_sendCredit
      | apply Good.State_pumpOut | apply Good.State_injectAll | apply MGood.of_good | apply FGood.of_good | simp only [Good.mk_iff]
      | apply And.intro | dsimp only

theorem Good.State_checkRecord {b0 : State} (s : State) (p : Nat) (r : FarEnd)
    (hs : Good b0 s) :
    Good b0 (State.checkRecord s p r) := by
  unfold State.checkRecord
  with_reducible repeat' first
      | assumption | intro _ | apply Good.State_onPort | apply Good.State_holdPort | apply Good.State_checkTag | apply Good.State_bringUp
      | apply Good.ite | apply Good.foldl | apply Good.foldl_fst | apply Good.map_getD | apply Good.getD | apply MGood.of_good
      | apply FGood.of_good | apply FGood.ite | (refine Good.of_opt (o := _) ?_ (by assumption))
      | (refine Good.of_opt1 (o := _) ?_ (by assumption)) | simp only [Good.mk_iff, FGood.mk_iff] | apply And.intro | dsimp only | split

theorem Good.State_announceLayout {b0 : State} (s : State)
    (hs : Good b0 s) :
    Good b0 (State.announceLayout s) := by
  unfold State.announceLayout
  with_reducible repeat' first
      | assumption | intro _ | apply Good.State_onPort | apply Good.State_checkRecord | apply Good.State_sendDiscover | apply Good.ite
      | apply Good.foldl | apply Good.foldl_fst | apply MGood.of_good | apply FGood.of_good
      | (refine Good.of_opt (o := _) ?_ (by assumption)) | (refine Good.of_opt1 (o := _) ?_ (by assumption)) | simp only [Good.mk_iff]
      | apply And.intro | dsimp only | split

theorem Good.State_setLine {b0 : State} (s : State) (axis : Nat) (on : Bool)
    (hs : Good b0 s) :
    Good b0 (State.setLine s axis on) := by
  unfold State.setLine
  with_reducible repeat' first
      | assumption | intro _ | apply Good.ite | apply MGood.of_good | apply FGood.of_good | simp only [Good.mk_iff] | apply And.intro
      | dsimp only | split

theorem Good.State_markFailed {b0 : State} (s : State) (l : Rec) (axis : Nat)
    (hs : Good b0 s) :
    Good b0 (State.markFailed s l axis) := by
  unfold State.markFailed
  with_reducible repeat' first
      | assumption | intro _ | apply Good.State_groupLost | apply Good.State_raise | apply Good.ite | apply Good.foldl
      | apply Good.foldl_fst | apply MGood.of_good | apply FGood.of_good | simp only [Good.mk_iff] | apply And.intro | dsimp only | split

theorem Good.State_sendRoute {b0 : State} (s : State) (l : Rec) (axis : Nat) (plus : Bool) (arg : W64)
    (hs : Good b0 s) :
    Good b0 (State.sendRoute s l axis plus arg) := by
  unfold State.sendRoute
  with_reducible repeat' first | assumption | intro _ | apply Good.State_sendControl | apply Good.ite | apply And.intro | split

theorem Good.State_setDetour {b0 : State} (s : State) (l : Rec) (axis lower : Nat) (down : Bool)
    (hs : Good b0 s) :
    Good b0 (State.setDetour s l axis lower down) := by
  unfold State.setDetour
  with_reducible repeat' first
      | assumption | intro _ | apply Good.State_setLine | apply Good.State_markFailed | apply Good.State_injectAll | apply Good.ite
      | apply MGood.of_good | apply FGood.of_good | simp only [Good.mk_iff] | apply And.intro | dsimp only | split

theorem Good.State_dropHeld {b0 : State} (s : State) (fs : List TxFrame)
    (hs : Good b0 s) :
    Good b0 (State.dropHeld s fs) := by
  unfold State.dropHeld
  with_reducible repeat' first
      | assumption | intro _ | apply Good.State_leaveBuffer | apply Good.State_route | apply Good.State_resend
      | apply Good.State_sendControl | apply Good.ite | apply Good.foldl | apply Good.foldl_fst | apply MGood.of_good | apply FGood.of_good
      | simp only [Good.mk_iff] | apply And.intro | dsimp only | split

theorem Good.State_forgetBuffer {b0 : State} (s : State) (p : Nat)
    (hs : Good b0 s) :
    Good b0 (State.forgetBuffer s p) := by
  unfold State.forgetBuffer
  with_reducible repeat' first
      | assumption | intro _ | apply Good.ite | apply MGood.of_good | apply FGood.of_good | simp only [Good.mk_iff] | apply And.intro
      | dsimp only | split

theorem Good.State_losePort {b0 : State} (s : State) (p : Nat)
    (hs : Good b0 s) :
    Good b0 (State.losePort s p) := by
  unfold State.losePort
  with_reducible repeat' first
      | assumption | intro _ | apply Good.State_setPort | apply Good.State_forgetBuffer | apply Good.State_raise
      | apply Good.State_dropHeld | apply Good.State_setDetour | apply Good.State_sendRoute | apply Good.State_onPort
      | apply Good.State_pumpOut | apply Good.ite | apply Good.foldl | apply Good.foldl_fst | apply Good.map_getD | apply Good.getD
      | apply MGood.of_good | apply FGood.of_good | (refine Good.of_opt (o := _) ?_ (by assumption))
      | (refine Good.of_opt1 (o := _) ?_ (by assumption)) | simp only [Good.mk_iff] | apply And.intro | dsimp only | split

theorem Good.State_handleLost {b0 : State} (s : State)
    (hs : Good b0 s) :
    Good b0 (State.handleLost s) := by
  unfold State.handleLost
  with_reducible repeat' first
      | assumption | intro _ | apply Good.State_losePort | apply Good.ite | apply Good.foldl | apply Good.foldl_fst | apply And.intro
      | split

theorem Good.of_execPortLinkUp {b0 : State} (port : Fin 32) (media : Media) (s : State)
    (hs : Good b0 s) :
    ∀ z, execPortLinkUp port media s = .next z → Good b0 z := by
  unfold execPortLinkUp
  intro z hz
  injection hz with hz
  subst hz
  with_reducible repeat' first
      | assumption | intro _ | apply Good.of_onlyIf | apply Good.State_onPort | apply Good.State_handleLost | apply Good.State_forgetBuffer
      | apply Good.State_sendDiscover | apply Good.ite | apply MGood.of_good | apply FGood.of_good | apply FGood.ite
      | simp only [Good.mk_iff, FGood.mk_iff] | apply And.intro | dsimp only | split

theorem Good.of_execDiscover {b0 : State} (f : FrameHdr) (record stamps : List Byte) (s : State)
    (hs : Good b0 s) :
    ∀ z, execDiscover f record stamps s = .next z → Good b0 z := by
  unfold execDiscover
  intro z hz
  injection hz with hz
  subst hz
  with_reducible repeat' first
      | assumption | intro _ | apply Good.State_linkReceive | apply Good.State_hdrErr | apply Good.State_onPort
      | apply Good.State_checkRecord | apply Good.State_sendDiscover | apply Good.ite | apply MGood.of_good | apply FGood.of_good
      | simp only [Good.mk_iff] | apply And.intro | dsimp only | split

theorem Good.of_execFarEndSilent {b0 : State} (port : Fin 32) (s : State)
    (hs : Good b0 s) :
    ∀ z, execFarEndSilent port s = .next z → Good b0 z := by
  unfold execFarEndSilent
  intro z hz
  injection hz with hz
  subst hz
  with_reducible repeat' first | assumption | intro _ | apply Good.State_losePort | apply And.intro

theorem Good.of_execPortLost {b0 : State} (port : Fin 32) (s : State)
    (hs : Good b0 s) :
    ∀ z, execPortLost port s = .next z → Good b0 z := by
  unfold execPortLost
  intro z hz
  injection hz with hz
  subst hz
  with_reducible repeat' first | assumption | intro _ | apply Good.State_losePort | apply And.intro

theorem Good.of_execRouteUpdate {b0 : State} (f : FrameHdr) (s : State)
    (hs : Good b0 s) :
    ∀ z, execRouteUpdate f s = .next z → Good b0 z := by
  unfold execRouteUpdate
  intro z hz
  injection hz with hz
  subst hz
  with_reducible repeat' first
      | assumption | intro _ | apply Good.State_frameIn | apply Good.State_setDetour | apply Good.State_sendRoute | apply Good.ite
      | apply MGood.of_good | apply FGood.of_good | (refine Good.of_opt (o := _) ?_ (by assumption))
      | (refine Good.of_opt1 (o := _) ?_ (by assumption)) | simp only [Good.mk_iff] | apply And.intro | dsimp only | split

theorem Good.of_execLinkUp {b0 : State} (axis : Fin 5) (lower : Fin 64) (s : State)
    (hs : Good b0 s) :
    ∀ z, execLinkUp axis lower s = .next z → Good b0 z := by
  unfold execLinkUp
  intro z hz
  injection hz with hz
  subst hz
  with_reducible repeat' first
      | assumption | intro _ | apply Good.State_raise | apply Good.State_setDetour | apply Good.State_sendRoute | apply Good.ite
      | apply MGood.of_good | apply FGood.of_good | (refine Good.of_opt (o := _) ?_ (by assumption))
      | (refine Good.of_opt1 (o := _) ?_ (by assumption)) | simp only [Good.mk_iff] | apply And.intro | dsimp only | split

theorem Good.State_replayFrom {b0 : State} (s : State) (p : Nat) (fs : List TxFrame)
    (hs : Good b0 s) :
    Good b0 (State.replayFrom s p fs) := by
  unfold State.replayFrom
  with_reducible repeat' first
      | assumption | intro _ | apply Good.State_countPort | apply Good.State_emit | apply Good.foldl | apply Good.foldl_fst
      | apply MGood.of_good | apply FGood.of_good | simp only [Good.mk_iff] | apply And.intro

theorem Good.of_execHopNak {b0 : State} (f : FrameHdr) (s : State)
    (hs : Good b0 s) :
    ∀ z, execHopNak f s = .next z → Good b0 z := by
  unfold execHopNak
  intro z hz
  injection hz with hz
  subst hz
  with_reducible repeat' first
      | assumption | intro _ | apply Good.State_linkReceive | apply Good.State_hdrErr | apply Good.State_hopAcked | apply Good.State_onPort
      | apply Good.State_losePort | apply Good.State_replayFrom | apply Good.ite | apply MGood.of_good | apply FGood.of_good
      | simp only [Good.mk_iff] | apply And.intro | dsimp only | split

theorem Good.of_execCredit {b0 : State} (f : FrameHdr) (counts : List W32) (s : State)
    (hs : Good b0 s) :
    ∀ z, execCredit f counts s = .next z → Good b0 z := by
  unfold execCredit
  intro z hz
  injection hz with hz
  subst hz
  with_reducible repeat' first
      | assumption | intro _ | apply Good.State_linkReceive | apply Good.State_hdrErr | apply Good.State_onPort | apply Good.State_pumpOut
      | apply Good.ite | apply MGood.of_good | apply FGood.of_good | simp only [Good.mk_iff] | apply And.intro | dsimp only | split

theorem Good.State_askReplay {b0 : State} (s : State) (p : Nat)
    (hs : Good b0 s) :
    Good b0 (State.askReplay s p) := by
  unfold State.askReplay
  with_reducible repeat' first
      | assumption | intro _ | apply Good.State_onPort | apply Good.State_sendLink | apply Good.ite | apply MGood.of_good
      | apply FGood.of_good | simp only [Good.mk_iff] | apply And.intro | dsimp only | split

theorem Good.of_execFcsErrorFrame {b0 : State} (port : Fin 32) (s : State)
    (hs : Good b0 s) :
    ∀ z, execFcsErrorFrame port s = .next z → Good b0 z := by
  unfold execFcsErrorFrame
  intro z hz
  injection hz with hz
  subst hz
  with_reducible repeat' first
      | assumption | intro _ | apply Good.of_onlyIf | apply Good.State_onPort | apply Good.State_stuck | apply Good.State_askReplay
      | apply MGood.of_good | apply FGood.of_good | simp only [Good.mk_iff] | apply And.intro | dsimp only

theorem Good.of_execDiscardedFrame {b0 : State} (port : Fin 32) (kind : ForeignFrame) (s : State)
    (hs : Good b0 s) :
    ∀ z, execDiscardedFrame port kind s = .next z → Good b0 z := by
  unfold execDiscardedFrame
  intro z hz
  injection hz with hz
  subst hz
  with_reducible repeat' first
      | assumption | intro _ | apply Good.of_onlyIf | apply Good.State_countPort | apply Good.State_hopReceive
      | apply Good.State_freeUnitsAt | apply Good.State_hdrErr | apply MGood.of_good | apply FGood.of_good
      | (refine Good.of_opt (o := _) ?_ (by assumption)) | (refine Good.of_opt1 (o := _) ?_ (by assumption)) | simp only [Good.mk_iff]
      | apply And.intro | split

theorem Good.of_execVcShare {b0 : State} (port : Fin 32) (value : W32) (s : State)
    (hs : Good b0 s) :
    ∀ z, execVcShare port value s = .next z → Good b0 z := by
  unfold execVcShare
  intro z hz
  injection hz with hz
  subst hz
  with_reducible repeat' first
      | assumption | intro _ | apply Good.of_onlyIf | apply Good.State_onPort | apply Good.ite | apply Good.foldl | apply Good.foldl_fst
      | apply MGood.of_good | apply FGood.of_good | simp only [Good.mk_iff] | apply And.intro | dsimp only | split

theorem Good.State_restripe {b0 : State} (s : State) (p : Nat) (m : BitVec 4)
    (hs : Good b0 s) :
    Good b0 (State.restripe s p m) := by
  unfold State.restripe
  with_reducible repeat' first
      | assumption | intro _ | apply Good.State_onPort | apply Good.State_losePort | apply Good.State_replayFrom | apply Good.State_pumpOut
      | apply Good.ite | apply MGood.of_good | apply FGood.of_good | simp only [Good.mk_iff] | apply And.intro | dsimp only | split

theorem Good.State_dropLanes {b0 : State} (s : State) (p : Nat) (m : BitVec 4)
    (hs : Good b0 s) :
    Good b0 (State.dropLanes s p m) := by
  unfold State.dropLanes
  with_reducible repeat' first
      | assumption | intro _ | apply Good.State_onPort | apply Good.State_stuck | apply Good.State_raise | apply Good.State_restripe
      | apply Good.foldl | apply Good.foldl_fst | apply MGood.of_good | apply FGood.of_good | simp only [Good.mk_iff] | apply And.intro
      | dsimp only

theorem Good.State_restripeCommon {b0 : State} (s : State) (p : Nat)
    (hs : Good b0 s) :
    Good b0 (State.restripeCommon s p) := by
  unfold State.restripeCommon
  with_reducible repeat' first
      | assumption | intro _ | apply Good.State_dropLanes | apply Good.State_restripe | apply Good.ite | apply MGood.of_good
      | apply FGood.of_good | simp only [Good.mk_iff] | apply And.intro | dsimp only | split

theorem Good.of_execLaneDrop {b0 : State} (port : Fin 32) (lane : Fin 4) (s : State)
    (hs : Good b0 s) :
    ∀ z, execLaneDrop port lane s = .next z → Good b0 z := by
  unfold execLaneDrop
  intro z hz
  injection hz with hz
  subst hz
  with_reducible repeat' first
      | assumption | intro _ | apply Good.of_onlyIf | apply Good.State_onPort | apply Good.State_sendLink | apply Good.State_restripeCommon
      | apply MGood.of_good | apply FGood.of_good | simp only [Good.mk_iff] | apply And.intro | dsimp only

theorem Good.of_execLinkState {b0 : State} (f : FrameHdr) (s : State)
    (hs : Good b0 s) :
    ∀ z, execLinkState f s = .next z → Good b0 z := by
  unfold execLinkState
  intro z hz
  injection hz with hz
  subst hz
  with_reducible repeat' first
      | assumption | intro _ | apply Good.State_linkReceive | apply Good.State_hdrErr | apply Good.State_onPort | apply Good.State_sendLink
      | apply Good.State_restripeCommon | apply Good.ite | apply MGood.of_good | apply FGood.of_good | simp only [Good.mk_iff]
      | apply And.intro | dsimp only | split

theorem Good.of_execLaneReadmit {b0 : State} (port : Fin 32) (lane : Fin 4) (s : State)
    (hs : Good b0 s) :
    ∀ z, execLaneReadmit port lane s = .next z → Good b0 z := by
  unfold execLaneReadmit
  intro z hz
  injection hz with hz
  subst hz
  with_reducible repeat' first
      | assumption | intro _ | apply Good.of_onlyIf | apply Good.State_onPort | apply Good.State_sendLink | apply MGood.of_good
      | apply FGood.of_good | simp only [Good.mk_iff] | apply And.intro | dsimp only

theorem MGood.VxGroup_op {b0 : Mem} (g : VxGroup) (x : VxState) (o : VxOp) (hx : MGood b0 x.mem) : MGood b0 (g.op x o).mem := by
  unfold VxGroup.op
  split
  · exact hx
  · exact hx
  · exact MGood.Mem_storeRun _ _ _ _ hx
  · exact hx
  · exact hx

theorem MGood.VxGroup_run {b0 : Mem} (g : VxGroup) (m : Mem) (reds : Tab (List Partial)) (hm : MGood b0 m)
    : MGood b0 (g.run m reds).mem := by
  unfold VxGroup.run
  suffices ∀ (l : List VxOp) (x : VxState), MGood b0 x.mem → MGood b0 (l.foldl g.op x).mem from this _ _ hm
  intro l
  induction l with
  | nil => exact fun x hx => hx
  | cons o r ih => exact fun x hx => ih _ (MGood.VxGroup_op g x o hx)

theorem Good.State_putRecord {b0 : State} (s : State) (r : VxuRun) (v : VxTask) (b i1 off k : Nat)
    (hs : Good b0 s) :
    Good b0 ((State.putRecord s r v b i1 off k)).1 := by
  unfold State.putRecord
  with_reducible repeat' first
      | assumption | intro _ | apply MGood.write | apply Good.State_write | apply MGood.Mem_note | apply Good.map_getD | apply Good.getD
      | apply MGood.of_good | apply FGood.of_good | simp only [Good.mk_iff] | apply And.intro | dsimp only

theorem Good.State_putRecords {b0 : State} (s : State) (r : VxuRun) (v : VxTask) (b i1 axis off : Nat)
    (hs : Good b0 s) :
    Good b0 ((State.putRecords s r v b i1 axis off)).1 := by
  unfold State.putRecords
  with_reducible repeat' first
      | assumption | intro _ | apply Good.State_putRecord | apply Good.foldl | apply Good.foldl_fst | apply And.intro

theorem Good.State_putOutputs {b0 : State} (s : State) (r : VxuRun) (g : VxGroup) (ys : List W32)
    (hs : Good b0 s) :
    Good b0 ((State.putOutputs s r g ys)).1 := by
  unfold State.putOutputs
  with_reducible repeat' first
      | assumption | intro _ | apply MGood.Mem_storeRun | apply MGood.Mem_note | apply MGood.of_good | apply FGood.of_good
      | apply ByteGood.of | apply WcbGood.of | simp only [Good.mk_iff, MGood.mk_iff] | apply And.intro | dsimp only

theorem Good.State_topkRow {b0 : State} (s : State) (r : VxuRun) (v : VxTask) (i1 token : Nat) (base : Nat)
    (hs : Good b0 s) :
    Good b0 ((State.topkRow s r v i1 token base)).1 := by
  unfold State.topkRow
  with_reducible repeat' first
      | assumption | intro _ | apply Good.State_countCtx | apply MGood.write | apply Good.State_write | apply MGood.Mem_note
      | apply Good.ite | apply Good.foldl | apply Good.foldl_fst | apply Good.map_getD | apply Good.getD | apply MGood.of_good
      | apply FGood.of_good | simp only [Good.mk_iff] | apply And.intro | dsimp only | split

theorem Good.State_endRow {b0 : State} (s : State) (r : VxuRun) (g : VxGroup) (x : VxShape)
    (hs : Good b0 s) :
    Good b0 ((State.endRow s r g x)).1 := by
  unfold State.endRow
  with_reducible repeat' first
      | assumption | intro _ | apply Good.State_topkRow | apply Good.State_putOutputs | apply MGood.Mem_note | apply Good.State_putRecords
      | apply Good.ite | apply MGood.of_good | apply FGood.of_good | simp only [Good.mk_iff] | apply And.intro | dsimp only | split

theorem Good.State_releaseTile {b0 : State} (s : State) (a : Nat) (e : SluiceSlot) (zrel : Bool)
    (hs : Good b0 s) :
    Good b0 (State.releaseTile s a e zrel) := by
  unfold State.releaseTile
  with_reducible repeat' first
      | assumption | intro _ | apply Good.State_onTile | apply Good.State_onArray | apply MGood.of_good | apply FGood.of_good
      | simp only [Good.mk_iff] | apply And.intro

theorem Good.State_vxStatus {b0 : State} (s : State) (a : Nat) (r : VxuRun) (v : VxTask) (b : Nat)
    (hs : Good b0 s) :
    Good b0 (State.vxStatus s a r v b) := by
  unfold State.vxStatus
  with_reducible repeat' first
      | assumption | intro _ | apply Good.State_captureFlags | apply Good.State_countFlags | apply MGood.Mem_putStatus | apply Good.ite
      | apply Good.map_getD | apply Good.getD | apply MGood.of_good | apply FGood.of_good | apply ByteGood.of | apply WcbGood.of
      | apply MGood.ite | (refine Good.of_opt (o := _) ?_ (by assumption)) | (refine Good.of_opt1 (o := _) ?_ (by assumption))
      | (refine MGood.of_opt1 (o := _) ?_ (by assumption)) | simp only [Good.mk_iff, MGood.mk_iff] | apply And.intro | dsimp only | split

theorem Good.State_closeRun {b0 : State} (s : State) (a : Nat) (r : VxuRun)
    (hs : Good b0 s) :
    Good b0 (State.closeRun s a r) := by
  unfold State.closeRun
  with_reducible repeat' first
      | assumption | intro _ | apply Good.State_onTask | apply Good.of_accepted | apply Good.State_onArray | apply MGood.of_good
      | apply FGood.of_good | (refine Good.of_opt (o := _) ?_ (by assumption)) | (refine Good.of_opt1 (o := _) ?_ (by assumption))
      | simp only [Good.mk_iff] | apply And.intro | split

theorem Good.State_keepRun {b0 : State} (s : State) (a : Nat) (r : VxuRun)
    (hs : Good b0 s) :
    Good b0 (State.keepRun s a r) := by
  unfold State.keepRun
  with_reducible repeat' first
      | assumption | intro _ | apply Good.State_onArray | apply Good.ite | apply MGood.of_good | apply FGood.of_good
      | simp only [Good.mk_iff] | apply And.intro | split

theorem Good.State_endTask {b0 : State} (s : State) (a : Nat) (r : VxuRun) (v : VxTask) (x : VxShape)
    (hs : Good b0 s) :
    Good b0 (State.endTask s a r v x) := by
  unfold State.endTask
  with_reducible repeat' first
      | assumption | intro _ | apply Good.State_putRecords | apply Good.State_vxStatus | apply Good.State_releaseTile
      | apply Good.State_closeRun | apply Good.State_keepRun | apply Good.ite | apply MGood.of_good | apply FGood.of_good
      | (refine Good.of_opt (o := _) ?_ (by assumption)) | (refine Good.of_opt1 (o := _) ?_ (by assumption)) | simp only [Good.mk_iff]
      | apply And.intro | dsimp only | split

theorem Good.State_runGroup {b0 : State} (s : State) (a : Nat) (r : VxuRun) (g : VxGroup) (x : VxShape) (hs : Good b0 s) :
    Good b0 (s.runGroup a r g x) := by
  have key : ∀ z : State × VxuRun, Good b0 z.1 → Good b0 (if x.rows ≤ z.2.row then z.1.endTask a z.2 g.v x else z.1.keepRun a z.2) := by
    intro z hz
    split
    · exact Good.State_endTask _ _ _ _ _ hz
    · exact Good.State_keepRun _ _ _ hz
  have hs1 : Good b0 { s with mem := (g.run s.mem r.reds).mem } := ⟨MGood.VxGroup_run g _ _ hs.mem, hs.boot⟩
  unfold State.runGroup
  refine key _ ?_
  dsimp only
  split
  · split
    · exact Good.State_endRow _ _ _ _ (Good.State_putOutputs _ _ _ _ hs1)
    · dsimp only
      with_reducible apply Good.State_putOutputs
      exact hs1
  · split
    · exact hs1
    · split
      · exact Good.State_endRow _ _ _ _ hs1
      · exact hs1

theorem Good.State_issueGroup {b0 : State} (s : State) (a : Nat) (r : VxuRun)
    (hs : Good b0 s) :
    Good b0 (State.issueGroup s a r) := by
  unfold State.issueGroup
  with_reducible repeat' first
      | assumption | intro _ | apply Good.State_endTask | apply Good.State_guarded | apply Good.State_engineReads
      | apply Good.State_takeTokens | apply Good.State_countVxu | apply Good.State_runGroup | apply Good.ite | apply MGood.of_good
      | apply FGood.of_good | simp only [Good.mk_iff] | apply And.intro | dsimp only | split

theorem Good.State_startVx {b0 : State} (s : State) (a c slot task addr : Nat) (tile : Option SluiceSlot)
    (hs : Good b0 s) :
    Good b0 (State.startVx s a c slot task addr tile) := by
  unfold State.startVx
  with_reducible repeat' first
      | assumption | intro _ | apply Good.State_guarded | apply Good.State_engineReads | apply Good.State_issueGroup | apply MGood.of_good
      | apply FGood.of_good | apply ByteGood.of | apply WcbGood.of | simp only [Good.mk_iff, MGood.mk_iff] | apply And.intro | dsimp only

theorem Good.State_memGroup {b0 : State} (s : State) (a : Nat)
    (hs : Good b0 s) :
    Good b0 (State.memGroup s a) := by
  unfold State.memGroup
  with_reducible repeat' first
      | assumption | intro _ | apply Good.State_onArray | apply Good.State_issueGroup | apply Good.State_startVx | apply MGood.of_good
      | apply FGood.of_good | apply ByteGood.of | apply WcbGood.of | (refine Good.of_opt (o := _) ?_ (by assumption))
      | (refine Good.of_opt1 (o := _) ?_ (by assumption)) | (refine MGood.of_opt1 (o := _) ?_ (by assumption))
      | simp only [Good.mk_iff, MGood.mk_iff] | apply And.intro | dsimp only | split

theorem Good.State_sluiceGroup {b0 : State} (s : State) (a : Nat) (e : SluiceSlot) (ecc : BankEcc)
    (hs : Good b0 s) :
    Good b0 (State.sluiceGroup s a e ecc) := by
  unfold State.sluiceGroup
  with_reducible repeat' first
      | assumption | intro _ | apply Good.State_onArray | apply Good.State_countArray | apply Good.State_bankUe
      | apply Good.State_issueGroup | apply Good.State_startVx | apply Good.ite | apply MGood.of_good | apply FGood.of_good
      | apply ByteGood.of | apply WcbGood.of | apply MGood.ite | (refine Good.of_opt (o := _) ?_ (by assumption))
      | (refine Good.of_opt1 (o := _) ?_ (by assumption)) | (refine MGood.of_opt1 (o := _) ?_ (by assumption))
      | simp only [Good.mk_iff, MGood.mk_iff] | apply And.intro | dsimp only | split

theorem Good.of_execVxuIssueGroup {b0 : State} (vxu : Fin 192) (ecc : BankEcc) (parityErrors : List ChannelRepeats) (s : State)
    (hs : Good b0 s) :
    ∀ z, execVxuIssueGroup vxu ecc parityErrors s = .next z → Good b0 z := by
  unfold execVxuIssueGroup
  intro z hz
  injection hz with hz
  subst hz
  with_reducible repeat' first
      | assumption | intro _ | apply Good.of_onlyIf | apply Good.State_parityErrors | apply Good.State_onArray
      | apply Good.State_sluiceGroup | apply Good.State_memGroup | apply Good.ite | apply MGood.of_good | apply FGood.of_good
      | apply ByteGood.of | apply WcbGood.of | apply MGood.ite | (refine Good.of_opt (o := _) ?_ (by assumption))
      | (refine Good.of_opt1 (o := _) ?_ (by assumption)) | (refine MGood.of_opt1 (o := _) ?_ (by assumption))
      | simp only [Good.mk_iff, MGood.mk_iff] | apply And.intro | dsimp only | split

theorem Good.State_sendSeg {b0 : State} (s : State) (k : Collective) (p : CollPlan) (half : Nat) (g : Seg) (bs : List Byte)
    (hs : Good b0 s) :
    Good b0 (State.sendSeg s k p half g bs) := by
  unfold State.sendSeg
  with_reducible repeat' first
      | assumption | intro _ | apply Good.State_sendMessage | apply Good.map_getD | apply Good.getD | apply ByteGood.of | apply WcbGood.of
      | apply And.intro

theorem Good.State_deliver {b0 : State} (s : State) (k : Collective) (p : CollPlan) (g : Seg) (bs : List Byte)
    (hs : Good b0 s) :
    Good b0 (State.deliver s k p g bs) := by
  unfold State.deliver
  with_reducible repeat' first
      | assumption | intro _ | apply Good.State_landGradient | apply MGood.write | apply Good.State_write | apply Good.foldl
      | apply Good.foldl_fst | apply MGood.of_good | apply FGood.of_good | (refine Good.of_opt (o := _) ?_ (by assumption))
      | (refine Good.of_opt1 (o := _) ?_ (by assumption)) | simp only [Good.mk_iff] | apply And.intro | split

theorem Good.State_finishSeg {b0 : State} (s : State) (k : Collective) (p : CollPlan) (g : Seg) (bs : List Byte)
    (hs : Good b0 s) :
    Good b0 (State.finishSeg s k p g bs) := by
  unfold State.finishSeg
  with_reducible repeat' first
      | assumption | intro _ | apply Good.State_deliver | apply Good.State_sendSeg | apply Good.ite | apply MGood.of_good
      | apply FGood.of_good | simp only [Good.mk_iff] | apply And.intro | dsimp only | split

theorem Good.State_takeSeg {b0 : State} (s : State) (k : Collective) (p : CollPlan) (half : Nat) (g : Seg) (bs : List Byte)
    (hs : Good b0 s) :
    Good b0 (State.takeSeg s k p half g bs) := by
  unfold State.takeSeg
  with_reducible repeat' first
      | assumption | intro _ | apply Good.State_finishSeg | apply Good.State_sendSeg | apply Good.State_deliver | apply Good.ite
      | apply MGood.of_good | apply FGood.of_good | apply ByteGood.of | apply WcbGood.of | apply MGood.ite
      | simp only [Good.mk_iff, MGood.mk_iff] | apply And.intro | dsimp only | split

theorem Good.State_settleColl {b0 : State} (s : State) (k : Collective) (p : CollPlan)
    (hs : Good b0 s) :
    Good b0 (State.settleColl s k p) := by
  unfold State.settleColl
  with_reducible repeat' first
      | assumption | intro _ | apply Good.State_onTask | apply Good.ite | apply MGood.of_good | apply FGood.of_good
      | simp only [Good.mk_iff] | apply And.intro | dsimp only | split

theorem Good.State_tryEarly {b0 : State} (s : State) (x : EarlySeg)
    (hs : Good b0 s) :
    Good b0 (State.tryEarly s x) := by
  unfold State.tryEarly
  with_reducible repeat' first
      | assumption | intro _ | apply Good.State_guarded | apply Good.State_noteReads | apply Good.State_takeSeg
      | apply Good.State_settleColl | apply Good.ite | apply MGood.of_good | apply FGood.of_good
      | (refine Good.of_opt (o := _) ?_ (by assumption)) | (refine Good.of_opt1 (o := _) ?_ (by assumption)) | simp only [Good.mk_iff]
      | apply And.intro | dsimp only | split

theorem Good.State_drainEarly {b0 : State} (s : State)
    (hs : Good b0 s) :
    Good b0 (State.drainEarly s) := by
  unfold State.drainEarly
  with_reducible repeat' first
      | assumption | intro _ | apply Good.State_tryEarly | apply Good.foldl | apply Good.foldl_fst | apply And.intro

theorem Good.of_execColl {b0 : State} (f : FrameHdr) (payload : List Byte) (s : State)
    (hs : Good b0 s) :
    ∀ z, execColl f payload s = .next z → Good b0 z := by
  unfold execColl
  intro z hz
  injection hz with hz
  subst hz
  with_reducible repeat' first
      | assumption | intro _ | apply Good.State_streamIn | apply Good.State_badFabricAddr | apply Good.State_hdrErr
      | apply Good.State_onPort | apply Good.State_drainEarly | apply Good.ite | apply MGood.of_good | apply FGood.of_good
      | simp only [Good.mk_iff] | apply And.intro | dsimp only | split

theorem Good.State_moveRow {b0 : State} (s : State) (c dst : Nat) (src tgt : List (Nat × Nat))
    (hs : Good b0 s) :
    Good b0 (State.moveRow s c dst src tgt) := by
  unfold State.moveRow
  with_reducible repeat' first
      | assumption | intro _ | apply MGood.write | apply Good.State_write | apply Good.State_sendMessage | apply Good.ite
      | apply Good.foldl | apply Good.foldl_fst | apply MGood.of_good | apply FGood.of_good | apply ByteGood.of | apply WcbGood.of
      | apply MGood.ite | apply MGood.foldl | apply MGood.foldl_fst | simp only [Good.mk_iff, MGood.mk_iff] | apply And.intro | dsimp only
      | split

theorem Good.State_sendRows {b0 : State} (s : State) (k : Collective)
    (hs : Good b0 s) :
    Good b0 (State.sendRows s k) := by
  unfold State.sendRows
  with_reducible repeat' first
      | assumption | intro _ | apply Good.State_moveRow | apply Good.State_take | apply Good.Repair_take | apply Good.State_drawn
      | apply Good.ite | apply Good.foldl | apply Good.foldl_fst | apply MGood.of_good | apply FGood.of_good | apply ByteGood.of
      | apply WcbGood.of | apply MGood.ite | apply MGood.foldl | apply MGood.foldl_fst | simp only [Good.mk_iff, MGood.mk_iff]
      | apply And.intro | dsimp only | split

theorem Good.State_tryExchange {b0 : State} (s : State) (k : Collective)
    (hs : Good b0 s) :
    Good b0 (State.tryExchange s k) := by
  unfold State.tryExchange
  with_reducible repeat' first
      | assumption | intro _ | apply Good.State_moveRow | apply Good.State_onTask | apply Good.ite | apply Good.foldl
      | apply Good.foldl_fst | apply MGood.of_good | apply FGood.of_good | apply ByteGood.of | apply WcbGood.of | apply MGood.ite
      | apply MGood.foldl | apply MGood.foldl_fst | simp only [Good.mk_iff, MGood.mk_iff] | apply And.intro | dsimp only | split

theorem Good.State_pollColls {b0 : State} (s : State)
    (hs : Good b0 s) :
    Good b0 (State.pollColls s) := by
  unfold State.pollColls
  with_reducible repeat' first
      | assumption | intro _ | apply Good.State_tryExchange | apply Good.State_drainEarly | apply Good.foldl | apply Good.foldl_fst
      | apply And.intro

theorem Good.State_countGather {b0 : State} (s : State) (k : Collective) (p : CollPlan)
    (hs : Good b0 s) :
    Good b0 (State.countGather s k p) := by
  unfold State.countGather
  with_reducible repeat' first
      | assumption | intro _ | apply Good.State_onCtx | apply Good.State_countCtx | apply Good.ite | apply Good.foldl
      | apply Good.foldl_fst | apply MGood.of_good | apply FGood.of_good | apply ByteGood.of | apply WcbGood.of | apply MGood.ite
      | apply MGood.foldl | apply MGood.foldl_fst | (refine Good.of_opt (o := _) ?_ (by assumption))
      | (refine Good.of_opt1 (o := _) ?_ (by assumption)) | (refine MGood.of_opt1 (o := _) ?_ (by assumption))
      | simp only [Good.mk_iff, MGood.mk_iff] | apply And.intro | dsimp only | split

theorem Good.State_startRing {b0 : State} (s : State) (k : Collective) (p : CollPlan)
    (hs : Good b0 s) :
    Good b0 (State.startRing s k p) := by
  unfold State.startRing
  with_reducible repeat' first
      | assumption | intro _ | apply Good.State_guarded | apply Good.State_noteReads | apply Good.State_onTask
      | apply Good.State_countGather | apply Good.State_deliver | apply Good.State_sendSeg | apply Good.State_settleColl
      | apply Good.State_drainEarly | apply Good.ite | apply Good.foldl | apply Good.foldl_fst | apply MGood.of_good | apply FGood.of_good
      | apply ByteGood.of | apply WcbGood.of | apply MGood.ite | apply MGood.foldl | apply MGood.foldl_fst
      | simp only [Good.mk_iff, MGood.mk_iff] | apply And.intro | dsimp only | split

theorem Good.State_startXfer {b0 : State} (s : State) (c slot t : Nat) (r : Rec)
    (hs : Good b0 s) :
    Good b0 (State.startXfer s c slot t r) := by
  unfold State.startXfer
  with_reducible repeat' first
      | assumption | intro _ | apply Good.State_guarded | apply Good.State_noteReads | apply MGood.write | apply Good.State_write
      | apply Good.State_signal | apply Good.State_onTask | apply Good.State_sendMessage | apply Good.State_setTx | apply Good.ite
      | apply MGood.of_good | apply FGood.of_good | apply ByteGood.of | apply WcbGood.of | apply MGood.ite
      | simp only [Good.mk_iff, MGood.mk_iff] | apply And.intro | dsimp only | split

theorem Good.State_startExchange {b0 : State} (s : State) (k : Collective)
    (hs : Good b0 s) :
    Good b0 (State.startExchange s k) := by
  unfold State.startExchange
  with_reducible repeat' first
      | assumption | intro _ | apply Good.State_guarded | apply Good.State_noteReads | apply Good.State_onTask | apply Good.State_sendRows
      | apply Good.State_tryExchange | apply Good.ite | apply MGood.of_good | apply FGood.of_good | apply ByteGood.of | apply WcbGood.of
      | apply MGood.ite | simp only [Good.mk_iff, MGood.mk_iff] | apply And.intro | dsimp only | split

theorem Good.State_collectiveStart {b0 : State} (s : State) (c slot t : Nat)
    (hs : Good b0 s) :
    Good b0 (State.collectiveStart s c slot t) := by
  unfold State.collectiveStart
  with_reducible repeat' first
      | assumption | intro _ | apply Good.State_startXfer | apply Good.State_startExchange | apply Good.State_onTask
      | apply Good.State_startRing | apply Good.ite | apply Good.map_getD | apply Good.getD | apply MGood.of_good | apply FGood.of_good
      | apply ByteGood.of | apply WcbGood.of | apply MGood.ite | (refine Good.of_opt (o := _) ?_ (by assumption))
      | (refine Good.of_opt1 (o := _) ?_ (by assumption)) | (refine MGood.of_opt1 (o := _) ?_ (by assumption))
      | simp only [Good.mk_iff, MGood.mk_iff] | apply And.intro | dsimp only | split

theorem Good.of_execCollectiveStart {b0 : State} (ctx : Fin 64) (slot task : Nat) (s : State)
    (hs : Good b0 s) :
    ∀ z, execCollectiveStart ctx slot task s = .next z → Good b0 z := by
  unfold execCollectiveStart
  intro z hz
  injection hz with hz
  subst hz
  with_reducible repeat' first | assumption | intro _ | apply Good.State_collectiveStart | apply And.intro

theorem Good.State_takeEntry {b0 : State} (s : State) (c dst : Nat) (w : W64)
    (hs : Good b0 s) :
    Good b0 (State.takeEntry s c dst w) := by
  unfold State.takeEntry
  with_reducible repeat' first
      | assumption | intro _ | apply Good.State_sendMessage | apply Good.ite | apply MGood.of_good | apply FGood.of_good
      | simp only [Good.mk_iff] | apply And.intro | dsimp only | split

theorem Good.State_acceptEntry {b0 : State} (s : State) (r : VxuRun) (dst : Nat) (w : W64)
    (hs : Good b0 s) :
    Good b0 (State.acceptEntry s r dst w) := by
  unfold State.acceptEntry
  with_reducible repeat' first
      | assumption | intro _ | apply Good.State_onTask | apply Good.of_accepted | apply Good.State_takeEntry | apply Good.ite
      | apply MGood.of_good | apply FGood.of_good | simp only [Good.mk_iff] | apply And.intro | split

theorem Good.of_execDispatchAccept {b0 : State} (vxu : Fin 192) (s : State)
    (hs : Good b0 s) :
    ∀ z, execDispatchAccept vxu s = .next z → Good b0 z := by
  unfold execDispatchAccept
  intro z hz
  injection hz with hz
  subst hz
  with_reducible repeat' first
      | assumption | intro _ | apply Good.of_whenReady | apply Good.State_acceptEntry | apply Good.State_onArray
      | apply Good.State_closeRun | apply Good.State_keepRun | apply Good.ite | apply MGood.of_good | apply FGood.of_good
      | (refine Good.of_opt (o := _) ?_ (by assumption)) | (refine Good.of_opt1 (o := _) ?_ (by assumption)) | simp only [Good.mk_iff]
      | apply And.intro | dsimp only | split

theorem Good.of_execHopAckInterval {b0 : State} (port : Fin 32) (s : State)
    (hs : Good b0 s) :
    ∀ z, execHopAckInterval port s = .next z → Good b0 z := by
  unfold execHopAckInterval
  intro z hz
  injection hz with hz
  subst hz
  with_reducible repeat' first
      | assumption | intro _ | apply Good.State_handleLost | apply Good.State_pollColls | apply Good.State_injectAll
      | apply Good.State_sendCredit | apply Good.ite | apply MGood.of_good | apply FGood.of_good | simp only [Good.mk_iff]
      | apply And.intro | dsimp only | split

end Sys2Proof.Machine
end

