-- ==== Sys2Proof/Laws/KeepsRecovery.lean ====
section
/-!
SUPPORT. What every operation keeps, after Laws/Keeps.lean: the operations of Machine/ in Steps, Folds, Mgmt, Telemetry, Recovery, Purge, Tick.
-/
namespace Sys2Proof.Machine

open Sys2Proof

theorem Good.of_execGridSubmit {b0 : State} (h : KcpHdr) (grid : W64) (s : State)
    (hs : Good b0 s) :
    ∀ z, execGridSubmit h grid s = .next z → Good b0 z := by
  unfold execGridSubmit
  intro z hz
  injection hz with hz
  subst hz
  with_reducible repeat' first
      | assumption | intro _ | apply Good.KcpCmd_arrive | apply MGood.Mem_place | apply Good.of_done | apply Good.State_submit
      | apply Good.of_id | apply MGood.of_good | apply FGood.of_good | apply ByteGood.of | apply WcbGood.of
      | (refine Good.of_opt (o := _) ?_ (by assumption)) | (refine Good.of_opt1 (o := _) ?_ (by assumption))
      | (refine MGood.of_opt1 (o := _) ?_ (by assumption)) | simp only [Good.mk_iff, MGood.mk_iff] | apply And.intro | dsimp only | split

theorem MGood.Mem_copyRun {b0 : Mem} (m : Mem) (src dst : Tensor) (p : List Nat) (i : Nat × Nat × Nat)
    (hm : MGood b0 m) :
    MGood b0 ((Mem.copyRun m src dst p i)).1 := by
  unfold Mem.copyRun
  with_reducible repeat' first
      | assumption | intro _ | apply Good.State_take | apply Good.Repair_take | apply MGood.Mem_writeCodes | apply MGood.write
      | apply Good.State_write | apply MGood.Mem_storeRun | apply ByteGood.of | apply WcbGood.of | apply MGood.ite | apply MGood.foldl
      | apply MGood.foldl_fst | (refine MGood.of_opt1 (o := _) ?_ (by assumption)) | simp only [MGood.mk_iff] | apply And.intro
      | dsimp only | split

theorem Good.State_copyTask {b0 : State} (s : State) (c slot t a : Nat)
    (hs : Good b0 s) :
    Good b0 (State.copyTask s c slot t a) := by
  unfold State.copyTask
  with_reducible repeat' first
      | assumption | intro _ | apply Good.State_guarded | apply Good.State_engineReads | apply Good.State_takeTokens
      | apply MGood.Mem_copyRun | apply Good.State_flagEvent | apply MGood.Mem_putStatus | apply Good.State_completeTask | apply Good.ite
      | apply Good.foldl | apply Good.foldl_fst | apply MGood.of_good | apply FGood.of_good | apply ByteGood.of | apply WcbGood.of
      | apply MGood.ite | apply MGood.foldl | apply MGood.foldl_fst | simp only [Good.mk_iff, MGood.mk_iff] | apply And.intro | dsimp only
      | split

theorem Good.State_taskComplete {b0 : State} (s : State) (c slot t : Nat)
    (hs : Good b0 s) :
    Good b0 (State.taskComplete s c slot t) := by
  unfold State.taskComplete
  with_reducible repeat' first
      | assumption | intro _ | apply Good.State_pollColls | apply Good.State_copyTask | apply Good.State_completeTask | apply Good.ite
      | apply MGood.of_good | apply FGood.of_good | apply ByteGood.of | apply WcbGood.of | apply MGood.ite
      | (refine Good.of_opt (o := _) ?_ (by assumption)) | (refine Good.of_opt1 (o := _) ?_ (by assumption))
      | (refine MGood.of_opt1 (o := _) ?_ (by assumption)) | simp only [Good.mk_iff, MGood.mk_iff] | apply And.intro | dsimp only | split

theorem Good.of_execTaskComplete {b0 : State} (ctx : Fin 64) (slot task : Nat) (s : State)
    (hs : Good b0 s) :
    ∀ z, execTaskComplete ctx slot task s = .next z → Good b0 z := by
  unfold execTaskComplete
  intro z hz
  injection hz with hz
  subst hz
  with_reducible repeat' first | assumption | intro _ | apply Good.State_taskComplete | apply And.intro | dsimp only

theorem Good.State_scheduleRefreshes {b0 : State} (s : State) (c n : Nat)
    (hs : Good b0 s) :
    Good b0 (State.scheduleRefreshes s c n) := by
  unfold State.scheduleRefreshes
  with_reducible repeat' first
      | assumption | intro _ | apply Good.State_onCtx | apply Good.ite | apply Good.foldl | apply Good.foldl_fst | apply MGood.of_good
      | apply FGood.of_good | apply ByteGood.of | apply WcbGood.of | apply MGood.ite | apply MGood.foldl | apply MGood.foldl_fst
      | (refine Good.of_opt (o := _) ?_ (by assumption)) | (refine Good.of_opt1 (o := _) ?_ (by assumption))
      | (refine MGood.of_opt1 (o := _) ?_ (by assumption)) | simp only [Good.mk_iff, MGood.mk_iff] | apply And.intro | dsimp only | split

theorem Good.State_scheduleDue {b0 : State} (s : State) (c : Nat)
    (hs : Good b0 s) :
    Good b0 (State.scheduleDue s c) := by
  unfold State.scheduleDue
  with_reducible repeat' first
      | assumption | intro _ | apply Good.State_scheduleRefreshes | apply Good.ite | apply Good.foldl | apply Good.foldl_fst
      | apply MGood.of_good | apply FGood.of_good | simp only [Good.mk_iff] | apply And.intro | dsimp only | split

theorem Good.State_resetRoots {b0 : State} (s : State) (c n : Nat)
    (hs : Good b0 s) :
    Good b0 (State.resetRoots s c n) := by
  unfold State.resetRoots
  with_reducible repeat' first
      | assumption | intro _ | apply MGood.Mem_invalidate | apply Good.ite | apply Good.foldl | apply Good.foldl_fst | apply MGood.of_good
      | apply FGood.of_good | apply ByteGood.of | apply WcbGood.of | apply MGood.ite | apply MGood.foldl | apply MGood.foldl_fst
      | (refine Good.of_opt (o := _) ?_ (by assumption)) | (refine Good.of_opt1 (o := _) ?_ (by assumption))
      | (refine MGood.of_opt1 (o := _) ?_ (by assumption)) | simp only [Good.mk_iff, MGood.mk_iff] | apply And.intro | dsimp only | split

theorem Good.of_execStepStart {b0 : State} (ctx : Fin 64) (s : State)
    (hs : Good b0 s) :
    ∀ z, execStepStart ctx s = .next z → Good b0 z := by
  unfold execStepStart
  intro z hz
  injection hz with hz
  subst hz
  with_reducible repeat' first
      | assumption | intro _ | apply Good.of_onlyIf | apply Good.State_onCtx | apply Good.State_submitGrids | apply Good.ite
      | apply MGood.of_good | apply FGood.of_good | simp only [Good.mk_iff] | apply And.intro | dsimp only | split

theorem Good.State_enterHeld {b0 : State} (s : State) (c : Nat)
    (hs : Good b0 s) :
    Good b0 (State.enterHeld s c) := by
  unfold State.enterHeld
  with_reducible repeat' first
      | assumption | intro _ | apply Good.State_onCtx | apply MGood.Mem_count | apply Good.State_copyLabel | apply Good.State_notify
      | apply Good.foldl | apply Good.foldl_fst | apply MGood.of_good | apply FGood.of_good
      | (refine Good.of_opt (o := _) ?_ (by assumption)) | (refine Good.of_opt1 (o := _) ?_ (by assumption)) | simp only [Good.mk_iff]
      | apply And.intro | dsimp only | split

theorem Good.of_execStepBoundary {b0 : State} (ctx : Fin 64) (s : State)
    (hs : Good b0 s) :
    ∀ z, execStepBoundary ctx s = .next z → Good b0 z := by
  unfold execStepBoundary
  intro z hz
  injection hz with hz
  subst hz
  with_reducible repeat' first
      | assumption | intro _ | apply Good.of_onlyIf | apply Good.State_resetRoots | apply Good.State_onCtx | apply Good.State_scheduleDue
      | apply Good.State_enterHeld | apply Good.ite | apply MGood.of_good | apply FGood.of_good | simp only [Good.mk_iff] | apply And.intro
      | dsimp only | split

theorem Good.State_rereadExperts {b0 : State} (s : State) (c : Nat)
    (hs : Good b0 s) :
    Good b0 (State.rereadExperts s c) := by
  unfold State.rereadExperts
  with_reducible repeat' first
      | assumption | intro _ | apply Good.State_onCtx | apply MGood.Mem_writeSpans | apply Good.State_drawn | apply Good.State_refold
      | apply Good.State_emitBlock | apply Good.State_peerStorage | apply Good.ite | apply Good.foldl | apply Good.foldl_fst
      | apply Good.map_getD | apply Good.getD | apply MGood.of_good | apply FGood.of_good | apply ByteGood.of | apply WcbGood.of
      | apply MGood.ite | apply MGood.foldl | apply MGood.foldl_fst | (refine Good.of_opt (o := _) ?_ (by assumption))
      | (refine Good.of_opt1 (o := _) ?_ (by assumption)) | (refine MGood.of_opt1 (o := _) ?_ (by assumption))
      | simp only [Good.mk_iff, MGood.mk_iff] | apply And.intro | dsimp only | split

theorem Good.State_rereadUpdate {b0 : State} (s : State) (c : Nat)
    (hs : Good b0 s) :
    Good b0 (State.rereadUpdate s c) := by
  unfold State.rereadUpdate
  with_reducible repeat' first
      | assumption | intro _ | apply MGood.Mem_count | apply Good.State_onCtx | apply Good.State_refold | apply Good.State_emitBlock
      | apply Good.ite | apply Good.foldl | apply Good.foldl_fst | apply Good.map_getD | apply Good.getD | apply MGood.of_good
      | apply FGood.of_good | apply ByteGood.of | apply WcbGood.of | apply MGood.ite | apply MGood.foldl | apply MGood.foldl_fst
      | (refine Good.of_opt (o := _) ?_ (by assumption)) | (refine Good.of_opt1 (o := _) ?_ (by assumption))
      | (refine MGood.of_opt1 (o := _) ?_ (by assumption)) | simp only [Good.mk_iff, MGood.mk_iff] | apply And.intro | dsimp only | split

theorem Good.State_remakeRewritten {b0 : State} (s : State) (c : Nat)
    (hs : Good b0 s) :
    Good b0 (State.remakeRewritten s c) := by
  unfold State.remakeRewritten
  with_reducible repeat' first
      | assumption | intro _ | apply MGood.Mem_count | apply Good.State_refold | apply Good.State_take | apply Good.Repair_take
      | apply Good.State_emitBlock | apply Good.State_onCtx | apply Good.ite | apply Good.foldl | apply Good.foldl_fst
      | apply MGood.of_good | apply FGood.of_good | (refine Good.of_opt (o := _) ?_ (by assumption))
      | (refine Good.of_opt1 (o := _) ?_ (by assumption)) | simp only [Good.mk_iff] | apply And.intro | dsimp only | split

theorem Good.of_execStepRun {b0 : State} (h : KcpHdr) (count : W32) (s : State)
    (hs : Good b0 s) :
    ∀ z, execStepRun h count s = .next z → Good b0 z := by
  unfold execStepRun
  intro z hz
  injection hz with hz
  subst hz
  with_reducible repeat' first
      | assumption | intro _ | apply Good.KcpCmd_arrive | apply MGood.Mem_count | apply Good.State_onCtx | apply Good.of_done
      | apply Good.State_rereadUpdate | apply Good.State_rereadExperts | apply Good.State_remakeRewritten | apply Good.of_id
      | apply Good.ite | apply MGood.of_good | apply FGood.of_good | simp only [Good.mk_iff] | apply And.intro | dsimp only | split

theorem Good.of_execStepHold {b0 : State} (h : KcpHdr) (atStep : W64) (s : State)
    (hs : Good b0 s) :
    ∀ z, execStepHold h atStep s = .next z → Good b0 z := by
  unfold execStepHold
  intro z hz
  injection hz with hz
  subst hz
  with_reducible repeat' first
      | assumption | intro _ | apply Good.KcpCmd_arrive | apply Good.of_done | apply Good.State_onCtx | apply Good.State_enterHeld
      | apply Good.of_id | apply Good.ite | apply MGood.of_good | apply FGood.of_good | simp only [Good.mk_iff] | apply And.intro
      | dsimp only | split

theorem Good.of_execStepQuery {b0 : State} (h : KcpHdr) (s : State)
    (hs : Good b0 s) :
    ∀ z, execStepQuery h s = .next z → Good b0 z := by
  unfold execStepQuery
  intro z hz
  injection hz with hz
  subst hz
  with_reducible repeat' first
      | assumption | intro _ | apply Good.KcpCmd_arrive | apply Good.of_done | apply Good.of_id | apply MGood.of_good | apply FGood.of_good
      | simp only [Good.mk_iff] | apply And.intro | dsimp only

theorem Good.of_execFenceSignal {b0 : State} (h : KcpHdr) (fence : W16) (inc : W32) (s : State)
    (hs : Good b0 s) :
    ∀ z, execFenceSignal h fence inc s = .next z → Good b0 z := by
  unfold execFenceSignal
  intro z hz
  injection hz with hz
  subst hz
  with_reducible repeat' first
      | assumption | intro _ | apply Good.KcpCmd_arrive | apply Good.State_signal | apply Good.of_done | apply Good.of_id
      | apply MGood.of_good | apply FGood.of_good | simp only [Good.mk_iff] | apply And.intro | dsimp only

theorem Good.of_execFenceQuery {b0 : State} (h : KcpHdr) (fence : W16) (s : State)
    (hs : Good b0 s) :
    ∀ z, execFenceQuery h fence s = .next z → Good b0 z := by
  unfold execFenceQuery
  intro z hz
  injection hz with hz
  subst hz
  with_reducible repeat' first
      | assumption | intro _ | apply Good.KcpCmd_arrive | apply Good.of_done | apply Good.of_id | apply MGood.of_good | apply FGood.of_good
      | simp only [Good.mk_iff] | apply And.intro | dsimp only

theorem Good.of_execFenceNotify {b0 : State} (h : KcpHdr) (fence : W16) (target : W32) (s : State)
    (hs : Good b0 s) :
    ∀ z, execFenceNotify h fence target s = .next z → Good b0 z := by
  unfold execFenceNotify
  intro z hz
  injection hz with hz
  subst hz
  with_reducible repeat' first
      | assumption | intro _ | apply Good.KcpCmd_arrive | apply Good.of_done | apply Good.State_setSession | apply Good.State_notify
      | apply Good.of_id | apply Good.ite | apply MGood.of_good | apply FGood.of_good | (refine Good.of_opt (o := _) ?_ (by assumption))
      | (refine Good.of_opt1 (o := _) ?_ (by assumption)) | simp only [Good.mk_iff] | apply And.intro | dsimp only | split

theorem Good.State_formDigest {b0 : State} (s : State) (c : Nat) (q : Plan) (n : Nat)
    (hs : Good b0 s) :
    Good b0 (State.formDigest s c q n) := by
  unfold State.formDigest
  with_reducible repeat' first
      | assumption | intro _ | apply Good.State_onFolds | apply Good.State_take | apply Good.Repair_take | apply Good.State_countCtx9
      | apply MGood.write | apply Good.State_write | apply Good.State_sendMessage | apply Good.ite | apply Good.foldl
      | apply Good.foldl_fst | apply Good.map_getD | apply Good.getD | apply MGood.of_good | apply FGood.of_good | simp only [Good.mk_iff]
      | apply And.intro | dsimp only | split

theorem Good.of_execDigestForm {b0 : State} (ctx : Fin 64) (s : State)
    (hs : Good b0 s) :
    ∀ z, execDigestForm ctx s = .next z → Good b0 z := by
  unfold execDigestForm
  intro z hz
  injection hz with hz
  subst hz
  with_reducible repeat' first
      | assumption | intro _ | apply Good.of_whenReady | apply Good.State_formDigest | apply MGood.of_good | apply FGood.of_good
      | (refine Good.of_opt (o := _) ?_ (by assumption)) | (refine Good.of_opt1 (o := _) ?_ (by assumption)) | simp only [Good.mk_iff]
      | apply And.intro | split

theorem Good.State_endLocalise {b0 : State} (s : State) (c : Nat) (ph : DivPhase)
    (hs : Good b0 s) :
    Good b0 (State.endLocalise s c ph) := by
  unfold State.endLocalise
  with_reducible repeat' first
      | assumption | intro _ | apply Good.State_onFolds | apply Good.State_onCtx | apply MGood.of_good | apply FGood.of_good
      | simp only [Good.mk_iff] | apply And.intro

theorem Good.State_listRegions {b0 : State} (s : State) (c : Nat) (q : Plan) (n first : Nat) (rs : List Nat)
    (hs : Good b0 s) :
    Good b0 (State.listRegions s c q n first rs) := by
  unfold State.listRegions
  with_reducible repeat' first
      | assumption | intro _ | apply Good.State_onFolds | apply MGood.of_good | apply FGood.of_good | simp only [Good.mk_iff]
      | apply And.intro | dsimp only

theorem Good.State_startLocalise {b0 : State} (s : State) (c : Nat) (q : Plan) (n : Nat)
    (hs : Good b0 s) :
    Good b0 (State.startLocalise s c q n) := by
  unfold State.startLocalise
  with_reducible repeat' first
      | assumption | intro _ | apply Good.State_drawn | apply Good.State_raise | apply Good.State_listRegions | apply Good.ite
      | apply MGood.of_good | apply FGood.of_good | simp only [Good.mk_iff] | apply And.intro | dsimp only | split

theorem Good.State_compareDigests {b0 : State} (s : State) (c : Nat) (q : Plan) (n : Nat) (ds : List (BitVec 256))
    (hs : Good b0 s) :
    Good b0 (State.compareDigests s c q n ds) := by
  unfold State.compareDigests
  with_reducible repeat' first
      | assumption | intro _ | apply Good.State_onFolds | apply Good.State_raise | apply Good.State_countCtx9
      | apply Good.State_startLocalise | apply Good.ite | apply MGood.of_good | apply FGood.of_good | simp only [Good.mk_iff]
      | apply And.intro | dsimp only | split

theorem Good.of_execDigestCompare {b0 : State} (ctx : Fin 64) (s : State)
    (hs : Good b0 s) :
    ∀ z, execDigestCompare ctx s = .next z → Good b0 z := by
  unfold execDigestCompare
  intro z hz
  injection hz with hz
  subst hz
  with_reducible repeat' first
      | assumption | intro _ | apply Good.of_whenReady | apply Good.State_compareDigests | apply MGood.of_good | apply FGood.of_good
      | (refine Good.of_opt (o := _) ?_ (by assumption)) | (refine Good.of_opt1 (o := _) ?_ (by assumption)) | simp only [Good.mk_iff]
      | apply And.intro | split

theorem Good.State_foldFailed {b0 : State} (s : State) (c r : Nat)
    (hs : Good b0 s) :
    Good b0 (State.foldFailed s c r) := by
  unfold State.foldFailed
  with_reducible repeat' first | assumption | intro _ | apply Good.State_raise | apply Good.State_countCtx9 | apply And.intro

theorem Good.State_localiseRegion {b0 : State} (s : State) (c : Nat) (q : Plan) (r : Nat)
    (hs : Good b0 s) :
    Good b0 (State.localiseRegion s c q r) := by
  unfold State.localiseRegion
  with_reducible repeat' first
      | assumption | intro _ | apply Good.State_foldFailed | apply Good.State_onFolds | apply Good.State_drawn | apply Good.ite
      | apply MGood.of_good | apply FGood.of_good | (refine Good.of_opt (o := _) ?_ (by assumption))
      | (refine Good.of_opt1 (o := _) ?_ (by assumption)) | simp only [Good.mk_iff] | apply And.intro | dsimp only | split

theorem Good.State_concludeLocalise {b0 : State} (s : State) (c : Nat) (q : Plan)
    (hs : Good b0 s) :
    Good b0 (State.concludeLocalise s c q) := by
  unfold State.concludeLocalise
  with_reducible repeat' first
      | assumption | intro _ | apply Good.State_raise | apply Good.State_endLocalise | apply Good.State_onFolds | apply Good.ite
      | apply Good.foldl | apply Good.foldl_fst | apply MGood.of_good | apply FGood.of_good | simp only [Good.mk_iff] | apply And.intro
      | dsimp only | split

theorem Good.of_execGranuleLocalise {b0 : State} (ctx : Fin 64) (block : Nat) (s : State)
    (hs : Good b0 s) :
    ∀ z, execGranuleLocalise ctx block s = .next z → Good b0 z := by
  unfold execGranuleLocalise
  intro z hz
  injection hz with hz
  subst hz
  with_reducible repeat' first
      | assumption | intro _ | apply Good.State_localiseRegion | apply Good.State_setBlock | apply Good.State_onFolds
      | apply Good.State_concludeLocalise | apply Good.ite | apply Good.foldl | apply Good.foldl_fst | apply MGood.of_good
      | apply FGood.of_good | (refine Good.of_opt (o := _) ?_ (by assumption)) | (refine Good.of_opt1 (o := _) ?_ (by assumption))
      | simp only [Good.mk_iff] | apply And.intro | dsimp only | split

theorem Good.State_repairWrite {b0 : State} (s : State) (c : Nat) (q : Plan) (u : Rec) (b off : Nat) (bs : List Byte)
    (hs : Good b0 s) :
    Good b0 (State.repairWrite s c q u b off bs) := by
  unfold State.repairWrite
  with_reducible repeat' first
      | assumption | intro _ | apply MGood.Mem_writeSpans | apply Good.State_foldChange | apply Good.State_emitBlock
      | apply Good.State_countCtx9 | apply Good.State_setBlock | apply Good.State_sendParity | apply Good.ite | apply MGood.of_good
      | apply FGood.of_good | apply ByteGood.of | apply WcbGood.of | apply MGood.ite | (refine Good.of_opt (o := _) ?_ (by assumption))
      | (refine Good.of_opt1 (o := _) ?_ (by assumption)) | (refine MGood.of_opt1 (o := _) ?_ (by assumption))
      | simp only [Good.mk_iff, MGood.mk_iff] | apply And.intro | dsimp only | split

theorem Good.State_restoreGranule {b0 : State} (s : State) (c : Nat) (q : Plan) (u : Rec) (b off : Nat)
    (hs : Good b0 s) :
    Good b0 (State.restoreGranule s c q u b off) := by
  unfold State.restoreGranule
  with_reducible repeat' first
      | assumption | intro _ | apply MGood.Mem_writeSpans | apply Good.State_countCtx9 | apply Good.State_drawn | apply MGood.of_good
      | apply FGood.of_good | apply ByteGood.of | apply WcbGood.of | simp only [Good.mk_iff, MGood.mk_iff] | apply And.intro

theorem Good.Repair_take {b0 : State} (r : Repair) (c : Nat) (q : Plan) (u : Rec) (b off : Nat) (hr : Good b0 r.st) :
    Good b0 (r.take c q u b off).st := Good.State_drawn _ (Good.State_repairWrite _ _ _ _ _ _ _ hr)

theorem Good.Repair_selfChecks {b0 : State} (r : Repair) (c : Nat) (q : Plan) (u : Rec) (b off me : Nat) (failed : List Nat) (hr
    : Good b0 r.st) :
    Good b0 (r.selfChecks c q u b off me failed).st := by
  unfold Repair.selfChecks
  split
  · exact hr
  · dsimp only
    refine Good.State_drawn _ ?_
    split
    · exact Good.State_restoreGranule _ _ _ _ _ _ hr
    · exact hr

theorem Good.Repair_reconstruct {b0 : State} (r : Repair) (c : Nat) (q : Plan) (u : Rec) (b off me : Nat) (hr : Good b0 r.st) :
    Good b0 (r.reconstruct c q u b off me).st := by
  unfold Repair.reconstruct
  dsimp only
  refine Good.State_drawn _ ?_
  split
  · exact Good.State_drawn _ hr
  · exact Good.State_repairWrite _ _ _ _ _ _ _ (Good.State_drawn _ hr)

theorem Good.State_repairGranule {b0 : State} (s : State) (c : Nat) (q : Plan) (d : Divergent) (hs : Good b0 s)
    : Good b0 (s.repairGranule c q d) := by
  unfold State.repairGranule
  split
  · exact hs
  · next u b o _ =>
    have h1 := Good.Repair_selfChecks ⟨s, d.folds⟩ c q u b (o + 4096 * d.granule) (s.replicaIndex c) d.failed hs
    dsimp only
    revert h1
    generalize Repair.selfChecks ⟨s, d.folds⟩ c q u b (o + 4096 * d.granule) (s.replicaIndex c) d.failed = r
    intro h1
    split
    · exact Good.State_raise _ _ _ _ _ _ _ h1
    · split
      · exact hs
      · split
        · refine Good.State_raise _ _ _ _ _ _ _ ?_
          split
          · exact h1
          · exact Good.Repair_take _ _ _ _ _ _ h1
        · have h2 : Good b0 (if q.p.parityOn.isSome then r.reconstruct c q u b (o + 4096 * d.granule) (s.replicaIndex c) else r).st := by
            split
            · exact Good.Repair_reconstruct _ _ _ _ _ _ _ h1
            · exact h1
          revert h2
          generalize (if q.p.parityOn.isSome then r.reconstruct c q u b (o + 4096 * d.granule) (s.replicaIndex c) else r) = z
          intro h2
          split
          · exact Good.State_raise _ _ _ _ _ _ _ h2
          · split
            · refine Good.State_raise _ _ _ _ _ _ _ (Good.State_drawn _ ?_)
              split
              · exact Good.Repair_take _ _ _ _ _ _ h2
              · exact h2
            · exact Good.State_onCtx _ _ _ (Good.State_raise _ _ _ _ _ _ _ (Good.State_drawn _ h2))

theorem Good.of_execDivergenceRepair {b0 : State} (ctx : Fin 64) (s : State)
    (hs : Good b0 s) :
    ∀ z, execDivergenceRepair ctx s = .next z → Good b0 z := by
  unfold execDivergenceRepair
  intro z hz
  injection hz with hz
  subst hz
  with_reducible repeat' first
      | assumption | intro _ | apply Good.of_onlyIf | apply Good.State_repairGranule | apply Good.State_endLocalise | apply Good.ite
      | apply Good.foldl | apply Good.foldl_fst | apply MGood.of_good | apply FGood.of_good
      | (refine Good.of_opt (o := _) ?_ (by assumption)) | (refine Good.of_opt1 (o := _) ?_ (by assumption)) | simp only [Good.mk_iff]
      | apply And.intro | dsimp only | split

theorem Good.State_repairRegion {b0 : State} (s : State) (c : Nat) (q : Plan) (u : Rec) (b off r : Nat)
    (hs : Good b0 s) :
    Good b0 (State.repairRegion s c q u b off r) := by
  unfold State.repairRegion
  with_reducible repeat' first
      | assumption | intro _ | apply Good.State_foldFailed | apply MGood.Mem_writeSpans | apply Good.State_drawn | apply Good.State_raise
      | apply Good.State_countCtx9 | apply Good.State_listRegions | apply Good.State_onFolds | apply Good.ite | apply Good.foldl
      | apply Good.foldl_fst | apply MGood.of_good | apply FGood.of_good | apply ByteGood.of | apply WcbGood.of | apply MGood.ite
      | apply MGood.foldl | apply MGood.foldl_fst | simp only [Good.mk_iff, MGood.mk_iff] | apply And.intro | dsimp only | split

theorem Good.of_execFoldSelfCheck {b0 : State} (ctx : Fin 64) (s : State)
    (hs : Good b0 s) :
    ∀ z, execFoldSelfCheck ctx s = .next z → Good b0 z := by
  unfold execFoldSelfCheck
  intro z hz
  injection hz with hz
  subst hz
  with_reducible repeat' first
      | assumption | intro _ | apply Good.of_onlyIf | apply Good.State_onFolds | apply Good.State_repairRegion | apply Good.ite
      | apply MGood.of_good | apply FGood.of_good | (refine Good.of_opt (o := _) ?_ (by assumption))
      | (refine Good.of_opt1 (o := _) ?_ (by assumption)) | simp only [Good.mk_iff] | apply And.intro | dsimp only | split

theorem Good.State_onMgmt {b0 : State} (s : State) (f : Mgmt → Mgmt)
    (hs : Good b0 s) :
    Good b0 (State.onMgmt s f) := by
  unfold State.onMgmt
  with_reducible repeat' first
      | assumption | intro _ | apply MGood.of_good | apply FGood.of_good | simp only [Good.mk_iff] | apply And.intro

theorem Good.of_execMgmtRegisterWrite {b0 : State} (offset : W16) (words : List W32) (tail : TransferEnd) (s : State)
    (hs : Good b0 s) :
    ∀ z, execMgmtRegisterWrite offset words tail s = .next z → Good b0 z := by
  unfold execMgmtRegisterWrite
  intro z hz
  injection hz with hz
  subst hz
  with_reducible repeat' first
      | assumption | intro _ | apply Good.of_onlyIf | apply Good.State_onMgmt | apply Good.State_emit | apply Good.ite | apply Good.foldl
      | apply Good.foldl_fst | apply MGood.of_good | apply FGood.of_good | simp only [Good.mk_iff] | apply And.intro | dsimp only | split

theorem Good.of_execAlertCauseClear {b0 : State} (mask : W32) (s : State)
    (hs : Good b0 s) :
    ∀ z, execAlertCauseClear mask s = .next z → Good b0 z := by
  unfold execAlertCauseClear
  intro z hz
  injection hz with hz
  subst hz
  with_reducible repeat' first
      | assumption | intro _ | apply Good.of_onlyIf | apply Good.State_onMgmt | apply Good.ite | apply MGood.of_good | apply FGood.of_good
      | apply FGood.ite | simp only [Good.mk_iff, FGood.mk_iff] | apply And.intro | dsimp only | split

theorem Good.of_execWarmReset {b0 : State} (s : State)
    (hs : Good b0 s) :
    ∀ z, execWarmReset s = .next z → Good b0 z := by
  unfold execWarmReset
  intro z hz
  injection hz with hz
  subst hz
  with_reducible repeat' first | assumption | intro _ | apply Good.of_onlyIf | apply Good.State_askReset | apply And.intro

theorem Good.of_execFullReset {b0 : State} (s : State)
    (hs : Good b0 s) :
    ∀ z, execFullReset s = .next z → Good b0 z := by
  unfold execFullReset
  intro z hz
  injection hz with hz
  subst hz
  with_reducible repeat' first
      | assumption | intro _ | apply Good.of_onlyIf | apply MGood.moduleReset | apply FGood.Boot_moduleReset | apply Good.State_moduleReset
      | apply And.intro

theorem Good.of_execResetNAssert {b0 : State} (s : State)
    (hs : Good b0 s) :
    ∀ z, execResetNAssert s = .next z → Good b0 z := by
  unfold execResetNAssert
  intro z hz
  injection hz with hz
  subst hz
  with_reducible repeat' first
      | assumption | intro _ | apply Good.of_onlyIf | apply Good.State_onMgmt | apply MGood.of_good | apply FGood.of_good
      | simp only [Good.mk_iff] | apply And.intro

theorem Good.of_execResetNRelease {b0 : State} (lowUs : Nat) (s : State)
    (hs : Good b0 s) :
    ∀ z, execResetNRelease lowUs s = .next z → Good b0 z := by
  unfold execResetNRelease
  intro z hz
  injection hz with hz
  subst hz
  with_reducible repeat' first
      | assumption | intro _ | apply Good.of_onlyIf | apply Good.State_onMgmt | apply Good.State_askReset | apply MGood.moduleReset
      | apply FGood.Boot_moduleReset | apply Good.State_moduleReset | apply Good.ite | apply MGood.of_good | apply FGood.of_good
      | simp only [Good.mk_iff] | apply And.intro | dsimp only | split

theorem Good.of_execErase {b0 : State} (slot : Fin 2) (s : State)
    (hs : Good b0 s) :
    ∀ z, execErase slot s = .next z → Good b0 z := by
  unfold execErase
  intro z hz
  injection hz with hz
  subst hz
  with_reducible repeat' first
      | assumption | intro _ | apply Good.of_onlyIf | apply FGood.Boot_setSlot | apply MGood.of_good | apply FGood.of_good
      | simp only [Good.mk_iff, FGood.mk_iff] | apply And.intro

theorem Good.of_execProgram {b0 : State} (slot : Fin 2) (unit : BitVec 18) (s : State)
    (hs : Good b0 s) :
    ∀ z, execProgram slot unit s = .next z → Good b0 z := by
  unfold execProgram
  intro z hz
  injection hz with hz
  subst hz
  with_reducible repeat' first
      | assumption | intro _ | apply Good.of_onlyIf | apply FGood.Boot_setSlot | apply MGood.write | apply Good.State_write
      | apply Good.State_onMgmt | apply Good.ite | apply MGood.of_good | apply FGood.of_good | apply FGood.ite
      | simp only [Good.mk_iff, FGood.mk_iff] | apply And.intro | split

theorem Good.of_execCheck {b0 : State} (slot : Fin 2) (sigOk : Bool) (s : State)
    (hs : Good b0 s) :
    ∀ z, execCheck slot sigOk s = .next z → Good b0 z := by
  unfold execCheck
  intro z hz
  injection hz with hz
  subst hz
  with_reducible repeat' first
      | assumption | intro _ | apply Good.of_onlyIf | apply Good.State_onMgmt | apply MGood.of_good | apply FGood.of_good
      | simp only [Good.mk_iff, FGood.mk_iff] | apply And.intro

theorem Good.of_execSetdasa {b0 : State} (addr : BitVec 7) (s : State)
    (hs : Good b0 s) :
    ∀ z, execSetdasa addr s = .next z → Good b0 z := by
  unfold execSetdasa
  intro z hz
  injection hz with hz
  subst hz
  with_reducible repeat' first
      | assumption | intro _ | apply Good.of_onlyIf | apply Good.State_onMgmt | apply MGood.of_good | apply FGood.of_good
      | simp only [Good.mk_iff] | apply And.intro

theorem Good.of_execEntdaa {b0 : State} (addr : BitVec 7) (s : State)
    (hs : Good b0 s) :
    ∀ z, execEntdaa addr s = .next z → Good b0 z := by
  unfold execEntdaa
  intro z hz
  injection hz with hz
  subst hz
  with_reducible repeat' first
      | assumption | intro _ | apply Good.of_onlyIf | apply Good.State_onMgmt | apply MGood.of_good | apply FGood.of_good
      | simp only [Good.mk_iff] | apply And.intro

theorem Good.of_execRstdaa {b0 : State} (s : State)
    (hs : Good b0 s) :
    ∀ z, execRstdaa s = .next z → Good b0 z := by
  unfold execRstdaa
  intro z hz
  injection hz with hz
  subst hz
  with_reducible repeat' first
      | assumption | intro _ | apply Good.of_onlyIf | apply Good.State_onMgmt | apply MGood.of_good | apply FGood.of_good
      | simp only [Good.mk_iff] | apply And.intro

theorem Good.of_execGetstatus {b0 : State} (s : State)
    (hs : Good b0 s) :
    ∀ z, execGetstatus s = .next z → Good b0 z := by
  unfold execGetstatus
  intro z hz
  injection hz with hz
  subst hz
  with_reducible repeat' first
      | assumption | intro _ | apply Good.of_onlyIf | apply Good.State_emit | apply Good.State_drawn | apply And.intro

theorem Good.of_execCounterRead {b0 : State} (h : KcpHdr) (block unit first count : W16) (s : State)
    (hs : Good b0 s) :
    ∀ z, execCounterRead h block unit first count s = .next z → Good b0 z := by
  unfold execCounterRead
  intro z hz
  injection hz with hz
  subst hz
  with_reducible repeat' first
      | assumption | intro _ | apply Good.KcpCmd_arrive | apply MGood.Mem_count | apply Good.of_done | apply Good.State_take
      | apply Good.Repair_take | apply Good.of_id | apply Good.ite | apply MGood.of_good | apply FGood.of_good | simp only [Good.mk_iff]
      | apply And.intro | dsimp only | split

theorem Good.State_latchTime {b0 : State} (s : State) (a n : Nat)
    (hs : Good b0 s) :
    Good b0 (State.latchTime s a n) := by
  unfold State.latchTime
  with_reducible repeat' first
      | assumption | intro _ | apply Good.ite | apply MGood.of_good | apply FGood.of_good | simp only [Good.mk_iff] | apply And.intro
      | split

theorem Good.of_execRegRead {b0 : State} (h : KcpHdr) (addr : W64) (words : W16) (silent : Bool) (s : State)
    (hs : Good b0 s) :
    ∀ z, execRegRead h addr words silent s = .next z → Good b0 z := by
  unfold execRegRead
  intro z hz
  injection hz with hz
  subst hz
  with_reducible repeat' first
      | assumption | intro _ | apply Good.KcpCmd_arrive | apply Good.State_latchTime | apply Good.of_done | apply Good.of_id
      | apply MGood.of_good | apply FGood.of_good | simp only [Good.mk_iff] | apply And.intro | dsimp only

theorem Good.State_clearPlace {b0 : State} (s : State) (p : RegPlace) (m : W32)
    (hs : Good b0 s) :
    Good b0 (State.clearPlace s p m) := by
  unfold State.clearPlace
  with_reducible repeat' first
      | assumption | intro _ | apply Good.State_onArray | apply Good.State_onPort | apply Good.State_onPower | apply Good.ite
      | apply MGood.of_good | apply FGood.of_good | (refine Good.of_opt (o := _) ?_ (by assumption))
      | (refine Good.of_opt1 (o := _) ?_ (by assumption)) | simp only [Good.mk_iff] | apply And.intro | split

theorem Good.State_clearReg {b0 : State} (s : State) (a : Nat) (m : W32)
    (hs : Good b0 s) :
    Good b0 (State.clearReg s a m) := by
  unfold State.clearReg
  with_reducible repeat' first | assumption | intro _ | apply Good.State_clearPlace | apply And.intro

theorem Good.of_execRegClear {b0 : State} (h : KcpHdr) (addr : W64) (mask : W32) (s : State)
    (hs : Good b0 s) :
    ∀ z, execRegClear h addr mask s = .next z → Good b0 z := by
  unfold execRegClear
  intro z hz
  injection hz with hz
  subst hz
  with_reducible repeat' first
      | assumption | intro _ | apply Good.KcpCmd_arrive | apply Good.of_done | apply Good.State_clearReg | apply Good.of_id
      | apply MGood.of_good | apply FGood.of_good | simp only [Good.mk_iff] | apply And.intro

theorem Good.of_execCaptureRead {b0 : State} (h : KcpHdr) (s : State)
    (hs : Good b0 s) :
    ∀ z, execCaptureRead h s = .next z → Good b0 z := by
  unfold execCaptureRead
  intro z hz
  injection hz with hz
  subst hz
  with_reducible repeat' first
      | assumption | intro _ | apply Good.KcpCmd_arrive | apply Good.of_done | apply Good.of_id | apply Good.map_getD | apply Good.getD
      | apply MGood.of_good | apply FGood.of_good | simp only [Good.mk_iff] | apply And.intro

theorem Good.of_execCaptureArm {b0 : State} (h : KcpHdr) (s : State)
    (hs : Good b0 s) :
    ∀ z, execCaptureArm h s = .next z → Good b0 z := by
  unfold execCaptureArm
  intro z hz
  injection hz with hz
  subst hz
  with_reducible repeat' first
      | assumption | intro _ | apply Good.KcpCmd_arrive | apply Good.of_done | apply Good.State_onCtx | apply Good.of_id
      | apply MGood.of_good | apply FGood.of_good | simp only [Good.mk_iff] | apply And.intro

theorem Good.of_execTableRead {b0 : State} (h : KcpHdr) (table count : W16) (first : W32) (s : State)
    (hs : Good b0 s) :
    ∀ z, execTableRead h table count first s = .next z → Good b0 z := by
  unfold execTableRead
  intro z hz
  injection hz with hz
  subst hz
  with_reducible repeat' first
      | assumption | intro _ | apply Good.KcpCmd_arrive | apply MGood.Mem_count | apply Good.of_done | apply Good.of_id
      | apply MGood.of_good | apply FGood.of_good | simp only [Good.mk_iff] | apply And.intro | dsimp only

theorem Good.of_execIdleRead {b0 : State} (h : KcpHdr) (s : State)
    (hs : Good b0 s) :
    ∀ z, execIdleRead h s = .next z → Good b0 z := by
  unfold execIdleRead
  intro z hz
  injection hz with hz
  subst hz
  with_reducible repeat' first
      | assumption | intro _ | apply Good.KcpCmd_arrive | apply Good.of_done | apply Good.of_id | apply MGood.of_good | apply FGood.of_good
      | simp only [Good.mk_iff] | apply And.intro

theorem Good.of_execIdleClear {b0 : State} (h : KcpHdr) (mask : W16) (s : State)
    (hs : Good b0 s) :
    ∀ z, execIdleClear h mask s = .next z → Good b0 z := by
  unfold execIdleClear
  intro z hz
  injection hz with hz
  subst hz
  with_reducible repeat' first
      | assumption | intro _ | apply Good.KcpCmd_arrive | apply Good.of_done | apply Good.State_onCtx | apply Good.of_id
      | apply MGood.of_good | apply FGood.of_good | simp only [Good.mk_iff] | apply And.intro

theorem Good.State_saturateIdle {b0 : State} (s : State) (c cause : Nat)
    (hs : Good b0 s) :
    Good b0 (State.saturateIdle s c cause) := by
  unfold State.saturateIdle
  with_reducible repeat' first
      | assumption | intro _ | apply Good.State_onCtx | apply Good.State_raise | apply MGood.of_good | apply FGood.of_good
      | simp only [Good.mk_iff] | apply And.intro

theorem Good.of_execIdleSaturated {b0 : State} (ctx : Fin 64) (cause : Fin 12) (s : State)
    (hs : Good b0 s) :
    ∀ z, execIdleSaturated ctx cause s = .next z → Good b0 z := by
  unfold execIdleSaturated
  intro z hz
  injection hz with hz
  subst hz
  with_reducible repeat' first | assumption | intro _ | apply Good.of_onlyIf | apply Good.State_saturateIdle | apply And.intro

theorem Good.State_flushParity {b0 : State} (s : State) (c : Nat)
    (hs : Good b0 s) :
    Good b0 (State.flushParity s c) := by
  unfold State.flushParity
  with_reducible repeat' first
      | assumption | intro _ | apply Good.State_onCtx | apply Good.State_ackBlocks | apply Good.State_pumpParity
      | apply Good.State_parityFrames | apply Good.ite | apply Good.foldl | apply Good.foldl_fst | apply MGood.of_good
      | apply FGood.of_good | (refine Good.of_opt (o := _) ?_ (by assumption)) | (refine Good.of_opt1 (o := _) ?_ (by assumption))
      | simp only [Good.mk_iff] | apply And.intro | dsimp only | split

theorem Good.of_execRecoverBegin {b0 : State} (h : KcpHdr) (s : State)
    (hs : Good b0 s) :
    ∀ z, execRecoverBegin h s = .next z → Good b0 z := by
  unfold execRecoverBegin
  intro z hz
  injection hz with hz
  subst hz
  with_reducible repeat' first
      | assumption | intro _ | apply Good.KcpCmd_arrive | apply Good.State_onCtx | apply Good.of_accepted | apply Good.State_purge
      | apply Good.State_flushParity | apply Good.of_id | apply MGood.of_good | apply FGood.of_good | simp only [Good.mk_iff]
      | apply And.intro | dsimp only

theorem Good.of_execRecoverReady {b0 : State} (ctx : Fin 64) (s : State)
    (hs : Good b0 s) :
    ∀ z, execRecoverReady ctx s = .next z → Good b0 z := by
  unfold execRecoverReady
  intro z hz
  injection hz with hz
  subst hz
  with_reducible repeat' first
      | assumption | intro _ | apply Good.of_onlyIf | apply Good.State_onCtx | apply Good.State_notify | apply MGood.of_good
      | apply FGood.of_good | (refine Good.of_opt (o := _) ?_ (by assumption)) | (refine Good.of_opt1 (o := _) ?_ (by assumption))
      | simp only [Good.mk_iff] | apply And.intro | dsimp only | split

theorem Good.State_restorePoison {b0 : State} (s : State) (a n : Nat)
    (hs : Good b0 s) :
    Good b0 (State.restorePoison s a n) := by
  unfold State.restorePoison
  with_reducible repeat' first
      | assumption | intro _ | apply MGood.write | apply Good.State_write | apply Good.State_drawn | apply Good.ite | apply Good.foldl
      | apply Good.foldl_fst | apply Good.map_getD | apply Good.getD | apply MGood.of_good | apply FGood.of_good | apply ByteGood.of
      | apply WcbGood.of | apply MGood.ite | apply MGood.foldl | apply MGood.foldl_fst | simp only [Good.mk_iff, MGood.mk_iff]
      | apply And.intro | dsimp only | split

theorem Good.State_recoverPoint {b0 : State} (s : State) (c : Nat) (q : Plan) (r : Nat)
    (hs : Good b0 s) :
    Good b0 (State.recoverPoint s c q r) := by
  unfold State.recoverPoint
  with_reducible repeat' first
      | assumption | intro _ | apply Good.State_restorePoison | apply Good.State_onCtx | apply Good.State_emitBlock
      | apply Good.State_countCtx9 | apply Good.State_purge | apply Good.ite | apply Good.foldl | apply Good.foldl_fst
      | apply MGood.of_good | apply FGood.of_good | (refine Good.of_opt (o := _) ?_ (by assumption))
      | (refine Good.of_opt1 (o := _) ?_ (by assumption)) | simp only [Good.mk_iff] | apply And.intro | dsimp only | split

theorem Good.of_execRecoverPoint {b0 : State} (h : KcpHdr) (point : W64) (s : State)
    (hs : Good b0 s) :
    ∀ z, execRecoverPoint h point s = .next z → Good b0 z := by
  unfold execRecoverPoint
  intro z hz
  injection hz with hz
  subst hz
  with_reducible repeat' first
      | assumption | intro _ | apply Good.KcpCmd_arrive | apply Good.of_done | apply Good.State_recoverPoint | apply Good.of_id
      | apply Good.elim | apply MGood.of_good | apply FGood.of_good | (refine Good.of_opt (o := _) ?_ (by assumption))
      | (refine Good.of_opt1 (o := _) ?_ (by assumption)) | simp only [Good.mk_iff] | apply And.intro | dsimp only | split

theorem Good.of_execRecoverLoad {b0 : State} (h : KcpHdr) (dir : W64) (entries : W16) (point : W64) (flags : W32) (s : State)
    (hs : Good b0 s) :
    ∀ z, execRecoverLoad h dir entries point flags s = .next z → Good b0 z := by
  unfold execRecoverLoad
  intro z hz
  injection hz with hz
  subst hz
  with_reducible repeat' first
      | assumption | intro _ | apply Good.KcpCmd_arrive | apply Good.of_accepted | apply Good.State_onCtx | apply Good.of_id
      | apply MGood.of_good | apply FGood.of_good | simp only [Good.mk_iff] | apply And.intro

theorem Good.State_recoverFactors {b0 : State} (s : State) (q : Plan) (r : Nat)
    (hs : Good b0 s) :
    Good b0 (State.recoverFactors s q r) := by
  unfold State.recoverFactors
  with_reducible repeat' first
      | assumption | intro _ | apply Good.State_peerStorage | apply MGood.Mem_initFactors | apply MGood.Mem_putHead | apply Good.ite
      | apply Good.foldl | apply Good.foldl_fst | apply MGood.of_good | apply FGood.of_good | apply ByteGood.of | apply WcbGood.of
      | apply MGood.ite | apply MGood.foldl | apply MGood.foldl_fst | simp only [Good.mk_iff, MGood.mk_iff] | apply And.intro | dsimp only
      | split

theorem Good.State_setRebuilt {b0 : State} (s : State) (c : Nat) (u : Rec) (b r k : Nat)
    (hs : Good b0 s) :
    Good b0 (State.setRebuilt s c u b r k) := by
  unfold State.setRebuilt
  with_reducible repeat' first
      | assumption | intro _ | apply Good.State_setBlock | apply Good.State_onCtx | apply Good.State_countCtx9 | apply Good.map_getD
      | apply Good.getD | apply MGood.of_good | apply FGood.of_good | (refine Good.of_opt (o := _) ?_ (by assumption))
      | (refine Good.of_opt1 (o := _) ?_ (by assumption)) | simp only [Good.mk_iff] | apply And.intro | dsimp only | split

theorem Good.State_settleRebuilt {b0 : State} (s : State) (c : Nat) (q : Plan)
    (hs : Good b0 s) :
    Good b0 (State.settleRebuilt s c q) := by
  unfold State.settleRebuilt
  with_reducible repeat' first
      | assumption | intro _ | apply MGood.Mem_count | apply Good.State_onCtx | apply Good.ite | apply Good.foldl | apply Good.foldl_fst
      | apply MGood.of_good | apply FGood.of_good | (refine Good.of_opt (o := _) ?_ (by assumption))
      | (refine Good.of_opt1 (o := _) ?_ (by assumption)) | simp only [Good.mk_iff] | apply And.intro | dsimp only | split

theorem Good.State_finishRecovery {b0 : State} (s : State) (c : Nat) (q : Plan) (l : LoadReq)
    (hs : Good b0 s) :
    Good b0 (State.finishRecovery s c q l) := by
  unfold State.finishRecovery
  with_reducible repeat' first
      | assumption | intro _ | apply Good.State_recoverFactors | apply Good.State_onCtx | apply MGood.Mem_count
      | apply Good.State_scheduleDue | apply Good.State_setRebuilt | apply Good.State_drawn | apply Good.State_settleRebuilt
      | apply Good.ite | apply Good.foldl | apply Good.foldl_fst | apply MGood.of_good | apply FGood.of_good | apply ByteGood.of
      | apply WcbGood.of | apply MGood.ite | apply MGood.foldl | apply MGood.foldl_fst | (refine Good.of_opt (o := _) ?_ (by assumption))
      | (refine Good.of_opt1 (o := _) ?_ (by assumption)) | (refine MGood.of_opt1 (o := _) ?_ (by assumption))
      | simp only [Good.mk_iff, MGood.mk_iff] | apply And.intro | dsimp only | split

theorem Good.State_loadDone {b0 : State} (s : State) (c : Nat) (l : LoadReq) (hs : Good b0 s) : Good b0 (s.loadDone c l) := by
  unfold State.loadDone
  have ht := Good.State_tryLoad s c l.dir l.entries l.recover hs
  dsimp only
  split
  · exact Good.State_reportLoad _ _ _ _ _ (Good.State_endLoad _ _ _ hs)
  · next t q h =>
    have h1 := ht.of _ h
    refine Good.State_reportLoad _ _ _ _ _ (Good.State_announceLayout _ ?_)
    split
    · exact Good.State_finishRecovery _ _ _ _ h1
    · exact Good.State_refoldAll _ _ _ (Good.State_emitAll _ _ _ _ h1)

theorem Good.of_execLoadDone {b0 : State} (ctx : Fin 64) (s : State)
    (hs : Good b0 s) :
    ∀ z, execLoadDone ctx s = .next z → Good b0 z := by
  unfold execLoadDone
  intro z hz
  injection hz with hz
  subst hz
  with_reducible repeat' first
      | assumption | intro _ | apply Good.of_whenReady | apply Good.State_loadDone | apply Good.ite | apply And.intro | split

theorem Good.State_rebuildEnd {b0 : State} (s : State) (c : Nat) (q : Plan)
    (hs : Good b0 s) :
    Good b0 (State.rebuildEnd s c q) := by
  unfold State.rebuildEnd
  with_reducible repeat' first
      | assumption | intro _ | apply Good.State_raise | apply Good.State_onCtx | apply Good.ite | apply MGood.of_good | apply FGood.of_good
      | simp only [Good.mk_iff] | apply And.intro | dsimp only | split

theorem Good.State_rebuildBlock {b0 : State} (s : State) (c : Nat) (q : Plan) (r : Rec) (i : Nat) (u : Rec) (b : Nat)
    (hs : Good b0 s) :
    Good b0 (State.rebuildBlock s c q r i u b) := by
  unfold State.rebuildBlock
  with_reducible repeat' first
      | assumption | intro _ | apply MGood.Mem_writeSpans | apply Good.State_refold | apply Good.State_countCtx9
      | apply Good.State_setRebuilt | apply Good.State_onCtx | apply Good.State_drawn | apply Good.State_settleRebuilt
      | apply Good.State_tryFence | apply Good.State_rebuildEnd | apply MGood.of_good | apply FGood.of_good | apply ByteGood.of
      | apply WcbGood.of | simp only [Good.mk_iff, MGood.mk_iff] | apply And.intro | dsimp only

theorem Good.State_rebuildSlot {b0 : State} (s : State) (c : Nat) (q : Plan) (r : Rec) (k : Nat)
    (hs : Good b0 s) :
    Good b0 (State.rebuildSlot s c q r k) := by
  unfold State.rebuildSlot
  with_reducible repeat' first
      | assumption | intro _ | apply MGood.write | apply Good.State_write | apply Good.State_countCtx9 | apply Good.State_onCtx
      | apply Good.State_drawn | apply Good.State_rebuildEnd | apply Good.foldl | apply Good.foldl_fst | apply MGood.of_good
      | apply FGood.of_good | simp only [Good.mk_iff] | apply And.intro | dsimp only

theorem Good.of_execRebuildBlock {b0 : State} (ctx : Fin 64) (block : Nat) (s : State)
    (hs : Good b0 s) :
    ∀ z, execRebuildBlock ctx block s = .next z → Good b0 z := by
  unfold execRebuildBlock
  intro z hz
  injection hz with hz
  subst hz
  with_reducible repeat' first
      | assumption | intro _ | apply Good.State_rebuildBlock | apply Good.State_rebuildSlot | apply Good.ite | apply MGood.of_good
      | apply FGood.of_good | (refine Good.of_opt (o := _) ?_ (by assumption)) | (refine Good.of_opt1 (o := _) ?_ (by assumption))
      | simp only [Good.mk_iff] | apply And.intro | dsimp only | split

theorem Good.of_execRebuildQuery {b0 : State} (h : KcpHdr) (s : State)
    (hs : Good b0 s) :
    ∀ z, execRebuildQuery h s = .next z → Good b0 z := by
  unfold execRebuildQuery
  intro z hz
  injection hz with hz
  subst hz
  with_reducible repeat' first
      | assumption | intro _ | apply Good.KcpCmd_arrive | apply Good.of_done | apply Good.of_id | apply MGood.of_good | apply FGood.of_good
      | simp only [Good.mk_iff] | apply And.intro | dsimp only

theorem Good.of_execDigestRead {b0 : State} (h : KcpHdr) (label : W64) (s : State)
    (hs : Good b0 s) :
    ∀ z, execDigestRead h label s = .next z → Good b0 z := by
  unfold execDigestRead
  intro z hz
  injection hz with hz
  subst hz
  with_reducible repeat' first
      | assumption | intro _ | apply Good.KcpCmd_arrive | apply Good.of_done | apply Good.of_id | apply MGood.of_good | apply FGood.of_good
      | (refine Good.of_opt (o := _) ?_ (by assumption)) | (refine Good.of_opt1 (o := _) ?_ (by assumption)) | simp only [Good.mk_iff]
      | apply And.intro | dsimp only | split

theorem Good.of_execDivergenceRead {b0 : State} (h : KcpHdr) (s : State)
    (hs : Good b0 s) :
    ∀ z, execDivergenceRead h s = .next z → Good b0 z := by
  unfold execDivergenceRead
  intro z hz
  injection hz with hz
  subst hz
  with_reducible repeat' first
      | assumption | intro _ | apply Good.KcpCmd_arrive | apply Good.of_done | apply Good.State_drawn | apply Good.of_id
      | apply MGood.of_good | apply FGood.of_good | (refine Good.of_opt (o := _) ?_ (by assumption))
      | (refine Good.of_opt1 (o := _) ?_ (by assumption)) | simp only [Good.mk_iff] | apply And.intro | dsimp only | split

theorem Good.State_restoreShard {b0 : State} (s : State) (c : Nat) (q : Plan) (t : Shard)
    (hs : Good b0 s) :
    Good b0 (State.restoreShard s c q t) := by
  unfold State.restoreShard
  with_reducible repeat' first
      | assumption | intro _ | apply MGood.Mem_writeSpans | apply Good.State_refold | apply Good.ite | apply Good.foldl
      | apply Good.foldl_fst | apply MGood.of_good | apply FGood.of_good | apply ByteGood.of | apply WcbGood.of | apply MGood.ite
      | apply MGood.foldl | apply MGood.foldl_fst | (refine Good.of_opt (o := _) ?_ (by assumption))
      | (refine Good.of_opt1 (o := _) ?_ (by assumption)) | (refine MGood.of_opt1 (o := _) ?_ (by assumption))
      | simp only [Good.mk_iff, MGood.mk_iff] | apply And.intro | dsimp only | split

theorem Good.State_undoUpdates {b0 : State} (s : State) (c : Nat)
    (hs : Good b0 s) :
    Good b0 (State.undoUpdates s c) := by
  unfold State.undoUpdates
  with_reducible repeat' first
      | assumption | intro _ | apply Good.State_restoreShard | apply Good.State_onCtx | apply Good.foldl | apply Good.foldl_fst
      | apply MGood.of_good | apply FGood.of_good | (refine Good.of_opt (o := _) ?_ (by assumption))
      | (refine Good.of_opt1 (o := _) ?_ (by assumption)) | simp only [Good.mk_iff] | apply And.intro | dsimp only | split

theorem Good.State_stopRefreshes {b0 : State} (s : State) (c : Nat)
    (hs : Good b0 s) :
    Good b0 (State.stopRefreshes s c) := by
  unfold State.stopRefreshes
  with_reducible repeat' first
      | assumption | intro _ | apply MGood.Mem_invalidate | apply Good.State_onCtx | apply Good.foldl | apply Good.foldl_fst
      | apply MGood.of_good | apply FGood.of_good | apply ByteGood.of | apply WcbGood.of | apply MGood.foldl | apply MGood.foldl_fst
      | (refine Good.of_opt (o := _) ?_ (by assumption)) | (refine Good.of_opt1 (o := _) ?_ (by assumption))
      | (refine MGood.of_opt1 (o := _) ?_ (by assumption)) | simp only [Good.mk_iff, MGood.mk_iff] | apply And.intro | dsimp only | split

theorem Good.State_endPurge {b0 : State} (s : State) (c : Nat) (p : Purge)
    (hs : Good b0 s) :
    Good b0 (State.endPurge s c p) := by
  unfold State.endPurge
  with_reducible repeat' first
      | assumption | intro _ | apply Good.State_stopRefreshes | apply Good.State_removeWork | apply Good.State_stopSolves
      | apply Good.State_undoUpdates | apply Good.State_onCtx | apply Good.State_purge | apply Good.State_countFault
      | apply Good.State_raise | apply MGood.of_good | apply FGood.of_good | simp only [Good.mk_iff] | apply And.intro | dsimp only

theorem Good.of_execContextPurged {b0 : State} (ctx : Fin 64) (s : State)
    (hs : Good b0 s) :
    ∀ z, execContextPurged ctx s = .next z → Good b0 z := by
  unfold execContextPurged
  intro z hz
  injection hz with hz
  subst hz
  with_reducible repeat' first
      | assumption | intro _ | apply Good.of_onlyIf | apply Good.of_whenReady | apply Good.State_purge | apply Good.State_endPurge
      | apply Good.ite | apply MGood.of_good | apply FGood.of_good | simp only [Good.mk_iff] | apply And.intro | dsimp only | split

theorem Good.State_purgeTimeout {b0 : State} (s : State) (c : Nat) (p : Purge) (e : Engine) (late : Bool)
    (hs : Good b0 s) :
    Good b0 (State.purgeTimeout s c p e late) := by
  unfold State.purgeTimeout
  with_reducible repeat' first
      | assumption | intro _ | apply Good.State_raise | apply Good.State_onCtx | apply Good.State_purge | apply Good.State_askEngineReset
      | apply Good.ite | apply MGood.of_good | apply FGood.of_good | simp only [Good.mk_iff] | apply And.intro | dsimp only | split

theorem Good.of_execPurgeUnitTimeout {b0 : State} (ctx : Fin 64) (unit : Engine) (confirmLate : Bool) (s : State)
    (hs : Good b0 s) :
    ∀ z, execPurgeUnitTimeout ctx unit confirmLate s = .next z → Good b0 z := by
  unfold execPurgeUnitTimeout
  intro z hz
  injection hz with hz
  subst hz
  with_reducible repeat' first
      | assumption | intro _ | apply Good.of_onlyIf | apply Good.of_whenReady | apply Good.State_purge | apply Good.State_purgeTimeout
      | apply MGood.of_good | apply FGood.of_good | simp only [Good.mk_iff] | apply And.intro | dsimp only

theorem Good.State_restartSweep {b0 : State} (s : State) (n : Nat)
    (hs : Good b0 s) :
    Good b0 (State.restartSweep s n) := by
  unfold State.restartSweep
  with_reducible repeat' first
      | assumption | intro _ | apply Good.State_setFuu | apply Good.State_setBlock | apply Good.ite | apply MGood.of_good
      | apply FGood.of_good | (refine Good.of_opt (o := _) ?_ (by assumption)) | (refine Good.of_opt1 (o := _) ?_ (by assumption))
      | simp only [Good.mk_iff] | apply And.intro | dsimp only | split

theorem Good.State_resendSegments {b0 : State} (s : State) (d : Nat)
    (hs : Good b0 s) :
    Good b0 (State.resendSegments s d) := by
  unfold State.resendSegments
  with_reducible repeat' first
      | assumption | intro _ | apply Good.State_resend | apply Good.ite | apply Good.foldl | apply Good.foldl_fst | apply MGood.of_good
      | apply FGood.of_good | (refine Good.of_opt (o := _) ?_ (by assumption)) | (refine Good.of_opt1 (o := _) ?_ (by assumption))
      | simp only [Good.mk_iff] | apply And.intro | split

theorem Good.State_reissue {b0 : State} (s : State) (e : Engine)
    (hs : Good b0 s) :
    Good b0 (State.reissue s e) := by
  unfold State.reissue
  with_reducible repeat' first
      | assumption | intro _ | apply Good.State_withdraw | apply Good.State_onArray | apply Good.State_setRte
      | apply Good.State_restartSweep | apply Good.State_resendSegments | apply MGood.of_good | apply FGood.of_good | apply ByteGood.of
      | apply WcbGood.of | (refine Good.of_opt (o := _) ?_ (by assumption)) | (refine Good.of_opt1 (o := _) ?_ (by assumption))
      | (refine MGood.of_opt1 (o := _) ?_ (by assumption)) | simp only [Good.mk_iff, MGood.mk_iff] | apply And.intro | split

theorem Good.State_failReset {b0 : State} (s : State) (e : Engine)
    (hs : Good b0 s) :
    Good b0 (State.failReset s e) := by
  unfold State.failReset
  with_reducible repeat' first
      | assumption | intro _ | apply Good.State_katFailed | apply Good.State_retireArray | apply Good.State_rteFault
      | apply Good.State_startDieReset | apply MGood.of_good | apply FGood.of_good | (refine Good.of_opt (o := _) ?_ (by assumption))
      | (refine Good.of_opt1 (o := _) ?_ (by assumption)) | simp only [Good.mk_iff] | apply And.intro | split

theorem Good.of_execEngineReset {b0 : State} (unit : Engine) (testPassed : Bool) (durationUs : Nat) (s : State)
    (hs : Good b0 s) :
    ∀ z, execEngineReset unit testPassed durationUs s = .next z → Good b0 z := by
  unfold execEngineReset
  intro z hz
  injection hz with hz
  subst hz
  with_reducible repeat' first
      | assumption | intro _ | apply Good.of_onlyIf | apply Good.State_countFault | apply Good.State_raise | apply Good.State_reissue
      | apply Good.State_failReset | apply Good.ite | apply MGood.of_good | apply FGood.of_good | simp only [Good.mk_iff] | apply And.intro
      | dsimp only | split

theorem Good.State_unhold {b0 : State} (s : State) (slot : Nat) (q : W32)
    (hs : Good b0 s) :
    Good b0 (State.unhold s slot q) := by
  unfold State.unhold
  with_reducible repeat' first
      | assumption | intro _ | apply Good.State_setSession | apply MGood.of_good | apply FGood.of_good
      | (refine Good.of_opt (o := _) ?_ (by assumption)) | (refine Good.of_opt1 (o := _) ?_ (by assumption)) | simp only [Good.mk_iff]
      | apply And.intro | split

theorem MGood.Mem_holdTick {b0 : Mem} (m : Mem)
    (hm : MGood b0 m) :
    MGood b0 (Mem.holdTick m) := by
  unfold Mem.holdTick
  with_reducible repeat' first
      | assumption | intro _ | apply MGood.Mem_count | apply ByteGood.of | apply WcbGood.of | apply MGood.ite | apply MGood.foldl
      | apply MGood.foldl_fst | apply And.intro | split

theorem Good.State_countIdle {b0 : State} (s : State) (c k : Nat)
    (hs : Good b0 s) :
    Good b0 (State.countIdle s c k) := by
  unfold State.countIdle
  with_reducible repeat' first
      | assumption | intro _ | apply Good.State_saturateIdle | apply Good.State_onCtx | apply Good.ite | apply MGood.of_good
      | apply FGood.of_good | simp only [Good.mk_iff] | apply And.intro | dsimp only | split

theorem Good.State_tickArray {b0 : State} (s : State) (cyc : Nat) (a : Fin 192)
    (hs : Good b0 s) :
    Good b0 (State.tickArray s cyc a) := by
  unfold State.tickArray
  with_reducible repeat' first
      | assumption | intro _ | apply Good.State_countArray | apply Good.State_countVxu | apply Good.ite | apply MGood.of_good
      | apply FGood.of_good | apply ByteGood.of | apply WcbGood.of | apply MGood.ite | simp only [Good.mk_iff, MGood.mk_iff]
      | apply And.intro | dsimp only | split

theorem Good.State_tickDie {b0 : State} (s : State) (cyc : Nat) (n : Nat)
    (hs : Good b0 s) :
    Good b0 (State.tickDie s cyc n) := by
  unfold State.tickDie
  with_reducible repeat' first
      | assumption | intro _ | apply Good.State_setRte | apply MGood.Mem_count | apply Good.State_setFuu | apply Good.ite
      | apply MGood.of_good | apply FGood.of_good | simp only [Good.mk_iff] | apply And.intro | dsimp only | split

theorem Good.State_tickCycles {b0 : State} (s : State)
    (hs : Good b0 s) :
    Good b0 (State.tickCycles s) := by
  unfold State.tickCycles
  with_reducible repeat' first
      | assumption | intro _ | apply Good.State_tickDie | apply Good.State_tickArray | apply Good.State_countCtx | apply Good.ite
      | apply Good.foldl | apply Good.foldl_fst | apply MGood.of_good | apply FGood.of_good | simp only [Good.mk_iff] | apply And.intro
      | dsimp only | split

theorem Good.State_tick {b0 : State} (s : State)
    (hs : Good b0 s) :
    Good b0 (State.tick s) := by
  unfold State.tick
  with_reducible repeat' first
      | assumption | intro _ | apply Good.State_tickTime | apply MGood.Mem_holdTick | apply MGood.ageEntries | apply Good.State_scheduleDue
      | apply Good.State_handleLost | apply Good.State_tickCycles | apply Good.State_countIdle | apply Good.State_drawn | apply Good.ite
      | apply Good.foldl | apply Good.foldl_fst | apply MGood.of_good | apply FGood.of_good | apply ByteGood.of | apply WcbGood.of
      | apply MGood.ite | apply MGood.foldl | apply MGood.foldl_fst | simp only [Good.mk_iff, MGood.mk_iff] | apply And.intro | dsimp only
      | split

end Sys2Proof.Machine
end

