-- ==== Sys2Proof/Laws/State.lean ====
section
/-!
SUPPORT. One lemma per field of State per named update, true by rfl, so that no proof unfolds a record update; and what reading an
entry of a table gives after an update of one.
-/
namespace Sys2Proof.Machine

open Sys2Proof

/-! ### setCtx -/

@[simp] theorem State.setCtx_pending (s : State) (c : Nat) (x : Ctx) : (s.setCtx c x).pending = s.pending := rfl
@[simp] theorem State.setCtx_free (s : State) (c : Nat) (x : Ctx) : (s.setCtx c x).free = s.free := rfl
@[simp] theorem State.setCtx_out (s : State) (c : Nat) (x : Ctx) : (s.setCtx c x).out = s.out := rfl
@[simp] theorem State.setCtx_kcp (s : State) (c : Nat) (x : Ctx) : (s.setCtx c x).kcp = s.kcp := rfl
@[simp] theorem State.setCtx_ctxs (s : State) (c : Nat) (x : Ctx) : (s.setCtx c x).ctxs = Tab.put s.ctxs c x := rfl
@[simp] theorem State.setCtx_fences (s : State) (c : Nat) (x : Ctx) : (s.setCtx c x).fences = s.fences := rfl
@[simp] theorem State.setCtx_arrays (s : State) (c : Nat) (x : Ctx) : (s.setCtx c x).arrays = s.arrays := rfl
@[simp] theorem State.setCtx_mem (s : State) (c : Nat) (x : Ctx) : (s.setCtx c x).mem = s.mem := rfl
@[simp] theorem State.setCtx_fabric (s : State) (c : Nat) (x : Ctx) : (s.setCtx c x).fabric = s.fabric := rfl
@[simp] theorem State.setCtx_rtes (s : State) (c : Nat) (x : Ctx) : (s.setCtx c x).rtes = s.rtes := rfl
@[simp] theorem State.setCtx_structs (s : State) (c : Nat) (x : Ctx) : (s.setCtx c x).structs = s.structs := rfl
@[simp] theorem State.setCtx_fuus (s : State) (c : Nat) (x : Ctx) : (s.setCtx c x).fuus = s.fuus := rfl
@[simp] theorem State.setCtx_lnt (s : State) (c : Nat) (x : Ctx) : (s.setCtx c x).lnt = s.lnt := rfl
@[simp] theorem State.setCtx_faults (s : State) (c : Nat) (x : Ctx) : (s.setCtx c x).faults = s.faults := rfl
@[simp] theorem State.setCtx_power (s : State) (c : Nat) (x : Ctx) : (s.setCtx c x).power = s.power := rfl
@[simp] theorem State.setCtx_boot (s : State) (c : Nat) (x : Ctx) : (s.setCtx c x).boot = s.boot := rfl
@[simp] theorem State.setCtx_mgmt (s : State) (c : Nat) (x : Ctx) : (s.setCtx c x).mgmt = s.mgmt := rfl

/-! ### onCtx -/

@[simp] theorem State.onCtx_pending (s : State) (c : Nat) (f : Ctx → Ctx) : (s.onCtx c f).pending = s.pending := rfl
@[simp] theorem State.onCtx_free (s : State) (c : Nat) (f : Ctx → Ctx) : (s.onCtx c f).free = s.free := rfl
@[simp] theorem State.onCtx_out (s : State) (c : Nat) (f : Ctx → Ctx) : (s.onCtx c f).out = s.out := rfl
@[simp] theorem State.onCtx_kcp (s : State) (c : Nat) (f : Ctx → Ctx) : (s.onCtx c f).kcp = s.kcp := rfl
@[simp] theorem State.onCtx_ctxs (s : State) (c : Nat) (f : Ctx → Ctx) : (s.onCtx c f).ctxs = Tab.put s.ctxs c (f (s.ctx c)) := rfl
@[simp] theorem State.onCtx_fences (s : State) (c : Nat) (f : Ctx → Ctx) : (s.onCtx c f).fences = s.fences := rfl
@[simp] theorem State.onCtx_arrays (s : State) (c : Nat) (f : Ctx → Ctx) : (s.onCtx c f).arrays = s.arrays := rfl
@[simp] theorem State.onCtx_mem (s : State) (c : Nat) (f : Ctx → Ctx) : (s.onCtx c f).mem = s.mem := rfl
@[simp] theorem State.onCtx_fabric (s : State) (c : Nat) (f : Ctx → Ctx) : (s.onCtx c f).fabric = s.fabric := rfl
@[simp] theorem State.onCtx_rtes (s : State) (c : Nat) (f : Ctx → Ctx) : (s.onCtx c f).rtes = s.rtes := rfl
@[simp] theorem State.onCtx_structs (s : State) (c : Nat) (f : Ctx → Ctx) : (s.onCtx c f).structs = s.structs := rfl
@[simp] theorem State.onCtx_fuus (s : State) (c : Nat) (f : Ctx → Ctx) : (s.onCtx c f).fuus = s.fuus := rfl
@[simp] theorem State.onCtx_lnt (s : State) (c : Nat) (f : Ctx → Ctx) : (s.onCtx c f).lnt = s.lnt := rfl
@[simp] theorem State.onCtx_faults (s : State) (c : Nat) (f : Ctx → Ctx) : (s.onCtx c f).faults = s.faults := rfl
@[simp] theorem State.onCtx_power (s : State) (c : Nat) (f : Ctx → Ctx) : (s.onCtx c f).power = s.power := rfl
@[simp] theorem State.onCtx_boot (s : State) (c : Nat) (f : Ctx → Ctx) : (s.onCtx c f).boot = s.boot := rfl
@[simp] theorem State.onCtx_mgmt (s : State) (c : Nat) (f : Ctx → Ctx) : (s.onCtx c f).mgmt = s.mgmt := rfl

/-! ### setArray -/

@[simp] theorem State.setArray_pending (s : State) (n : Nat) (x : ArrayUnit) : (s.setArray n x).pending = s.pending := rfl
@[simp] theorem State.setArray_free (s : State) (n : Nat) (x : ArrayUnit) : (s.setArray n x).free = s.free := rfl
@[simp] theorem State.setArray_out (s : State) (n : Nat) (x : ArrayUnit) : (s.setArray n x).out = s.out := rfl
@[simp] theorem State.setArray_kcp (s : State) (n : Nat) (x : ArrayUnit) : (s.setArray n x).kcp = s.kcp := rfl
@[simp] theorem State.setArray_ctxs (s : State) (n : Nat) (x : ArrayUnit) : (s.setArray n x).ctxs = s.ctxs := rfl
@[simp] theorem State.setArray_fences (s : State) (n : Nat) (x : ArrayUnit) : (s.setArray n x).fences = s.fences := rfl
@[simp] theorem State.setArray_arrays (s : State) (n : Nat) (x : ArrayUnit) : (s.setArray n x).arrays = Tab.put s.arrays n x := rfl
@[simp] theorem State.setArray_mem (s : State) (n : Nat) (x : ArrayUnit) : (s.setArray n x).mem = s.mem := rfl
@[simp] theorem State.setArray_fabric (s : State) (n : Nat) (x : ArrayUnit) : (s.setArray n x).fabric = s.fabric := rfl
@[simp] theorem State.setArray_rtes (s : State) (n : Nat) (x : ArrayUnit) : (s.setArray n x).rtes = s.rtes := rfl
@[simp] theorem State.setArray_structs (s : State) (n : Nat) (x : ArrayUnit) : (s.setArray n x).structs = s.structs := rfl
@[simp] theorem State.setArray_fuus (s : State) (n : Nat) (x : ArrayUnit) : (s.setArray n x).fuus = s.fuus := rfl
@[simp] theorem State.setArray_lnt (s : State) (n : Nat) (x : ArrayUnit) : (s.setArray n x).lnt = s.lnt := rfl
@[simp] theorem State.setArray_faults (s : State) (n : Nat) (x : ArrayUnit) : (s.setArray n x).faults = s.faults := rfl
@[simp] theorem State.setArray_power (s : State) (n : Nat) (x : ArrayUnit) : (s.setArray n x).power = s.power := rfl
@[simp] theorem State.setArray_boot (s : State) (n : Nat) (x : ArrayUnit) : (s.setArray n x).boot = s.boot := rfl
@[simp] theorem State.setArray_mgmt (s : State) (n : Nat) (x : ArrayUnit) : (s.setArray n x).mgmt = s.mgmt := rfl

/-! ### onArray -/

@[simp] theorem State.onArray_pending (s : State) (n : Nat) (f : ArrayUnit → ArrayUnit) : (s.onArray n f).pending = s.pending := rfl
@[simp] theorem State.onArray_free (s : State) (n : Nat) (f : ArrayUnit → ArrayUnit) : (s.onArray n f).free = s.free := rfl
@[simp] theorem State.onArray_out (s : State) (n : Nat) (f : ArrayUnit → ArrayUnit) : (s.onArray n f).out = s.out := rfl
@[simp] theorem State.onArray_kcp (s : State) (n : Nat) (f : ArrayUnit → ArrayUnit) : (s.onArray n f).kcp = s.kcp := rfl
@[simp] theorem State.onArray_ctxs (s : State) (n : Nat) (f : ArrayUnit → ArrayUnit) : (s.onArray n f).ctxs = s.ctxs := rfl
@[simp] theorem State.onArray_fences (s : State) (n : Nat) (f : ArrayUnit → ArrayUnit) : (s.onArray n f).fences = s.fences := rfl
@[simp] theorem State.onArray_arrays (s : State) (n : Nat) (f : ArrayUnit → ArrayUnit) : (s.onArray n f).arrays = Tab.put s.arrays n (f (s.array n)) := rfl
@[simp] theorem State.onArray_mem (s : State) (n : Nat) (f : ArrayUnit → ArrayUnit) : (s.onArray n f).mem = s.mem := rfl
@[simp] theorem State.onArray_fabric (s : State) (n : Nat) (f : ArrayUnit → ArrayUnit) : (s.onArray n f).fabric = s.fabric := rfl
@[simp] theorem State.onArray_rtes (s : State) (n : Nat) (f : ArrayUnit → ArrayUnit) : (s.onArray n f).rtes = s.rtes := rfl
@[simp] theorem State.onArray_structs (s : State) (n : Nat) (f : ArrayUnit → ArrayUnit) : (s.onArray n f).structs = s.structs := rfl
@[simp] theorem State.onArray_fuus (s : State) (n : Nat) (f : ArrayUnit → ArrayUnit) : (s.onArray n f).fuus = s.fuus := rfl
@[simp] theorem State.onArray_lnt (s : State) (n : Nat) (f : ArrayUnit → ArrayUnit) : (s.onArray n f).lnt = s.lnt := rfl
@[simp] theorem State.onArray_faults (s : State) (n : Nat) (f : ArrayUnit → ArrayUnit) : (s.onArray n f).faults = s.faults := rfl
@[simp] theorem State.onArray_power (s : State) (n : Nat) (f : ArrayUnit → ArrayUnit) : (s.onArray n f).power = s.power := rfl
@[simp] theorem State.onArray_boot (s : State) (n : Nat) (f : ArrayUnit → ArrayUnit) : (s.onArray n f).boot = s.boot := rfl
@[simp] theorem State.onArray_mgmt (s : State) (n : Nat) (f : ArrayUnit → ArrayUnit) : (s.onArray n f).mgmt = s.mgmt := rfl

/-! ### onTile -/

@[simp] theorem State.onTile_pending (s : State) (a k : Nat) (f : Tile → Tile) : (s.onTile a k f).pending = s.pending := rfl
@[simp] theorem State.onTile_free (s : State) (a k : Nat) (f : Tile → Tile) : (s.onTile a k f).free = s.free := rfl
@[simp] theorem State.onTile_out (s : State) (a k : Nat) (f : Tile → Tile) : (s.onTile a k f).out = s.out := rfl
@[simp] theorem State.onTile_kcp (s : State) (a k : Nat) (f : Tile → Tile) : (s.onTile a k f).kcp = s.kcp := rfl
@[simp] theorem State.onTile_ctxs (s : State) (a k : Nat) (f : Tile → Tile) : (s.onTile a k f).ctxs = s.ctxs := rfl
@[simp] theorem State.onTile_fences (s : State) (a k : Nat) (f : Tile → Tile) : (s.onTile a k f).fences = s.fences := rfl
@[simp] theorem State.onTile_mem (s : State) (a k : Nat) (f : Tile → Tile) : (s.onTile a k f).mem = s.mem := rfl
@[simp] theorem State.onTile_fabric (s : State) (a k : Nat) (f : Tile → Tile) : (s.onTile a k f).fabric = s.fabric := rfl
@[simp] theorem State.onTile_rtes (s : State) (a k : Nat) (f : Tile → Tile) : (s.onTile a k f).rtes = s.rtes := rfl
@[simp] theorem State.onTile_structs (s : State) (a k : Nat) (f : Tile → Tile) : (s.onTile a k f).structs = s.structs := rfl
@[simp] theorem State.onTile_fuus (s : State) (a k : Nat) (f : Tile → Tile) : (s.onTile a k f).fuus = s.fuus := rfl
@[simp] theorem State.onTile_lnt (s : State) (a k : Nat) (f : Tile → Tile) : (s.onTile a k f).lnt = s.lnt := rfl
@[simp] theorem State.onTile_faults (s : State) (a k : Nat) (f : Tile → Tile) : (s.onTile a k f).faults = s.faults := rfl
@[simp] theorem State.onTile_power (s : State) (a k : Nat) (f : Tile → Tile) : (s.onTile a k f).power = s.power := rfl
@[simp] theorem State.onTile_boot (s : State) (a k : Nat) (f : Tile → Tile) : (s.onTile a k f).boot = s.boot := rfl
@[simp] theorem State.onTile_mgmt (s : State) (a k : Nat) (f : Tile → Tile) : (s.onTile a k f).mgmt = s.mgmt := rfl

/-! ### setRte -/

@[simp] theorem State.setRte_pending (s : State) (n : Nat) (x : Rte) : (s.setRte n x).pending = s.pending := rfl
@[simp] theorem State.setRte_free (s : State) (n : Nat) (x : Rte) : (s.setRte n x).free = s.free := rfl
@[simp] theorem State.setRte_out (s : State) (n : Nat) (x : Rte) : (s.setRte n x).out = s.out := rfl
@[simp] theorem State.setRte_kcp (s : State) (n : Nat) (x : Rte) : (s.setRte n x).kcp = s.kcp := rfl
@[simp] theorem State.setRte_ctxs (s : State) (n : Nat) (x : Rte) : (s.setRte n x).ctxs = s.ctxs := rfl
@[simp] theorem State.setRte_fences (s : State) (n : Nat) (x : Rte) : (s.setRte n x).fences = s.fences := rfl
@[simp] theorem State.setRte_arrays (s : State) (n : Nat) (x : Rte) : (s.setRte n x).arrays = s.arrays := rfl
@[simp] theorem State.setRte_mem (s : State) (n : Nat) (x : Rte) : (s.setRte n x).mem = s.mem := rfl
@[simp] theorem State.setRte_fabric (s : State) (n : Nat) (x : Rte) : (s.setRte n x).fabric = s.fabric := rfl
@[simp] theorem State.setRte_rtes (s : State) (n : Nat) (x : Rte) : (s.setRte n x).rtes = Tab.put s.rtes n x := rfl
@[simp] theorem State.setRte_structs (s : State) (n : Nat) (x : Rte) : (s.setRte n x).structs = s.structs := rfl
@[simp] theorem State.setRte_fuus (s : State) (n : Nat) (x : Rte) : (s.setRte n x).fuus = s.fuus := rfl
@[simp] theorem State.setRte_lnt (s : State) (n : Nat) (x : Rte) : (s.setRte n x).lnt = s.lnt := rfl
@[simp] theorem State.setRte_faults (s : State) (n : Nat) (x : Rte) : (s.setRte n x).faults = s.faults := rfl
@[simp] theorem State.setRte_power (s : State) (n : Nat) (x : Rte) : (s.setRte n x).power = s.power := rfl
@[simp] theorem State.setRte_boot (s : State) (n : Nat) (x : Rte) : (s.setRte n x).boot = s.boot := rfl
@[simp] theorem State.setRte_mgmt (s : State) (n : Nat) (x : Rte) : (s.setRte n x).mgmt = s.mgmt := rfl

/-! ### setFuu -/

@[simp] theorem State.setFuu_pending (s : State) (n : Nat) (x : Fuu) : (s.setFuu n x).pending = s.pending := rfl
@[simp] theorem State.setFuu_free (s : State) (n : Nat) (x : Fuu) : (s.setFuu n x).free = s.free := rfl
@[simp] theorem State.setFuu_out (s : State) (n : Nat) (x : Fuu) : (s.setFuu n x).out = s.out := rfl
@[simp] theorem State.setFuu_kcp (s : State) (n : Nat) (x : Fuu) : (s.setFuu n x).kcp = s.kcp := rfl
@[simp] theorem State.setFuu_ctxs (s : State) (n : Nat) (x : Fuu) : (s.setFuu n x).ctxs = s.ctxs := rfl
@[simp] theorem State.setFuu_fences (s : State) (n : Nat) (x : Fuu) : (s.setFuu n x).fences = s.fences := rfl
@[simp] theorem State.setFuu_arrays (s : State) (n : Nat) (x : Fuu) : (s.setFuu n x).arrays = s.arrays := rfl
@[simp] theorem State.setFuu_mem (s : State) (n : Nat) (x : Fuu) : (s.setFuu n x).mem = s.mem := rfl
@[simp] theorem State.setFuu_fabric (s : State) (n : Nat) (x : Fuu) : (s.setFuu n x).fabric = s.fabric := rfl
@[simp] theorem State.setFuu_rtes (s : State) (n : Nat) (x : Fuu) : (s.setFuu n x).rtes = s.rtes := rfl
@[simp] theorem State.setFuu_structs (s : State) (n : Nat) (x : Fuu) : (s.setFuu n x).structs = s.structs := rfl
@[simp] theorem State.setFuu_fuus (s : State) (n : Nat) (x : Fuu) : (s.setFuu n x).fuus = Tab.put s.fuus n x := rfl
@[simp] theorem State.setFuu_lnt (s : State) (n : Nat) (x : Fuu) : (s.setFuu n x).lnt = s.lnt := rfl
@[simp] theorem State.setFuu_faults (s : State) (n : Nat) (x : Fuu) : (s.setFuu n x).faults = s.faults := rfl
@[simp] theorem State.setFuu_power (s : State) (n : Nat) (x : Fuu) : (s.setFuu n x).power = s.power := rfl
@[simp] theorem State.setFuu_boot (s : State) (n : Nat) (x : Fuu) : (s.setFuu n x).boot = s.boot := rfl
@[simp] theorem State.setFuu_mgmt (s : State) (n : Nat) (x : Fuu) : (s.setFuu n x).mgmt = s.mgmt := rfl

/-! ### setStruct -/

@[simp] theorem State.setStruct_pending (s : State) (h : Nat) (r : RsStruct) : (s.setStruct h r).pending = s.pending := rfl
@[simp] theorem State.setStruct_free (s : State) (h : Nat) (r : RsStruct) : (s.setStruct h r).free = s.free := rfl
@[simp] theorem State.setStruct_out (s : State) (h : Nat) (r : RsStruct) : (s.setStruct h r).out = s.out := rfl
@[simp] theorem State.setStruct_kcp (s : State) (h : Nat) (r : RsStruct) : (s.setStruct h r).kcp = s.kcp := rfl
@[simp] theorem State.setStruct_ctxs (s : State) (h : Nat) (r : RsStruct) : (s.setStruct h r).ctxs = s.ctxs := rfl
@[simp] theorem State.setStruct_fences (s : State) (h : Nat) (r : RsStruct) : (s.setStruct h r).fences = s.fences := rfl
@[simp] theorem State.setStruct_arrays (s : State) (h : Nat) (r : RsStruct) : (s.setStruct h r).arrays = s.arrays := rfl
@[simp] theorem State.setStruct_mem (s : State) (h : Nat) (r : RsStruct) : (s.setStruct h r).mem = s.mem := rfl
@[simp] theorem State.setStruct_fabric (s : State) (h : Nat) (r : RsStruct) : (s.setStruct h r).fabric = s.fabric := rfl
@[simp] theorem State.setStruct_rtes (s : State) (h : Nat) (r : RsStruct) : (s.setStruct h r).rtes = s.rtes := rfl
@[simp] theorem State.setStruct_structs (s : State) (h : Nat) (r : RsStruct) : (s.setStruct h r).structs = Tab.put s.structs h r := rfl
@[simp] theorem State.setStruct_fuus (s : State) (h : Nat) (r : RsStruct) : (s.setStruct h r).fuus = s.fuus := rfl
@[simp] theorem State.setStruct_lnt (s : State) (h : Nat) (r : RsStruct) : (s.setStruct h r).lnt = s.lnt := rfl
@[simp] theorem State.setStruct_faults (s : State) (h : Nat) (r : RsStruct) : (s.setStruct h r).faults = s.faults := rfl
@[simp] theorem State.setStruct_power (s : State) (h : Nat) (r : RsStruct) : (s.setStruct h r).power = s.power := rfl
@[simp] theorem State.setStruct_boot (s : State) (h : Nat) (r : RsStruct) : (s.setStruct h r).boot = s.boot := rfl
@[simp] theorem State.setStruct_mgmt (s : State) (h : Nat) (r : RsStruct) : (s.setStruct h r).mgmt = s.mgmt := rfl

/-! ### setPort -/

@[simp] theorem State.setPort_pending (s : State) (p : Nat) (x : Port) : (s.setPort p x).pending = s.pending := rfl
@[simp] theorem State.setPort_free (s : State) (p : Nat) (x : Port) : (s.setPort p x).free = s.free := rfl
@[simp] theorem State.setPort_out (s : State) (p : Nat) (x : Port) : (s.setPort p x).out = s.out := rfl
@[simp] theorem State.setPort_kcp (s : State) (p : Nat) (x : Port) : (s.setPort p x).kcp = s.kcp := rfl
@[simp] theorem State.setPort_ctxs (s : State) (p : Nat) (x : Port) : (s.setPort p x).ctxs = s.ctxs := rfl
@[simp] theorem State.setPort_fences (s : State) (p : Nat) (x : Port) : (s.setPort p x).fences = s.fences := rfl
@[simp] theorem State.setPort_arrays (s : State) (p : Nat) (x : Port) : (s.setPort p x).arrays = s.arrays := rfl
@[simp] theorem State.setPort_mem (s : State) (p : Nat) (x : Port) : (s.setPort p x).mem = s.mem := rfl
@[simp] theorem State.setPort_rtes (s : State) (p : Nat) (x : Port) : (s.setPort p x).rtes = s.rtes := rfl
@[simp] theorem State.setPort_structs (s : State) (p : Nat) (x : Port) : (s.setPort p x).structs = s.structs := rfl
@[simp] theorem State.setPort_fuus (s : State) (p : Nat) (x : Port) : (s.setPort p x).fuus = s.fuus := rfl
@[simp] theorem State.setPort_lnt (s : State) (p : Nat) (x : Port) : (s.setPort p x).lnt = s.lnt := rfl
@[simp] theorem State.setPort_faults (s : State) (p : Nat) (x : Port) : (s.setPort p x).faults = s.faults := rfl
@[simp] theorem State.setPort_power (s : State) (p : Nat) (x : Port) : (s.setPort p x).power = s.power := rfl
@[simp] theorem State.setPort_boot (s : State) (p : Nat) (x : Port) : (s.setPort p x).boot = s.boot := rfl
@[simp] theorem State.setPort_mgmt (s : State) (p : Nat) (x : Port) : (s.setPort p x).mgmt = s.mgmt := rfl

/-! ### onPort -/

@[simp] theorem State.onPort_pending (s : State) (p : Nat) (f : Port → Port) : (s.onPort p f).pending = s.pending := rfl
@[simp] theorem State.onPort_free (s : State) (p : Nat) (f : Port → Port) : (s.onPort p f).free = s.free := rfl
@[simp] theorem State.onPort_out (s : State) (p : Nat) (f : Port → Port) : (s.onPort p f).out = s.out := rfl
@[simp] theorem State.onPort_kcp (s : State) (p : Nat) (f : Port → Port) : (s.onPort p f).kcp = s.kcp := rfl
@[simp] theorem State.onPort_ctxs (s : State) (p : Nat) (f : Port → Port) : (s.onPort p f).ctxs = s.ctxs := rfl
@[simp] theorem State.onPort_fences (s : State) (p : Nat) (f : Port → Port) : (s.onPort p f).fences = s.fences := rfl
@[simp] theorem State.onPort_arrays (s : State) (p : Nat) (f : Port → Port) : (s.onPort p f).arrays = s.arrays := rfl
@[simp] theorem State.onPort_mem (s : State) (p : Nat) (f : Port → Port) : (s.onPort p f).mem = s.mem := rfl
@[simp] theorem State.onPort_rtes (s : State) (p : Nat) (f : Port → Port) : (s.onPort p f).rtes = s.rtes := rfl
@[simp] theorem State.onPort_structs (s : State) (p : Nat) (f : Port → Port) : (s.onPort p f).structs = s.structs := rfl
@[simp] theorem State.onPort_fuus (s : State) (p : Nat) (f : Port → Port) : (s.onPort p f).fuus = s.fuus := rfl
@[simp] theorem State.onPort_lnt (s : State) (p : Nat) (f : Port → Port) : (s.onPort p f).lnt = s.lnt := rfl
@[simp] theorem State.onPort_faults (s : State) (p : Nat) (f : Port → Port) : (s.onPort p f).faults = s.faults := rfl
@[simp] theorem State.onPort_power (s : State) (p : Nat) (f : Port → Port) : (s.onPort p f).power = s.power := rfl
@[simp] theorem State.onPort_boot (s : State) (p : Nat) (f : Port → Port) : (s.onPort p f).boot = s.boot := rfl
@[simp] theorem State.onPort_mgmt (s : State) (p : Nat) (f : Port → Port) : (s.onPort p f).mgmt = s.mgmt := rfl

/-! ### countPort -/

@[simp] theorem State.countPort_pending (s : State) (p i n : Nat) : (s.countPort p i n).pending = s.pending := rfl
@[simp] theorem State.countPort_free (s : State) (p i n : Nat) : (s.countPort p i n).free = s.free := rfl
@[simp] theorem State.countPort_out (s : State) (p i n : Nat) : (s.countPort p i n).out = s.out := rfl
@[simp] theorem State.countPort_kcp (s : State) (p i n : Nat) : (s.countPort p i n).kcp = s.kcp := rfl
@[simp] theorem State.countPort_ctxs (s : State) (p i n : Nat) : (s.countPort p i n).ctxs = s.ctxs := rfl
@[simp] theorem State.countPort_fences (s : State) (p i n : Nat) : (s.countPort p i n).fences = s.fences := rfl
@[simp] theorem State.countPort_arrays (s : State) (p i n : Nat) : (s.countPort p i n).arrays = s.arrays := rfl
@[simp] theorem State.countPort_mem (s : State) (p i n : Nat) : (s.countPort p i n).mem = s.mem := rfl
@[simp] theorem State.countPort_rtes (s : State) (p i n : Nat) : (s.countPort p i n).rtes = s.rtes := rfl
@[simp] theorem State.countPort_structs (s : State) (p i n : Nat) : (s.countPort p i n).structs = s.structs := rfl
@[simp] theorem State.countPort_fuus (s : State) (p i n : Nat) : (s.countPort p i n).fuus = s.fuus := rfl
@[simp] theorem State.countPort_lnt (s : State) (p i n : Nat) : (s.countPort p i n).lnt = s.lnt := rfl
@[simp] theorem State.countPort_faults (s : State) (p i n : Nat) : (s.countPort p i n).faults = s.faults := rfl
@[simp] theorem State.countPort_power (s : State) (p i n : Nat) : (s.countPort p i n).power = s.power := rfl
@[simp] theorem State.countPort_boot (s : State) (p i n : Nat) : (s.countPort p i n).boot = s.boot := rfl
@[simp] theorem State.countPort_mgmt (s : State) (p i n : Nat) : (s.countPort p i n).mgmt = s.mgmt := rfl

/-! ### setTx -/

@[simp] theorem State.setTx_pending (s : State) (cls dst : Nat) (x : TxStream) : (s.setTx cls dst x).pending = s.pending := rfl
@[simp] theorem State.setTx_free (s : State) (cls dst : Nat) (x : TxStream) : (s.setTx cls dst x).free = s.free := rfl
@[simp] theorem State.setTx_out (s : State) (cls dst : Nat) (x : TxStream) : (s.setTx cls dst x).out = s.out := rfl
@[simp] theorem State.setTx_kcp (s : State) (cls dst : Nat) (x : TxStream) : (s.setTx cls dst x).kcp = s.kcp := rfl
@[simp] theorem State.setTx_ctxs (s : State) (cls dst : Nat) (x : TxStream) : (s.setTx cls dst x).ctxs = s.ctxs := rfl
@[simp] theorem State.setTx_fences (s : State) (cls dst : Nat) (x : TxStream) : (s.setTx cls dst x).fences = s.fences := rfl
@[simp] theorem State.setTx_arrays (s : State) (cls dst : Nat) (x : TxStream) : (s.setTx cls dst x).arrays = s.arrays := rfl
@[simp] theorem State.setTx_mem (s : State) (cls dst : Nat) (x : TxStream) : (s.setTx cls dst x).mem = s.mem := rfl
@[simp] theorem State.setTx_rtes (s : State) (cls dst : Nat) (x : TxStream) : (s.setTx cls dst x).rtes = s.rtes := rfl
@[simp] theorem State.setTx_structs (s : State) (cls dst : Nat) (x : TxStream) : (s.setTx cls dst x).structs = s.structs := rfl
@[simp] theorem State.setTx_fuus (s : State) (cls dst : Nat) (x : TxStream) : (s.setTx cls dst x).fuus = s.fuus := rfl
@[simp] theorem State.setTx_lnt (s : State) (cls dst : Nat) (x : TxStream) : (s.setTx cls dst x).lnt = s.lnt := rfl
@[simp] theorem State.setTx_faults (s : State) (cls dst : Nat) (x : TxStream) : (s.setTx cls dst x).faults = s.faults := rfl
@[simp] theorem State.setTx_power (s : State) (cls dst : Nat) (x : TxStream) : (s.setTx cls dst x).power = s.power := rfl
@[simp] theorem State.setTx_boot (s : State) (cls dst : Nat) (x : TxStream) : (s.setTx cls dst x).boot = s.boot := rfl
@[simp] theorem State.setTx_mgmt (s : State) (cls dst : Nat) (x : TxStream) : (s.setTx cls dst x).mgmt = s.mgmt := rfl

/-! ### setRx -/

@[simp] theorem State.setRx_pending (s : State) (cls src : Nat) (x : RxStream) : (s.setRx cls src x).pending = s.pending := rfl
@[simp] theorem State.setRx_free (s : State) (cls src : Nat) (x : RxStream) : (s.setRx cls src x).free = s.free := rfl
@[simp] theorem State.setRx_out (s : State) (cls src : Nat) (x : RxStream) : (s.setRx cls src x).out = s.out := rfl
@[simp] theorem State.setRx_kcp (s : State) (cls src : Nat) (x : RxStream) : (s.setRx cls src x).kcp = s.kcp := rfl
@[simp] theorem State.setRx_ctxs (s : State) (cls src : Nat) (x : RxStream) : (s.setRx cls src x).ctxs = s.ctxs := rfl
@[simp] theorem State.setRx_fences (s : State) (cls src : Nat) (x : RxStream) : (s.setRx cls src x).fences = s.fences := rfl
@[simp] theorem State.setRx_arrays (s : State) (cls src : Nat) (x : RxStream) : (s.setRx cls src x).arrays = s.arrays := rfl
@[simp] theorem State.setRx_mem (s : State) (cls src : Nat) (x : RxStream) : (s.setRx cls src x).mem = s.mem := rfl
@[simp] theorem State.setRx_rtes (s : State) (cls src : Nat) (x : RxStream) : (s.setRx cls src x).rtes = s.rtes := rfl
@[simp] theorem State.setRx_structs (s : State) (cls src : Nat) (x : RxStream) : (s.setRx cls src x).structs = s.structs := rfl
@[simp] theorem State.setRx_fuus (s : State) (cls src : Nat) (x : RxStream) : (s.setRx cls src x).fuus = s.fuus := rfl
@[simp] theorem State.setRx_lnt (s : State) (cls src : Nat) (x : RxStream) : (s.setRx cls src x).lnt = s.lnt := rfl
@[simp] theorem State.setRx_faults (s : State) (cls src : Nat) (x : RxStream) : (s.setRx cls src x).faults = s.faults := rfl
@[simp] theorem State.setRx_power (s : State) (cls src : Nat) (x : RxStream) : (s.setRx cls src x).power = s.power := rfl
@[simp] theorem State.setRx_boot (s : State) (cls src : Nat) (x : RxStream) : (s.setRx cls src x).boot = s.boot := rfl
@[simp] theorem State.setRx_mgmt (s : State) (cls src : Nat) (x : RxStream) : (s.setRx cls src x).mgmt = s.mgmt := rfl

/-! ### setSession -/

@[simp] theorem State.setSession_pending (s : State) (slot : Nat) (x : Session) : (s.setSession slot x).pending = s.pending := rfl
@[simp] theorem State.setSession_free (s : State) (slot : Nat) (x : Session) : (s.setSession slot x).free = s.free := rfl
@[simp] theorem State.setSession_out (s : State) (slot : Nat) (x : Session) : (s.setSession slot x).out = s.out := rfl
@[simp] theorem State.setSession_ctxs (s : State) (slot : Nat) (x : Session) : (s.setSession slot x).ctxs = s.ctxs := rfl
@[simp] theorem State.setSession_fences (s : State) (slot : Nat) (x : Session) : (s.setSession slot x).fences = s.fences := rfl
@[simp] theorem State.setSession_arrays (s : State) (slot : Nat) (x : Session) : (s.setSession slot x).arrays = s.arrays := rfl
@[simp] theorem State.setSession_mem (s : State) (slot : Nat) (x : Session) : (s.setSession slot x).mem = s.mem := rfl
@[simp] theorem State.setSession_fabric (s : State) (slot : Nat) (x : Session) : (s.setSession slot x).fabric = s.fabric := rfl
@[simp] theorem State.setSession_rtes (s : State) (slot : Nat) (x : Session) : (s.setSession slot x).rtes = s.rtes := rfl
@[simp] theorem State.setSession_structs (s : State) (slot : Nat) (x : Session) : (s.setSession slot x).structs = s.structs := rfl
@[simp] theorem State.setSession_fuus (s : State) (slot : Nat) (x : Session) : (s.setSession slot x).fuus = s.fuus := rfl
@[simp] theorem State.setSession_lnt (s : State) (slot : Nat) (x : Session) : (s.setSession slot x).lnt = s.lnt := rfl
@[simp] theorem State.setSession_faults (s : State) (slot : Nat) (x : Session) : (s.setSession slot x).faults = s.faults := rfl
@[simp] theorem State.setSession_power (s : State) (slot : Nat) (x : Session) : (s.setSession slot x).power = s.power := rfl
@[simp] theorem State.setSession_boot (s : State) (slot : Nat) (x : Session) : (s.setSession slot x).boot = s.boot := rfl
@[simp] theorem State.setSession_mgmt (s : State) (slot : Nat) (x : Session) : (s.setSession slot x).mgmt = s.mgmt := rfl

/-! ### countCtx -/

@[simp] theorem State.countCtx_pending (s : State) (c i n : Nat) : (s.countCtx c i n).pending = s.pending := rfl
@[simp] theorem State.countCtx_free (s : State) (c i n : Nat) : (s.countCtx c i n).free = s.free := rfl
@[simp] theorem State.countCtx_out (s : State) (c i n : Nat) : (s.countCtx c i n).out = s.out := rfl
@[simp] theorem State.countCtx_kcp (s : State) (c i n : Nat) : (s.countCtx c i n).kcp = s.kcp := rfl
@[simp] theorem State.countCtx_fences (s : State) (c i n : Nat) : (s.countCtx c i n).fences = s.fences := rfl
@[simp] theorem State.countCtx_arrays (s : State) (c i n : Nat) : (s.countCtx c i n).arrays = s.arrays := rfl
@[simp] theorem State.countCtx_mem (s : State) (c i n : Nat) : (s.countCtx c i n).mem = s.mem := rfl
@[simp] theorem State.countCtx_fabric (s : State) (c i n : Nat) : (s.countCtx c i n).fabric = s.fabric := rfl
@[simp] theorem State.countCtx_rtes (s : State) (c i n : Nat) : (s.countCtx c i n).rtes = s.rtes := rfl
@[simp] theorem State.countCtx_structs (s : State) (c i n : Nat) : (s.countCtx c i n).structs = s.structs := rfl
@[simp] theorem State.countCtx_fuus (s : State) (c i n : Nat) : (s.countCtx c i n).fuus = s.fuus := rfl
@[simp] theorem State.countCtx_lnt (s : State) (c i n : Nat) : (s.countCtx c i n).lnt = s.lnt := rfl
@[simp] theorem State.countCtx_faults (s : State) (c i n : Nat) : (s.countCtx c i n).faults = s.faults := rfl
@[simp] theorem State.countCtx_power (s : State) (c i n : Nat) : (s.countCtx c i n).power = s.power := rfl
@[simp] theorem State.countCtx_boot (s : State) (c i n : Nat) : (s.countCtx c i n).boot = s.boot := rfl
@[simp] theorem State.countCtx_mgmt (s : State) (c i n : Nat) : (s.countCtx c i n).mgmt = s.mgmt := rfl

/-! ### countCtx9 -/

@[simp] theorem State.countCtx9_pending (s : State) (c i n : Nat) : (s.countCtx9 c i n).pending = s.pending := rfl
@[simp] theorem State.countCtx9_free (s : State) (c i n : Nat) : (s.countCtx9 c i n).free = s.free := rfl
@[simp] theorem State.countCtx9_out (s : State) (c i n : Nat) : (s.countCtx9 c i n).out = s.out := rfl
@[simp] theorem State.countCtx9_kcp (s : State) (c i n : Nat) : (s.countCtx9 c i n).kcp = s.kcp := rfl
@[simp] theorem State.countCtx9_fences (s : State) (c i n : Nat) : (s.countCtx9 c i n).fences = s.fences := rfl
@[simp] theorem State.countCtx9_arrays (s : State) (c i n : Nat) : (s.countCtx9 c i n).arrays = s.arrays := rfl
@[simp] theorem State.countCtx9_mem (s : State) (c i n : Nat) : (s.countCtx9 c i n).mem = s.mem := rfl
@[simp] theorem State.countCtx9_fabric (s : State) (c i n : Nat) : (s.countCtx9 c i n).fabric = s.fabric := rfl
@[simp] theorem State.countCtx9_rtes (s : State) (c i n : Nat) : (s.countCtx9 c i n).rtes = s.rtes := rfl
@[simp] theorem State.countCtx9_structs (s : State) (c i n : Nat) : (s.countCtx9 c i n).structs = s.structs := rfl
@[simp] theorem State.countCtx9_fuus (s : State) (c i n : Nat) : (s.countCtx9 c i n).fuus = s.fuus := rfl
@[simp] theorem State.countCtx9_lnt (s : State) (c i n : Nat) : (s.countCtx9 c i n).lnt = s.lnt := rfl
@[simp] theorem State.countCtx9_faults (s : State) (c i n : Nat) : (s.countCtx9 c i n).faults = s.faults := rfl
@[simp] theorem State.countCtx9_power (s : State) (c i n : Nat) : (s.countCtx9 c i n).power = s.power := rfl
@[simp] theorem State.countCtx9_boot (s : State) (c i n : Nat) : (s.countCtx9 c i n).boot = s.boot := rfl
@[simp] theorem State.countCtx9_mgmt (s : State) (c i n : Nat) : (s.countCtx9 c i n).mgmt = s.mgmt := rfl

/-! ### countArray -/

@[simp] theorem State.countArray_pending (s : State) (a i n : Nat) : (s.countArray a i n).pending = s.pending := rfl
@[simp] theorem State.countArray_free (s : State) (a i n : Nat) : (s.countArray a i n).free = s.free := rfl
@[simp] theorem State.countArray_out (s : State) (a i n : Nat) : (s.countArray a i n).out = s.out := rfl
@[simp] theorem State.countArray_kcp (s : State) (a i n : Nat) : (s.countArray a i n).kcp = s.kcp := rfl
@[simp] theorem State.countArray_ctxs (s : State) (a i n : Nat) : (s.countArray a i n).ctxs = s.ctxs := rfl
@[simp] theorem State.countArray_fences (s : State) (a i n : Nat) : (s.countArray a i n).fences = s.fences := rfl
@[simp] theorem State.countArray_mem (s : State) (a i n : Nat) : (s.countArray a i n).mem = s.mem := rfl
@[simp] theorem State.countArray_fabric (s : State) (a i n : Nat) : (s.countArray a i n).fabric = s.fabric := rfl
@[simp] theorem State.countArray_rtes (s : State) (a i n : Nat) : (s.countArray a i n).rtes = s.rtes := rfl
@[simp] theorem State.countArray_structs (s : State) (a i n : Nat) : (s.countArray a i n).structs = s.structs := rfl
@[simp] theorem State.countArray_fuus (s : State) (a i n : Nat) : (s.countArray a i n).fuus = s.fuus := rfl
@[simp] theorem State.countArray_lnt (s : State) (a i n : Nat) : (s.countArray a i n).lnt = s.lnt := rfl
@[simp] theorem State.countArray_faults (s : State) (a i n : Nat) : (s.countArray a i n).faults = s.faults := rfl
@[simp] theorem State.countArray_power (s : State) (a i n : Nat) : (s.countArray a i n).power = s.power := rfl
@[simp] theorem State.countArray_boot (s : State) (a i n : Nat) : (s.countArray a i n).boot = s.boot := rfl
@[simp] theorem State.countArray_mgmt (s : State) (a i n : Nat) : (s.countArray a i n).mgmt = s.mgmt := rfl

/-! ### countFault -/

@[simp] theorem State.countFault_pending (s : State) (i n : Nat) : (s.countFault i n).pending = s.pending := rfl
@[simp] theorem State.countFault_free (s : State) (i n : Nat) : (s.countFault i n).free = s.free := rfl
@[simp] theorem State.countFault_out (s : State) (i n : Nat) : (s.countFault i n).out = s.out := rfl
@[simp] theorem State.countFault_kcp (s : State) (i n : Nat) : (s.countFault i n).kcp = s.kcp := rfl
@[simp] theorem State.countFault_ctxs (s : State) (i n : Nat) : (s.countFault i n).ctxs = s.ctxs := rfl
@[simp] theorem State.countFault_fences (s : State) (i n : Nat) : (s.countFault i n).fences = s.fences := rfl
@[simp] theorem State.countFault_arrays (s : State) (i n : Nat) : (s.countFault i n).arrays = s.arrays := rfl
@[simp] theorem State.countFault_mem (s : State) (i n : Nat) : (s.countFault i n).mem = s.mem := rfl
@[simp] theorem State.countFault_fabric (s : State) (i n : Nat) : (s.countFault i n).fabric = s.fabric := rfl
@[simp] theorem State.countFault_rtes (s : State) (i n : Nat) : (s.countFault i n).rtes = s.rtes := rfl
@[simp] theorem State.countFault_structs (s : State) (i n : Nat) : (s.countFault i n).structs = s.structs := rfl
@[simp] theorem State.countFault_fuus (s : State) (i n : Nat) : (s.countFault i n).fuus = s.fuus := rfl
@[simp] theorem State.countFault_lnt (s : State) (i n : Nat) : (s.countFault i n).lnt = s.lnt := rfl
@[simp] theorem State.countFault_power (s : State) (i n : Nat) : (s.countFault i n).power = s.power := rfl
@[simp] theorem State.countFault_boot (s : State) (i n : Nat) : (s.countFault i n).boot = s.boot := rfl
@[simp] theorem State.countFault_mgmt (s : State) (i n : Nat) : (s.countFault i n).mgmt = s.mgmt := rfl

/-! ### askReset -/

@[simp] theorem State.askReset_pending (s : State) : (s.askReset).pending = s.pending := rfl
@[simp] theorem State.askReset_free (s : State) : (s.askReset).free = s.free := rfl
@[simp] theorem State.askReset_out (s : State) : (s.askReset).out = s.out := rfl
@[simp] theorem State.askReset_kcp (s : State) : (s.askReset).kcp = s.kcp := rfl
@[simp] theorem State.askReset_ctxs (s : State) : (s.askReset).ctxs = s.ctxs := rfl
@[simp] theorem State.askReset_fences (s : State) : (s.askReset).fences = s.fences := rfl
@[simp] theorem State.askReset_arrays (s : State) : (s.askReset).arrays = s.arrays := rfl
@[simp] theorem State.askReset_mem (s : State) : (s.askReset).mem = s.mem := rfl
@[simp] theorem State.askReset_fabric (s : State) : (s.askReset).fabric = s.fabric := rfl
@[simp] theorem State.askReset_rtes (s : State) : (s.askReset).rtes = s.rtes := rfl
@[simp] theorem State.askReset_structs (s : State) : (s.askReset).structs = s.structs := rfl
@[simp] theorem State.askReset_fuus (s : State) : (s.askReset).fuus = s.fuus := rfl
@[simp] theorem State.askReset_lnt (s : State) : (s.askReset).lnt = s.lnt := rfl
@[simp] theorem State.askReset_power (s : State) : (s.askReset).power = s.power := rfl
@[simp] theorem State.askReset_boot (s : State) : (s.askReset).boot = s.boot := rfl
@[simp] theorem State.askReset_mgmt (s : State) : (s.askReset).mgmt = s.mgmt := rfl

/-! ### onGrid -/

@[simp] theorem State.onGrid_pending (s : State) (c slot : Nat) (f : GridRun → GridRun) : (s.onGrid c slot f).pending = s.pending := rfl
@[simp] theorem State.onGrid_free (s : State) (c slot : Nat) (f : GridRun → GridRun) : (s.onGrid c slot f).free = s.free := rfl
@[simp] theorem State.onGrid_out (s : State) (c slot : Nat) (f : GridRun → GridRun) : (s.onGrid c slot f).out = s.out := rfl
@[simp] theorem State.onGrid_kcp (s : State) (c slot : Nat) (f : GridRun → GridRun) : (s.onGrid c slot f).kcp = s.kcp := rfl
@[simp] theorem State.onGrid_fences (s : State) (c slot : Nat) (f : GridRun → GridRun) : (s.onGrid c slot f).fences = s.fences := rfl
@[simp] theorem State.onGrid_arrays (s : State) (c slot : Nat) (f : GridRun → GridRun) : (s.onGrid c slot f).arrays = s.arrays := rfl
@[simp] theorem State.onGrid_mem (s : State) (c slot : Nat) (f : GridRun → GridRun) : (s.onGrid c slot f).mem = s.mem := rfl
@[simp] theorem State.onGrid_fabric (s : State) (c slot : Nat) (f : GridRun → GridRun) : (s.onGrid c slot f).fabric = s.fabric := rfl
@[simp] theorem State.onGrid_rtes (s : State) (c slot : Nat) (f : GridRun → GridRun) : (s.onGrid c slot f).rtes = s.rtes := rfl
@[simp] theorem State.onGrid_structs (s : State) (c slot : Nat) (f : GridRun → GridRun) : (s.onGrid c slot f).structs = s.structs := rfl
@[simp] theorem State.onGrid_fuus (s : State) (c slot : Nat) (f : GridRun → GridRun) : (s.onGrid c slot f).fuus = s.fuus := rfl
@[simp] theorem State.onGrid_lnt (s : State) (c slot : Nat) (f : GridRun → GridRun) : (s.onGrid c slot f).lnt = s.lnt := rfl
@[simp] theorem State.onGrid_faults (s : State) (c slot : Nat) (f : GridRun → GridRun) : (s.onGrid c slot f).faults = s.faults := rfl
@[simp] theorem State.onGrid_power (s : State) (c slot : Nat) (f : GridRun → GridRun) : (s.onGrid c slot f).power = s.power := rfl
@[simp] theorem State.onGrid_boot (s : State) (c slot : Nat) (f : GridRun → GridRun) : (s.onGrid c slot f).boot = s.boot := rfl
@[simp] theorem State.onGrid_mgmt (s : State) (c slot : Nat) (f : GridRun → GridRun) : (s.onGrid c slot f).mgmt = s.mgmt := rfl

/-! ### onFolds -/

@[simp] theorem State.onFolds_pending (s : State) (c : Nat) (f : Folds → Folds) : (s.onFolds c f).pending = s.pending := rfl
@[simp] theorem State.onFolds_free (s : State) (c : Nat) (f : Folds → Folds) : (s.onFolds c f).free = s.free := rfl
@[simp] theorem State.onFolds_out (s : State) (c : Nat) (f : Folds → Folds) : (s.onFolds c f).out = s.out := rfl
@[simp] theorem State.onFolds_kcp (s : State) (c : Nat) (f : Folds → Folds) : (s.onFolds c f).kcp = s.kcp := rfl
@[simp] theorem State.onFolds_fences (s : State) (c : Nat) (f : Folds → Folds) : (s.onFolds c f).fences = s.fences := rfl
@[simp] theorem State.onFolds_arrays (s : State) (c : Nat) (f : Folds → Folds) : (s.onFolds c f).arrays = s.arrays := rfl
@[simp] theorem State.onFolds_mem (s : State) (c : Nat) (f : Folds → Folds) : (s.onFolds c f).mem = s.mem := rfl
@[simp] theorem State.onFolds_fabric (s : State) (c : Nat) (f : Folds → Folds) : (s.onFolds c f).fabric = s.fabric := rfl
@[simp] theorem State.onFolds_rtes (s : State) (c : Nat) (f : Folds → Folds) : (s.onFolds c f).rtes = s.rtes := rfl
@[simp] theorem State.onFolds_structs (s : State) (c : Nat) (f : Folds → Folds) : (s.onFolds c f).structs = s.structs := rfl
@[simp] theorem State.onFolds_fuus (s : State) (c : Nat) (f : Folds → Folds) : (s.onFolds c f).fuus = s.fuus := rfl
@[simp] theorem State.onFolds_lnt (s : State) (c : Nat) (f : Folds → Folds) : (s.onFolds c f).lnt = s.lnt := rfl
@[simp] theorem State.onFolds_faults (s : State) (c : Nat) (f : Folds → Folds) : (s.onFolds c f).faults = s.faults := rfl
@[simp] theorem State.onFolds_power (s : State) (c : Nat) (f : Folds → Folds) : (s.onFolds c f).power = s.power := rfl
@[simp] theorem State.onFolds_boot (s : State) (c : Nat) (f : Folds → Folds) : (s.onFolds c f).boot = s.boot := rfl
@[simp] theorem State.onFolds_mgmt (s : State) (c : Nat) (f : Folds → Folds) : (s.onFolds c f).mgmt = s.mgmt := rfl

/-! ### onPower -/

@[simp] theorem State.onPower_pending (s : State) (f : Power → Power) : (s.onPower f).pending = s.pending := rfl
@[simp] theorem State.onPower_free (s : State) (f : Power → Power) : (s.onPower f).free = s.free := rfl
@[simp] theorem State.onPower_out (s : State) (f : Power → Power) : (s.onPower f).out = s.out := rfl
@[simp] theorem State.onPower_kcp (s : State) (f : Power → Power) : (s.onPower f).kcp = s.kcp := rfl
@[simp] theorem State.onPower_ctxs (s : State) (f : Power → Power) : (s.onPower f).ctxs = s.ctxs := rfl
@[simp] theorem State.onPower_fences (s : State) (f : Power → Power) : (s.onPower f).fences = s.fences := rfl
@[simp] theorem State.onPower_arrays (s : State) (f : Power → Power) : (s.onPower f).arrays = s.arrays := rfl
@[simp] theorem State.onPower_mem (s : State) (f : Power → Power) : (s.onPower f).mem = s.mem := rfl
@[simp] theorem State.onPower_fabric (s : State) (f : Power → Power) : (s.onPower f).fabric = s.fabric := rfl
@[simp] theorem State.onPower_rtes (s : State) (f : Power → Power) : (s.onPower f).rtes = s.rtes := rfl
@[simp] theorem State.onPower_structs (s : State) (f : Power → Power) : (s.onPower f).structs = s.structs := rfl
@[simp] theorem State.onPower_fuus (s : State) (f : Power → Power) : (s.onPower f).fuus = s.fuus := rfl
@[simp] theorem State.onPower_lnt (s : State) (f : Power → Power) : (s.onPower f).lnt = s.lnt := rfl
@[simp] theorem State.onPower_faults (s : State) (f : Power → Power) : (s.onPower f).faults = s.faults := rfl
@[simp] theorem State.onPower_power (s : State) (f : Power → Power) : (s.onPower f).power = f s.power := rfl
@[simp] theorem State.onPower_boot (s : State) (f : Power → Power) : (s.onPower f).boot = s.boot := rfl
@[simp] theorem State.onPower_mgmt (s : State) (f : Power → Power) : (s.onPower f).mgmt = s.mgmt := rfl

/-! ### onMgmt -/

@[simp] theorem State.onMgmt_pending (s : State) (f : Mgmt → Mgmt) : (s.onMgmt f).pending = s.pending := rfl
@[simp] theorem State.onMgmt_free (s : State) (f : Mgmt → Mgmt) : (s.onMgmt f).free = s.free := rfl
@[simp] theorem State.onMgmt_out (s : State) (f : Mgmt → Mgmt) : (s.onMgmt f).out = s.out := rfl
@[simp] theorem State.onMgmt_kcp (s : State) (f : Mgmt → Mgmt) : (s.onMgmt f).kcp = s.kcp := rfl
@[simp] theorem State.onMgmt_ctxs (s : State) (f : Mgmt → Mgmt) : (s.onMgmt f).ctxs = s.ctxs := rfl
@[simp] theorem State.onMgmt_fences (s : State) (f : Mgmt → Mgmt) : (s.onMgmt f).fences = s.fences := rfl
@[simp] theorem State.onMgmt_arrays (s : State) (f : Mgmt → Mgmt) : (s.onMgmt f).arrays = s.arrays := rfl
@[simp] theorem State.onMgmt_mem (s : State) (f : Mgmt → Mgmt) : (s.onMgmt f).mem = s.mem := rfl
@[simp] theorem State.onMgmt_fabric (s : State) (f : Mgmt → Mgmt) : (s.onMgmt f).fabric = s.fabric := rfl
@[simp] theorem State.onMgmt_rtes (s : State) (f : Mgmt → Mgmt) : (s.onMgmt f).rtes = s.rtes := rfl
@[simp] theorem State.onMgmt_structs (s : State) (f : Mgmt → Mgmt) : (s.onMgmt f).structs = s.structs := rfl
@[simp] theorem State.onMgmt_fuus (s : State) (f : Mgmt → Mgmt) : (s.onMgmt f).fuus = s.fuus := rfl
@[simp] theorem State.onMgmt_lnt (s : State) (f : Mgmt → Mgmt) : (s.onMgmt f).lnt = s.lnt := rfl
@[simp] theorem State.onMgmt_faults (s : State) (f : Mgmt → Mgmt) : (s.onMgmt f).faults = s.faults := rfl
@[simp] theorem State.onMgmt_power (s : State) (f : Mgmt → Mgmt) : (s.onMgmt f).power = s.power := rfl
@[simp] theorem State.onMgmt_boot (s : State) (f : Mgmt → Mgmt) : (s.onMgmt f).boot = s.boot := rfl
@[simp] theorem State.onMgmt_mgmt (s : State) (f : Mgmt → Mgmt) : (s.onMgmt f).mgmt = f s.mgmt := rfl

/-! ### drawn -/

@[simp] theorem State.drawn_pending (s : State) : (s.drawn).pending = s.pending := rfl
@[simp] theorem State.drawn_free (s : State) : (s.drawn).free = s.free + 1 := rfl
@[simp] theorem State.drawn_out (s : State) : (s.drawn).out = s.out := rfl
@[simp] theorem State.drawn_kcp (s : State) : (s.drawn).kcp = s.kcp := rfl
@[simp] theorem State.drawn_ctxs (s : State) : (s.drawn).ctxs = s.ctxs := rfl
@[simp] theorem State.drawn_fences (s : State) : (s.drawn).fences = s.fences := rfl
@[simp] theorem State.drawn_arrays (s : State) : (s.drawn).arrays = s.arrays := rfl
@[simp] theorem State.drawn_mem (s : State) : (s.drawn).mem = s.mem := rfl
@[simp] theorem State.drawn_fabric (s : State) : (s.drawn).fabric = s.fabric := rfl
@[simp] theorem State.drawn_rtes (s : State) : (s.drawn).rtes = s.rtes := rfl
@[simp] theorem State.drawn_structs (s : State) : (s.drawn).structs = s.structs := rfl
@[simp] theorem State.drawn_fuus (s : State) : (s.drawn).fuus = s.fuus := rfl
@[simp] theorem State.drawn_lnt (s : State) : (s.drawn).lnt = s.lnt := rfl
@[simp] theorem State.drawn_faults (s : State) : (s.drawn).faults = s.faults := rfl
@[simp] theorem State.drawn_power (s : State) : (s.drawn).power = s.power := rfl
@[simp] theorem State.drawn_boot (s : State) : (s.drawn).boot = s.boot := rfl
@[simp] theorem State.drawn_mgmt (s : State) : (s.drawn).mgmt = s.mgmt := rfl

/-! ### emit -/

@[simp] theorem State.emit_pending (s : State) (o : Out) : (s.emit o).pending = s.pending := rfl
@[simp] theorem State.emit_free (s : State) (o : Out) : (s.emit o).free = s.free := rfl
@[simp] theorem State.emit_out (s : State) (o : Out) : (s.emit o).out = s.out ++ [o] := rfl
@[simp] theorem State.emit_kcp (s : State) (o : Out) : (s.emit o).kcp = s.kcp := rfl
@[simp] theorem State.emit_ctxs (s : State) (o : Out) : (s.emit o).ctxs = s.ctxs := rfl
@[simp] theorem State.emit_fences (s : State) (o : Out) : (s.emit o).fences = s.fences := rfl
@[simp] theorem State.emit_arrays (s : State) (o : Out) : (s.emit o).arrays = s.arrays := rfl
@[simp] theorem State.emit_mem (s : State) (o : Out) : (s.emit o).mem = s.mem := rfl
@[simp] theorem State.emit_fabric (s : State) (o : Out) : (s.emit o).fabric = s.fabric := rfl
@[simp] theorem State.emit_rtes (s : State) (o : Out) : (s.emit o).rtes = s.rtes := rfl
@[simp] theorem State.emit_structs (s : State) (o : Out) : (s.emit o).structs = s.structs := rfl
@[simp] theorem State.emit_fuus (s : State) (o : Out) : (s.emit o).fuus = s.fuus := rfl
@[simp] theorem State.emit_lnt (s : State) (o : Out) : (s.emit o).lnt = s.lnt := rfl
@[simp] theorem State.emit_faults (s : State) (o : Out) : (s.emit o).faults = s.faults := rfl
@[simp] theorem State.emit_power (s : State) (o : Out) : (s.emit o).power = s.power := rfl
@[simp] theorem State.emit_boot (s : State) (o : Out) : (s.emit o).boot = s.boot := rfl
@[simp] theorem State.emit_mgmt (s : State) (o : Out) : (s.emit o).mgmt = s.mgmt := rfl

/-! ### write -/

@[simp] theorem State.write_pending (s : State) (a : Nat) (bs : List Byte) : (s.write a bs).pending = s.pending := rfl
@[simp] theorem State.write_free (s : State) (a : Nat) (bs : List Byte) : (s.write a bs).free = s.free := rfl
@[simp] theorem State.write_out (s : State) (a : Nat) (bs : List Byte) : (s.write a bs).out = s.out := rfl
@[simp] theorem State.write_kcp (s : State) (a : Nat) (bs : List Byte) : (s.write a bs).kcp = s.kcp := rfl
@[simp] theorem State.write_ctxs (s : State) (a : Nat) (bs : List Byte) : (s.write a bs).ctxs = s.ctxs := rfl
@[simp] theorem State.write_fences (s : State) (a : Nat) (bs : List Byte) : (s.write a bs).fences = s.fences := rfl
@[simp] theorem State.write_arrays (s : State) (a : Nat) (bs : List Byte) : (s.write a bs).arrays = s.arrays := rfl
@[simp] theorem State.write_mem (s : State) (a : Nat) (bs : List Byte) : (s.write a bs).mem = s.mem.write a bs := rfl
@[simp] theorem State.write_fabric (s : State) (a : Nat) (bs : List Byte) : (s.write a bs).fabric = s.fabric := rfl
@[simp] theorem State.write_rtes (s : State) (a : Nat) (bs : List Byte) : (s.write a bs).rtes = s.rtes := rfl
@[simp] theorem State.write_structs (s : State) (a : Nat) (bs : List Byte) : (s.write a bs).structs = s.structs := rfl
@[simp] theorem State.write_fuus (s : State) (a : Nat) (bs : List Byte) : (s.write a bs).fuus = s.fuus := rfl
@[simp] theorem State.write_lnt (s : State) (a : Nat) (bs : List Byte) : (s.write a bs).lnt = s.lnt := rfl
@[simp] theorem State.write_faults (s : State) (a : Nat) (bs : List Byte) : (s.write a bs).faults = s.faults := rfl
@[simp] theorem State.write_power (s : State) (a : Nat) (bs : List Byte) : (s.write a bs).power = s.power := rfl
@[simp] theorem State.write_boot (s : State) (a : Nat) (bs : List Byte) : (s.write a bs).boot = s.boot := rfl
@[simp] theorem State.write_mgmt (s : State) (a : Nat) (bs : List Byte) : (s.write a bs).mgmt = s.mgmt := rfl

/-! ### noteReads -/

@[simp] theorem State.noteReads_pending (s : State) (rs : List (Nat × Nat)) : (s.noteReads rs).pending = s.pending := rfl
@[simp] theorem State.noteReads_free (s : State) (rs : List (Nat × Nat)) : (s.noteReads rs).free = s.free := rfl
@[simp] theorem State.noteReads_out (s : State) (rs : List (Nat × Nat)) : (s.noteReads rs).out = s.out := rfl
@[simp] theorem State.noteReads_kcp (s : State) (rs : List (Nat × Nat)) : (s.noteReads rs).kcp = s.kcp := rfl
@[simp] theorem State.noteReads_ctxs (s : State) (rs : List (Nat × Nat)) : (s.noteReads rs).ctxs = s.ctxs := rfl
@[simp] theorem State.noteReads_fences (s : State) (rs : List (Nat × Nat)) : (s.noteReads rs).fences = s.fences := rfl
@[simp] theorem State.noteReads_arrays (s : State) (rs : List (Nat × Nat)) : (s.noteReads rs).arrays = s.arrays := rfl
@[simp] theorem State.noteReads_mem (s : State) (rs : List (Nat × Nat)) : (s.noteReads rs).mem = s.mem.noteAll rs := rfl
@[simp] theorem State.noteReads_fabric (s : State) (rs : List (Nat × Nat)) : (s.noteReads rs).fabric = s.fabric := rfl
@[simp] theorem State.noteReads_rtes (s : State) (rs : List (Nat × Nat)) : (s.noteReads rs).rtes = s.rtes := rfl
@[simp] theorem State.noteReads_structs (s : State) (rs : List (Nat × Nat)) : (s.noteReads rs).structs = s.structs := rfl
@[simp] theorem State.noteReads_fuus (s : State) (rs : List (Nat × Nat)) : (s.noteReads rs).fuus = s.fuus := rfl
@[simp] theorem State.noteReads_lnt (s : State) (rs : List (Nat × Nat)) : (s.noteReads rs).lnt = s.lnt := rfl
@[simp] theorem State.noteReads_faults (s : State) (rs : List (Nat × Nat)) : (s.noteReads rs).faults = s.faults := rfl
@[simp] theorem State.noteReads_power (s : State) (rs : List (Nat × Nat)) : (s.noteReads rs).power = s.power := rfl
@[simp] theorem State.noteReads_boot (s : State) (rs : List (Nat × Nat)) : (s.noteReads rs).boot = s.boot := rfl
@[simp] theorem State.noteReads_mgmt (s : State) (rs : List (Nat × Nat)) : (s.noteReads rs).mgmt = s.mgmt := rfl

/-! ### setChan -/

@[simp] theorem State.setChan_pending (s : State) (c : Nat) (x : Channel) : (s.setChan c x).pending = s.pending := rfl
@[simp] theorem State.setChan_free (s : State) (c : Nat) (x : Channel) : (s.setChan c x).free = s.free := rfl
@[simp] theorem State.setChan_out (s : State) (c : Nat) (x : Channel) : (s.setChan c x).out = s.out := rfl
@[simp] theorem State.setChan_kcp (s : State) (c : Nat) (x : Channel) : (s.setChan c x).kcp = s.kcp := rfl
@[simp] theorem State.setChan_ctxs (s : State) (c : Nat) (x : Channel) : (s.setChan c x).ctxs = s.ctxs := rfl
@[simp] theorem State.setChan_fences (s : State) (c : Nat) (x : Channel) : (s.setChan c x).fences = s.fences := rfl
@[simp] theorem State.setChan_arrays (s : State) (c : Nat) (x : Channel) : (s.setChan c x).arrays = s.arrays := rfl
@[simp] theorem State.setChan_mem (s : State) (c : Nat) (x : Channel) : (s.setChan c x).mem = s.mem.setChan c x := rfl
@[simp] theorem State.setChan_fabric (s : State) (c : Nat) (x : Channel) : (s.setChan c x).fabric = s.fabric := rfl
@[simp] theorem State.setChan_rtes (s : State) (c : Nat) (x : Channel) : (s.setChan c x).rtes = s.rtes := rfl
@[simp] theorem State.setChan_structs (s : State) (c : Nat) (x : Channel) : (s.setChan c x).structs = s.structs := rfl
@[simp] theorem State.setChan_fuus (s : State) (c : Nat) (x : Channel) : (s.setChan c x).fuus = s.fuus := rfl
@[simp] theorem State.setChan_lnt (s : State) (c : Nat) (x : Channel) : (s.setChan c x).lnt = s.lnt := rfl
@[simp] theorem State.setChan_faults (s : State) (c : Nat) (x : Channel) : (s.setChan c x).faults = s.faults := rfl
@[simp] theorem State.setChan_power (s : State) (c : Nat) (x : Channel) : (s.setChan c x).power = s.power := rfl
@[simp] theorem State.setChan_boot (s : State) (c : Nat) (x : Channel) : (s.setChan c x).boot = s.boot := rfl
@[simp] theorem State.setChan_mgmt (s : State) (c : Nat) (x : Channel) : (s.setChan c x).mgmt = s.mgmt := rfl

/-! ### alert -/

@[simp] theorem State.alert_pending (s : State) (bit : Nat) : (s.alert bit).pending = s.pending := rfl
@[simp] theorem State.alert_free (s : State) (bit : Nat) : (s.alert bit).free = s.free := rfl
@[simp] theorem State.alert_out (s : State) (bit : Nat) : (s.alert bit).out = s.out := rfl
@[simp] theorem State.alert_kcp (s : State) (bit : Nat) : (s.alert bit).kcp = s.kcp := rfl
@[simp] theorem State.alert_ctxs (s : State) (bit : Nat) : (s.alert bit).ctxs = s.ctxs := rfl
@[simp] theorem State.alert_fences (s : State) (bit : Nat) : (s.alert bit).fences = s.fences := rfl
@[simp] theorem State.alert_arrays (s : State) (bit : Nat) : (s.alert bit).arrays = s.arrays := rfl
@[simp] theorem State.alert_mem (s : State) (bit : Nat) : (s.alert bit).mem = s.mem := rfl
@[simp] theorem State.alert_fabric (s : State) (bit : Nat) : (s.alert bit).fabric = s.fabric := rfl
@[simp] theorem State.alert_rtes (s : State) (bit : Nat) : (s.alert bit).rtes = s.rtes := rfl
@[simp] theorem State.alert_structs (s : State) (bit : Nat) : (s.alert bit).structs = s.structs := rfl
@[simp] theorem State.alert_fuus (s : State) (bit : Nat) : (s.alert bit).fuus = s.fuus := rfl
@[simp] theorem State.alert_lnt (s : State) (bit : Nat) : (s.alert bit).lnt = s.lnt := rfl
@[simp] theorem State.alert_faults (s : State) (bit : Nat) : (s.alert bit).faults = s.faults := rfl
@[simp] theorem State.alert_power (s : State) (bit : Nat) : (s.alert bit).power = s.power := rfl
@[simp] theorem State.alert_boot (s : State) (bit : Nat) : (s.alert bit).boot = s.boot := rfl
@[simp] theorem State.alert_mgmt (s : State) (bit : Nat) : (s.alert bit).mgmt = { s.mgmt with alertCause := s.mgmt.alertCause ||| BitVec.ofNat 9 (2 ^ bit) } := rfl

/-! ### kcpDrop -/

@[simp] theorem State.kcpDrop_pending (s : State) : (s.kcpDrop).pending = s.pending := rfl
@[simp] theorem State.kcpDrop_free (s : State) : (s.kcpDrop).free = s.free := rfl
@[simp] theorem State.kcpDrop_out (s : State) : (s.kcpDrop).out = s.out := rfl
@[simp] theorem State.kcpDrop_kcp (s : State) : (s.kcpDrop).kcp = { s.kcp with drops := s.kcp.drops + 1 } := rfl
@[simp] theorem State.kcpDrop_ctxs (s : State) : (s.kcpDrop).ctxs = s.ctxs := rfl
@[simp] theorem State.kcpDrop_fences (s : State) : (s.kcpDrop).fences = s.fences := rfl
@[simp] theorem State.kcpDrop_arrays (s : State) : (s.kcpDrop).arrays = s.arrays := rfl
@[simp] theorem State.kcpDrop_mem (s : State) : (s.kcpDrop).mem = s.mem := rfl
@[simp] theorem State.kcpDrop_fabric (s : State) : (s.kcpDrop).fabric = s.fabric := rfl
@[simp] theorem State.kcpDrop_rtes (s : State) : (s.kcpDrop).rtes = s.rtes := rfl
@[simp] theorem State.kcpDrop_structs (s : State) : (s.kcpDrop).structs = s.structs := rfl
@[simp] theorem State.kcpDrop_fuus (s : State) : (s.kcpDrop).fuus = s.fuus := rfl
@[simp] theorem State.kcpDrop_lnt (s : State) : (s.kcpDrop).lnt = s.lnt := rfl
@[simp] theorem State.kcpDrop_faults (s : State) : (s.kcpDrop).faults = s.faults := rfl
@[simp] theorem State.kcpDrop_power (s : State) : (s.kcpDrop).power = s.power := rfl
@[simp] theorem State.kcpDrop_boot (s : State) : (s.kcpDrop).boot = s.boot := rfl
@[simp] theorem State.kcpDrop_mgmt (s : State) : (s.kcpDrop).mgmt = s.mgmt := rfl

/-! ### setHp: a choice of two ports -/

@[simp] theorem State.setHp_pending (s : State) (p : Fin 2) (x : HostPort) : (s.setHp p x).pending = s.pending := by
  simp only [State.setHp]; split <;> rfl
@[simp] theorem State.setHp_free (s : State) (p : Fin 2) (x : HostPort) : (s.setHp p x).free = s.free := by
  simp only [State.setHp]; split <;> rfl
@[simp] theorem State.setHp_out (s : State) (p : Fin 2) (x : HostPort) : (s.setHp p x).out = s.out := by
  simp only [State.setHp]; split <;> rfl
@[simp] theorem State.setHp_ctxs (s : State) (p : Fin 2) (x : HostPort) : (s.setHp p x).ctxs = s.ctxs := by
  simp only [State.setHp]; split <;> rfl
@[simp] theorem State.setHp_fences (s : State) (p : Fin 2) (x : HostPort) : (s.setHp p x).fences = s.fences := by
  simp only [State.setHp]; split <;> rfl
@[simp] theorem State.setHp_arrays (s : State) (p : Fin 2) (x : HostPort) : (s.setHp p x).arrays = s.arrays := by
  simp only [State.setHp]; split <;> rfl
@[simp] theorem State.setHp_mem (s : State) (p : Fin 2) (x : HostPort) : (s.setHp p x).mem = s.mem := by
  simp only [State.setHp]; split <;> rfl
@[simp] theorem State.setHp_fabric (s : State) (p : Fin 2) (x : HostPort) : (s.setHp p x).fabric = s.fabric := by
  simp only [State.setHp]; split <;> rfl
@[simp] theorem State.setHp_rtes (s : State) (p : Fin 2) (x : HostPort) : (s.setHp p x).rtes = s.rtes := by
  simp only [State.setHp]; split <;> rfl
@[simp] theorem State.setHp_structs (s : State) (p : Fin 2) (x : HostPort) : (s.setHp p x).structs = s.structs := by
  simp only [State.setHp]; split <;> rfl
@[simp] theorem State.setHp_fuus (s : State) (p : Fin 2) (x : HostPort) : (s.setHp p x).fuus = s.fuus := by
  simp only [State.setHp]; split <;> rfl
@[simp] theorem State.setHp_lnt (s : State) (p : Fin 2) (x : HostPort) : (s.setHp p x).lnt = s.lnt := by
  simp only [State.setHp]; split <;> rfl
@[simp] theorem State.setHp_faults (s : State) (p : Fin 2) (x : HostPort) : (s.setHp p x).faults = s.faults := by
  simp only [State.setHp]; split <;> rfl
@[simp] theorem State.setHp_power (s : State) (p : Fin 2) (x : HostPort) : (s.setHp p x).power = s.power := by
  simp only [State.setHp]; split <;> rfl
@[simp] theorem State.setHp_boot (s : State) (p : Fin 2) (x : HostPort) : (s.setHp p x).boot = s.boot := by
  simp only [State.setHp]; split <;> rfl
@[simp] theorem State.setHp_mgmt (s : State) (p : Fin 2) (x : HostPort) : (s.setHp p x).mgmt = s.mgmt := by
  simp only [State.setHp]; split <;> rfl

@[simp] theorem State.setHp_hp (s : State) (p : Fin 2) (x : HostPort) : (s.setHp p x).hp p = x := by
  simp only [State.setHp, State.hp]; split <;> rfl

theorem State.setHp_hp_ne (s : State) {p q : Fin 2} (x : HostPort) (h : q ≠ p) : (s.setHp p x).hp q = s.hp q := by
  simp only [State.setHp, State.hp]
  split <;> split <;> first | rfl | omega

/-! ### Entries after an update -/

theorem State.setCtx_ctx (s : State) (c d : Nat) (x : Ctx) : (s.setCtx c x).ctx d = if d = c then x else s.ctx d := by
  simp [State.ctx, State.setCtx, Tab.get_put_of]

theorem State.setArray_array (s : State) (c d : Nat) (x : ArrayUnit) : (s.setArray c x).array d = if d = c then x else s.array d := by
  simp [State.array, State.setArray, Tab.get_put_of]

theorem State.setRte_rte (s : State) (c d : Nat) (x : Rte) : (s.setRte c x).rte d = if d = c then x else s.rte d := by
  simp [State.rte, State.setRte, Tab.get_put_of]

theorem State.setFuu_fuu (s : State) (c d : Nat) (x : Fuu) : (s.setFuu c x).fuu d = if d = c then x else s.fuu d := by
  simp [State.fuu, State.setFuu, Tab.get_put_of]

theorem State.setPort_port (s : State) (c d : Nat) (x : Port) : (s.setPort c x).port d = if d = c then x else s.port d := by
  simp [State.port, State.setPort, Tab.get_put_of]

theorem State.onCtx_ctx (s : State) (c d : Nat) (f : Ctx → Ctx) : (s.onCtx c f).ctx d = if d = c then f (s.ctx c) else s.ctx d := by
  simp [State.ctx, State.onCtx, State.setCtx, Tab.get_put_of]

theorem State.onArray_array (s : State) (c d : Nat) (f : ArrayUnit → ArrayUnit) : (s.onArray c f).array d = if d = c then f (s.array c) else s.array d := by
  simp [State.array, State.onArray, State.setArray, Tab.get_put_of]

theorem State.onPort_port (s : State) (c d : Nat) (f : Port → Port) : (s.onPort c f).port d = if d = c then f (s.port c) else s.port d := by
  simp [State.port, State.onPort, State.setPort, Tab.get_put_of]

end Sys2Proof.Machine
end

