-- ==== Sys2Proof/Machine/Wire.lean ====
section
/-!
DEFINITION. The bytes of what the module sends, in the order in which they leave it: a KCP packet (R322, R323, R327, R328) and a KFT frame
with its Ethernet II header (R251, R252, R254, R255). The records of `Out` hold the fields; these functions are their layout on the wire.
The FCS is appended by the MAC.
-/
namespace Sys2Proof.Machine

open Sys2Proof

/-! ### KCP packets (R323) -/

/-- The 32-byte header, in network byte order (R10). -/
def kcpHeader (reply d2h : Bool) (context : BitVec 8) (opcode : W16) (sequence : W32) (len : Nat) (status : W16) (session : W32) : List Byte :=
  be 2 0x4B43 ++ be 1 1 ++ be 1 ((if reply then 0x80 else 0) + (if d2h then 0x40 else 0)) ++ be 1 context.toNat ++ be 1 0 ++
  be 2 opcode.toNat ++ be 4 sequence.toNat ++ be 4 len ++ be 2 status.toNat ++ be 2 0 ++ be 4 session.toNat ++ be 8 0

/-- Header and parameters, padded to whole words (R330), with their CRC-32C after them (R322). -/
def kcpPacket (reply d2h : Bool) (context : BitVec 8) (opcode : W16) (sequence : W32) (status : W16) (session : W32) (params : List Byte) : List Byte :=
  let body := kcpHeader reply d2h context opcode sequence (pad4 params).length status session ++ pad4 params
  body ++ be 4 (crc32c body).toNat

/-- A reply echoes CONTEXT, OPCODE, SEQUENCE and SESSION (R327). -/
def Reply.packet (r : Reply) : List Byte := kcpPacket true false r.context r.opcode r.sequence r.status r.session r.params

/-- A packet that the device originates has D2H set and REPLY clear (R328). -/
def Notice.packet (n : Notice) (session : W32) : List Byte := kcpPacket false true n.context n.opcode n.sequence 0 session n.params

/-! ### KFT frames (R254) -/

/-- The 14-byte Ethernet II header. -/
def EthHdr.packet (h : EthHdr) : List Byte := be 6 h.dst.toNat ++ be 6 h.src.toNat ++ be 2 h.etype.toNat

/-- A one-bit field. -/
def flagBit (b : Bool) (i : Nat) : Nat := if b then 2 ^ i else 0

/-- The eight 32-bit words of the KFT header: VER is 1, reserved bits are 0. -/
def TxFrame.header (f : TxFrame) : List Nat :=
  [2 ^ 28 + f.op.toNat * 2 ^ 20 + f.tc.toNat * 2 ^ 17 + f.dst.toNat,
   f.src.toNat * 2 ^ 16 + f.vc.toNat * 2 ^ 13 + flagBit f.first 12 + flagBit f.last 11 + flagBit f.ackv 10 + f.ackClass.toNat * 2 ^ 8 + f.age.toNat,
   f.seq.toNat * 2 ^ 8 + f.context.toNat % 64 * 2 ^ 2,
   f.ackSeq.toNat * 2 ^ 8 + f.stripe.toNat * 2 ^ 4,
   f.hopSeq.toNat * 2 ^ 16 + f.hopAck.toNat,
   f.payload.length * 2 ^ 16,
   f.arg.toNat / 2 ^ 32,
   f.arg.toNat % 2 ^ 32]

/-- Word 0 first, and bit 31 of each word in its first byte. -/
def TxFrame.headerBytes (f : TxFrame) : List Byte := f.header.flatMap (be 4)

/-- A frame up to its FCS, padded to the smallest frame of 802.3 (R250). -/
def TxFrame.packet (f : TxFrame) : List Byte := padTo 60 (f.eth.packet ++ f.headerBytes ++ f.payload)

/-- A link frame: it travels one hop, and the fields that do not apply to it hold their reset values (R254, R255; log entry 33). -/
def linkFrame (eth : EthHdr) (op : Byte) (hopAck : W16) (arg : W64) (payload : List Byte) : TxFrame :=
  { op := op, tc := 0, dst := 0, src := 0, vc := 0, first := false, last := false, seq := 0, context := 0, stripe := 0, arg := arg, hopSeq := 0
    payload := payload, hopAck := hopAck, eth := eth }

/-- The bytes of a KCP packet or a KFT frame that leaves the module; the board's other protocols have their own standards. -/
def Out.packet : Out → Option (List Byte)
  | .reply r => some r.packet
  | .notice session n _ => some (n.packet session)
  | .frame _ f => some f.packet
  | .link _ eth op hopAck arg payload => some (linkFrame eth op hopAck arg payload).packet
  | .arpReply _ _ _ | .icmpReply _ _ _ _ _ | .neighborAdvert _ _ | .dhcpRequest _ _ | .mgmtStatus _ | .mgmtRead _ => none

end Sys2Proof.Machine
end

