-- ==== Sys2Proof/WellFormed.lean ====
section
/-!
DEFINITION. Which commands can arrive: the bounds that the protocols put on an operand whose Lean type is wider.
-/
namespace Sys2Proof

/-- Parameter data of a KCP packet: whole 32-bit words, at most the row's limit (R323, R330). -/
def dataOk (limit : Nat) (d : List Byte) : Bool := decide (d.length ≤ limit) && decide (d.length % 4 = 0)

/-- The payload of a KFT frame is at most 8,192 bytes (R254). -/
def payloadOk (p : List Byte) : Bool := decide (p.length ≤ 8192)

/-- A Falcon-1024 public key as a command carries it: 1,793 bytes (R435). -/
def pubOk (p : List Byte) : Bool := decide (p.length = 1793)

/-- A Falcon-1024 signature in the padded format: 1,280 bytes (R429, R435). -/
def sigLenOk (p : List Byte) : Bool := decide (p.length = 1280)

/-- Well-formed commands. -/
def Instr.wellFormed : Instr → Bool
  | .memWrite _ _ d _ => dataOk 8184 d
  | .streamData _ _ _ d => dataOk 8180 d
  | .fwWrite _ _ d => dataOk 8184 d
  | .sessionOpen _ c g _ => (c.isEmpty && g.isEmpty) || (decide (c.length = 32) && sigLenOk g)
  | .ownerEnroll _ p => pubOk p
  | .ownerReplace _ p g _ => pubOk p && sigLenOk g
  | .ownerRemove _ g _ => sigLenOk g
  | .write _ p => payloadOk p
  | .readResp _ p => payloadOk p
  | .dispatch _ p => payloadOk p
  | .delta _ p => payloadOk p
  | .parity _ p => payloadOk p
  | .coll _ p => payloadOk p
  | .credit _ k => decide (k.length = 6)
  | _ => true

end Sys2Proof
end

