-- ==== Sys2Proof/Tests/Slice0.lean ====
section
/-!
SUPPORT. The model's own tests: ill-formed terms that the checks refuse, small steps with results computed from the manual, and for every
statement with hypotheses a state and operands that meet them, clause by clause.
-/
namespace Sys2Proof.Tests

open Sys2Proof Sys2Proof.Machine

set_option Elab.async false

/-! ### Small states -/

/-- A session in slot 0 that expects sequence number 5. -/
def sess : Session := { id := 7, addr := 1, udp := 2, port := 0, expected := 5 }

/-- A booted module with one session. -/
def up : State := { State.reset with
  boot := { State.reset.boot with stage := 10 }
  faults := { State.reset.faults with coreUp := true }
  kcp := { State.reset.kcp with sessions := [(0, sess)], hp0 := { up := true } } }

/-- The next command of that session, for the module and for context 5. -/
def hd : KcpHdr := { port := 0, srcAddr := 1, srcPort := 2, context := 0xFF, sequence := 5, session := 7 }
def hc : KcpHdr := { hd with context := 5 }

/-- The booted module with context 5 as given. -/
def withCtx (x : Ctx) : State := { up with ctxs := [(5, x)] }
def inState (st : CtxState) : State := withCtx { state := st }

/-! ### Ill-formed commands -/

theorem test_wf_memWrite : (Instr.memWrite hc 0 [1, 2, 3] []).wellFormed = false ∧
    (Instr.memWrite hc 0 (List.replicate 8188 0) []).wellFormed = false ∧ (Instr.memWrite hc 0 [1, 2, 3, 4] []).wellFormed = true := by decide +kernel
theorem test_wf_streamData : (Instr.streamData hc 0 0 (List.replicate 8184 0)).wellFormed = false := by decide +kernel
theorem test_wf_fwWrite : (Instr.fwWrite hd 0 [1]).wellFormed = false := by decide +kernel
theorem test_wf_sessionOpen : (Instr.sessionOpen hd [1] [] true).wellFormed = false ∧ (Instr.sessionOpen hd [] [] true).wellFormed = true := by
  decide +kernel
theorem test_wf_owner : (Instr.ownerEnroll hd [1]).wellFormed = false ∧ (Instr.ownerReplace hd [] [] true).wellFormed = false ∧
    (Instr.ownerRemove hd [1] true).wellFormed = false := by decide +kernel

def anyFrame : FrameHdr := { port := 0, dstMac := 0, dst := 0, src := 1, context := 5 }

theorem test_wf_payload :
    ([Instr.write anyFrame, .readResp anyFrame, .dispatch anyFrame, .delta anyFrame, .parity anyFrame, .coll anyFrame].map fun i =>
      ((i (List.replicate 8193 0)).wellFormed, (i (List.replicate 8192 0)).wellFormed)) = List.replicate 6 (false, true) := by decide +kernel
theorem test_wf_credit : (Instr.credit anyFrame [0, 0, 0, 0, 0]).wellFormed = false ∧ (Instr.credit anyFrame [0, 0, 0, 0, 0, 0]).wellFormed = true := by
  decide +kernel

/-! ### Witnesses: the block, its memory and its fuses -/

def oneByte : State := { up with pending := [.nanosecondFieldWrap], mem := { up.mem with bytes := [(64, 9)] } }

theorem witness_MemCanonicalKept : (∃ t, step oneByte = .next t) ∧ MemCanonical oneByte := ⟨⟨_, rfl⟩, by unfold MemCanonical; decide +kernel⟩
theorem witness_FusesKept : (∃ t, step oneByte = .next t) ∧ FusesLegal oneByte ∧
    (∃ s : State, s.boot.ownerState[0]? = some 3 ∧ s.boot.rollback = 64 ∧ FusesLegal s) :=
  ⟨⟨_, rfl⟩, by unfold FusesLegal; decide +kernel,
    ⟨{ up with boot := { up.boot with ownerState := [3, 1, 0, 0], rollback := 64 } }, by unfold FusesLegal; decide +kernel⟩⟩
theorem witness_BuffersWfKept : (∃ t, step oneByte = .next t) ∧ BuffersWf oneByte.mem := by
  refine ⟨⟨_, rfl⟩, ?_⟩
  intro k es h
  cases h

/-! ### Witnesses: the order of packets and the checks (R324, R325, R331) -/

theorem witness_PacketChecks : up.hears { hd with badCrc := true } = true ∧ ({ hd with badCrc := true }).badCrc = true ∧ hd.badCrc = false ∧
    up.kcpSlot { hd with session := 8 } = none := by decide +kernel

/-- Sequence 4 is behind by 1, the nearest duplicate; 5 − 256 is the farthest. -/
theorem witness_DuplicateNotExecuted : up.hears hd = true ∧ up.kcpSlot { hd with sequence := 4 } = some 0 ∧ up.session? 0 = some sess ∧
    (sess.expected - 4).toNat = 1 ∧ (sess.expected - (5 - 256 : W32)).toNat = 256 := by decide +kernel
theorem witness_ReplyBooks : up.session? 0 = some sess := by decide +kernel

/-- A command of each class that the row of a state refuses. -/
theorem witness_StateRefuses : up.kcpNext hc 0 = true ∧ (up.ctx (hctx hc)).state = .free ∧
    ((inState .faulted).ctx (hctx hc)).state = .faulted ∧ (inState .faulted).kcpNext hc 0 = true ∧
    [CmdClass.destroy, .query, .memRead, .snapshot, .recovery, .recoverBegin].contains CmdClass.memory = false ∧
    ((inState .running).ctx (hctx hc)).state = .running ∧ ((inState .holding).ctx (hctx hc)).state = .holding ∧
    (inState .running).kcpNext hc 0 = true ∧
    [CmdClass.query, .memRead, .memory, .fence, .stepControl, .purge, .priority, .solver, .recoverBegin].contains CmdClass.destroy = false ∧
    Status.noContext.rank ≤ Status.noContext.rank ∧ Status.ctxFaulted.rank ≤ Status.busy.rank := by decide +kernel

/-! ### Witnesses: device commands (R333, R416, R419) -/

theorem witness_DeviceCommandsRun : devReady up hd 0 0x0101 = true ∧ devReady up hd 0 0x0103 = true ∧ settingKnown 4 = true ∧
    devReady up hd 0 0x0102 = true ∧ settingOk 4 0x88B5 = true ∧ up.allPortsDown = true ∧ up.runRefused 0 = false ∧
    devReady up hd 0 0x0104 = true ∧ (15 : BitVec 8).toNat < 16 ∧ ((2 ^ 20 - 1 : W32)).toNat < 2 ^ 20 := by decide +kernel

def locked : State := { up with power := { up.power with pps := .locked } }
def asleep : State := { up with power := { up.power with pstate := .sleep } }

theorem witness_PowerTimeResetRun : devReady up hd 0 0x0102 = true ∧ up.power.pwState = .run ∧ up.busyContext = false ∧
    devReady asleep hd 0 0x0102 = true ∧ asleep.power.pwState = .sleep ∧ up.kcpNext hd 0 = true ∧
    devReady locked hd 0 0x0105 = true ∧ locked.power.pps = .locked ∧ ((2 ^ 34 - 1 : W64)).toNat < 2 ^ 34 ∧
    devReady up hd 0 0x0105 = true ∧ up.power.pps ≠ .locked ∧ devReady up hd 0 0x0106 = true := by decide +kernel

/-! ### Witnesses: contexts and sessions (R329, R335, R336, R362) -/

theorem witness_ContextCommandsRun : ctxReady up hc 0 0x0201 [.free] = true ∧ (7 : BitVec 8).toNat < 8 ∧ (15 : BitVec 8).toNat < 16 ∧
    ctxReady (inState .faulted) hc 0 0x0202 [.created, .loaded, .held, .faulted] = true ∧
    ctxReady (inState .purging) hc 0 0x0203 anyHeld = true ∧
    ctxReady (inState .holding) hc 0 0x0204 [.created, .loaded, .running, .holding, .held] = true ∧
    ctxReady (inState .held) hc 0 0x0205 [.created, .loaded, .running, .holding, .held] = true ∧
    [CtxState.created, .loading, .loaded, .running, .holding, .held].contains ((inState .loading).ctx 5).state = true := by decide +kernel

def opening : KcpHdr := { hd with session := 0, sequence := 0 }
def owned : State := { up with boot := { up.boot with ownerState := [1, 0, 0, 0] } }

theorem witness_SessionCommandsRun : up.hears opening = true ∧ opening.badCrc = false ∧ opening.session = 0 ∧ opening.sequence = 0 ∧
    opening.context = 0xFF ∧ up.ownerActive = false ∧ up.freeSlot = some 1 ∧ owned.ownerActive = true ∧ owned.hears opening = true ∧
    devReady up hd 0 0x0902 = true ∧ up.session? 0 = some sess ∧ sess.id = hd.session := by decide +kernel

def note : Notice := { opcode := 0x08F0, context := 0xFF, sequence := 5, params := [] }
def waitingNote : State := { up with kcp := { up.kcp with sessions := [(0, { sess with unacked := [note] })] } }

theorem witness_SessionEventsRun : up.hears hd = true ∧ hd.badCrc = false ∧ waitingNote.kcpSlot hd = some 0 ∧
    waitingNote.session? 0 = some { sess with unacked := [note] } ∧ ({ sess with unacked := [note] }).waiting = [] ∧
    hd.reserved = false ∧ (waitingNote.setSession 0 { sess with unacked := [], port := hd.port }).readyStream { sess with unacked := [], port := hd.port } = none ∧
    [note].find? (fun n => n.sequence = 5) = some note ∧ waitingNote.hostUp = true ∧ waitingNote.faults.coreUp = true := by decide +kernel

/-! ### Witnesses: host ports and their network (R320 to R322) -/

theorem witness_HostLinkRun : up.hostSide = true ∧ (up.hp 1).up = false ∧ (up.hp 0).up = true ∧ (up.hp 0).rate100 = false ∧
    (({ up with kcp := { up.kcp with hp0 := { up := true, rate100 := true } } } : State).hp 0).rate100 = true ∧
    (({ up with kcp := { up.kcp with hp0 := { up := true, rate100 := true, lane1Lost := true } } } : State).hp 0).lane1Lost = true := by decide +kernel

def addressed : State := { up with kcp := { up.kcp with hp0 := { up := true, ipv4 := some (0x0A000001, 24), ipv6 := [9] } } }

theorem witness_HostNetworkRun : (up.hp 0).up = true ∧ up.setting (0x20 + (0 : Fin 2).val) = 0 ∧
    (up.hp 0).ipv6.contains ((3 : BitVec 64) ++ interfaceId (up.hostMac 0)) = false ∧ (addressed.hp 0).up = true ∧
    (addressed.hp 0).ipv6.contains 9 = true ∧ (addressed.hp 0).ipv4 = some (0x0A000001, 24) ∧ up.kcpUp 0 = true ∧ up.kcpNext hd 0 = true := by
  decide +kernel

/-! ### Witnesses: identity, firmware and owner keys (R434 to R440) -/

theorem witness_IdentityCommandsRun : devReady up hd 0 0x0910 = true ∧ devReady up hd 0 0x0911 = true ∧ devReady up hd 0 0x0912 = true ∧
    ctxReady (inState .created) hc 0 0x0912 anyHeld = true := by decide +kernel
/-! ### A firmware slot that is valid (R428 to R430) -/

/-- Byte of a slot header: magic, version 1, SVN 3, a one-byte image, no flags, the digest `d` of the image, and zeros. -/
def headerByte (d : List Byte) (i : Nat) : Byte :=
  if i < 16 then (le 4 0x4C454F58 ++ le 2 1 ++ le 2 3 ++ le 4 1 ++ le 4 0).getD i 0 else if i < 48 then d.getD (i - 16) 0 else 0

/-- The slot: that header, and an image of one erased byte, 0xFF. -/
def goodSlot : FwSlot := { bytes := (List.range' 0 8192).map fun i => (i, headerByte (le 32 (digestOf [0xFF]).toNat) i) }

theorem find_listed {α : Type} (f : Nat → α) (n s k : Nat) (h1 : s ≤ k) (h2 : k < s + n) :
    Tab.find? ((List.range' s n).map fun i => (i, f i)) k = some (f k) := by
  induction n generalizing s with
  | zero => omega
  | succ n ih =>
    rw [List.range'_succ, List.map_cons, Tab.find?]
    split
    · next h => rw [h]
    · exact ih (s + 1) (by omega) (by omega)

theorem goodSlot_read (o n : Nat) (h : o + n ≤ 8192) :
    goodSlot.read o n = (List.range n).map fun i => headerByte (le 32 (digestOf [0xFF]).toNat) (o + i) := by
  unfold FwSlot.read
  refine List.map_congr_left fun i hi => ?_
  have hi := List.mem_range.1 hi
  unfold Tab.get goodSlot
  rw [find_listed _ _ _ _ (by omega) (by omega)]
  rfl

theorem goodSlot_image : goodSlot.read 0x2000 1 = [0xFF] := by
  have h : Tab.find? goodSlot.bytes 8192 = none := by
    refine Option.eq_none_iff_forall_ne_some.2 fun v hv => ?_
    obtain ⟨i, hi, he⟩ := List.mem_map.1 (Tab.mem_of_find? hv)
    have h1 := (List.mem_range'_1.1 hi).2
    have h2 : i = 8192 := congrArg Prod.fst he
    omega
  simp [FwSlot.read, Tab.get, h]

theorem leNat_le (n v : Nat) : leNat (le n v) = v % 256 ^ n := by
  induction n generalizing v with
  | zero => simp [le, leNat, Nat.mod_one]
  | succ n ih => rw [le, leNat, ih, Nat.pow_succ', BitVec.toNat_ofNat, Nat.mod_mul]

theorem goodSlot_digest : goodSlot.imageDigest = digestOf [0xFF] := by
  have h : ∀ x : Nat, ((List.range 32).map fun i => headerByte (le 32 x) (0x10 + i)) = le 32 x := fun x => rfl
  unfold FwSlot.imageDigest FwSlot.nat
  rw [goodSlot_read _ _ (by omega), h, leNat_le]
  refine BitVec.eq_of_toNat_eq ?_
  have := (digestOf [0xFF]).isLt
  rw [BitVec.toNat_ofNat]
  omega

/-- A module whose fuses hold the digest of the slot's vendor key, with a firmware update of slot B begun. -/
def flashed : State := { up with boot := { up.boot with slotA := goodSlot, slotB := goodSlot, vendorKey := digestOf (goodSlot.read 0x40 1793) } }
def updating : State := { flashed with boot := { flashed.boot with fwUpdate := some (1, 8193) } }

theorem flashed_slot_valid : flashed.boot.slotValidNow goodSlot true = true := by
  have hn (o n v : Nat) (h : o + n ≤ 8192) (hv : leNat ((List.range n).map fun i => headerByte (le 32 (digestOf [0xFF]).toNat) (o + i)) = v) :
      goodSlot.nat o n = v := by rw [FwSlot.nat, goodSlot_read o n h, hv]
  have h8 := hn 8 4 1 (by omega) (by decide +kernel)
  have hc := hn 0xC 4 0 (by omega) (by decide +kernel)
  have h0 := hn 0 4 0x4C454F58 (by omega) (by decide +kernel)
  have h4 := hn 4 2 1 (by omega) (by decide +kernel)
  have h6 := hn 6 2 3 (by omega) (by decide +kernel)
  have z1 : (goodSlot.read 0x30 16).all (· = 0) = true := by rw [goodSlot_read _ _ (by omega)]; decide +kernel
  have z2 : (goodSlot.read 0x741 0xBF).all (· = 0) = true := by rw [goodSlot_read _ _ (by omega)]; decide +kernel
  have z3 : (goodSlot.read 0x1200 0xE00).all (· = 0) = true := by rw [goodSlot_read _ _ (by omega)]; decide +kernel
  have hr : flashed.boot.rollback = 0 := rfl
  have ho : flashed.boot.activeOwner = none := by decide +kernel
  have hk : digestOf (goodSlot.read 0x40 1793) = flashed.boot.vendorKey := rfl
  simp only [Boot.slotValidNow, FwSlot.svn, h8, hc, h0, h4, h6, z1, z2, z3, hr, ho, hk, goodSlot_image, goodSlot_digest]
  decide +kernel

theorem witness_FirmwareCommandsRun : devReady up hd 0 0x0920 = true ∧ (1 : BitVec 8).toNat < 2 ∧ (1 : BitVec 8).toNat ≠ up.boot.booted.val ∧
    8192 ≤ (8193 : W32).toNat ∧ (50339840 : W32).toNat ≤ 50339840 ∧ devReady updating hd 0 0x0921 = true ∧
    updating.boot.fwUpdate = some (1, 8193) ∧ (8189 : W32).toNat + ([1, 2, 3, 4] : List Byte).length ≤ 8193 ∧
    devReady updating hd 0 0x0922 = true ∧ updating.boot.slotValidNow (updating.boot.slot? 1) true = true ∧
    devReady flashed hd 0 0x0923 = true ∧ flashed.boot.slotValidNow (flashed.boot.slot? (1 : BitVec 8).toNat) true = true ∧
    flashed.boot.fwUpdate = none ∧ devReady up hd 0 0x0924 = true := by
  refine ⟨by decide, by decide, by decide, by decide, by decide, by decide, rfl, by decide, by decide, flashed_slot_valid, by decide,
    flashed_slot_valid, rfl, by decide⟩

def enrolling : State := { up with mgmt := { up.mgmt with enrollEn := true } }

theorem witness_OwnerCommandsRun : devReady enrolling hd 0 0x0930 = true ∧ enrolling.mgmt.enrollEn = true ∧ enrolling.ownerActive = false ∧
    enrolling.boot.unusedOwner = some 0 ∧ devReady owned hd 0 0x0931 = true ∧ devReady owned hd 0 0x0932 = true ∧ owned.ownerActive = true ∧
    owned.boot.activeOwner = some 0 ∧ owned.boot.unusedOwner = some 1 := by decide +kernel

/-! ### Witnesses: faults (R359 to R374) -/

def faulted : State := withCtx { state := .faulted, snapshot := List.replicate 8 1 }

theorem witness_FaultReadsRun : devReady up hd 0 0x0801 = true ∧ ctxReady faulted hc 0 0x0801 anyHeld = true ∧
    ctxReady faulted hc 0 0x0802 [.faulted] = true ∧ badSpan 4 4 ((faulted.ctx (hctx hc)).snapshot.length) = false ∧
    devReady up hd 0 0x0803 = true ∧ badSpan 0 4 (4 * vaultSlotBytes) = false ∧ up.mem.poisonIn (vaultBase + 0) 4 = none ∧
    devReady up hd 0 0x0822 = true ∧ up.faults.dump = none := by decide +kernel

def slotted : State := { up with boot := { up.boot with slotValid := true, slot := { spare := true } } }

theorem witness_FaultControlRun : devReady up hd 0 0x0820 = true ∧ engineOf 0 191 = some (.array 191) ∧ devReady up hd 0 0x0821 = true ∧
    dieOf 2 3 = some (.io 3) ∧ devReady up hd 0 0x0812 = true ∧ (21503 : W16).toNat < 21504 ∧ (4 : BitVec 8).toNat < 5 ∧
    (32767 : W16).toNat < 2 ^ 15 ∧ devReady slotted hd 0 0x0813 = true ∧ slotted.boot.slotValid = true ∧ slotted.boot.slot.spare = true ∧
    (∀ e ∈ slotted.ctxs, e.2.state = .free) := by decide +kernel

def dumping : State := { up with faults := { up.faults with dump := some { slot := 0, seq := 0, cause := 1, time := 0 }, dies := [.io 3] } }

theorem witness_DumpAndDieRun : dumping.faults.dump = some { slot := 0, seq := 0, cause := 1, time := 0 } ∧
    dumping.faults.dies.contains (.io 3) = true := by decide +kernel
theorem witness_CoreRestartsRun : up.faults.coreUp = true ∧
    (up.startRestart .watchdog).faults.restart = some .watchdog := by decide +kernel

/-! ### Witnesses: power, clocks and time (R399 to R419) -/

def throttled : State := { up with power := { up.power with throttle := true, cut := true } }
/-- The compute dies' run enables are set. -/
def lit (s : State) : State := { s with power := { s.power with enables := 0xFF } }
def stopped : State := { up with power := { up.power with railsDown := true } }

/-- The thresholds of 62.0, 58.0, 60.0 and 80.0 V at their last readings in 10 mV. -/
theorem witness_InputConditionsRun : up.powered = true ∧ up.power.throttle = false ∧ (6199 : W16).toNat < 6200 ∧ throttled.powered = true ∧
    throttled.power.throttle = true ∧ 6200 ≤ (6200 : W16).toNat ∧ up.power.cut = false ∧ (5799 : W16).toNat < 5800 ∧
    throttled.power.cut = true ∧ 6000 ≤ (6000 : W16).toNat ∧ 8000 < (8001 : W16).toNat ∧ (10000 : W32).toNat ≤ 10000 := by decide +kernel
theorem witness_OrderlyStopsRun : up.powered = true ∧ 8000 < (8001 : W16).toNat ∧ 9000 < (9001 : W16).toNat ∧ throttled.powered = true ∧
    throttled.power.cut = true ∧ 110 < 111 ∧ up.power.railsDown = false ∧ stopped.power.railsDown = true := by decide +kernel
def celsius (t : Nat) : PowerReading :=
  { pAvg10ms := 0, tMax := t, tSensor := 0, coolMs := 1000, iThrottle := 7, envLevel := 7, capLevel := 7 }

theorem witness_PowerControlRun : up.powered = true ∧ up.power.cut = false ∧ throttled.powered = true ∧ throttled.power.cut = true ∧ 3800 < 3801 ∧
    (celsius 110).tMax ≤ 110 ∧ 95 < (celsius 96).tMax ∧ 5 < thermalLimit 5 (celsius 89) ∧ 7 ≤ 7 := by decide +kernel

def pulsed : State := { up with power := { up.power with pps := .locked, nanos := 999800000, ppsSince := 0 } }
def relocking : State := { up with power := { up.power with cdPll := [(0, { ready := false })] } }
/-- Compute die 7 lost lock at time 0; the clock stands 60 s later, the last instant at which a second loss resets the die. -/
def lostOnce (t : Nat) : State := { up with power := { up.power with lastLoss := [(7, 0)], ticks := ticksOf 60 + t } }
def refReady : State := { up with power := { up.power with reference := { ready := true } } }
def midSecond : State := { pulsed with power := { pulsed.power with nanos := 500000000 } }
def secondsWait (p : PpsState) : State := { up with power := { up.power with pps := p, pendSec := some 9 } }

/-- For each clause, a clock or an edge at the edge of its range: an edge 200 µs before its place is the farthest that is accepted. -/
theorem witness_ClocksTimeRun : (({} : ClockRef).ready = false ∧ ([0, 0, 0, 0, 0, 0] : List Nat).length < 7 ∧
    ({ windows := List.replicate 7 100 } : ClockRef).windows.length = 7 ∧ up.power.reference.ready = false ∧
    refReady.power.reference.ready = true ∧ Pll.management ≠ .reference ∧ (-501 : Int) < -500 ∧ (-500 : Int) ≤ -500 ∧ (-500 : Int) ≤ 500 ∧
    ({ ready := true } : ClockRef).ready = true ∧ up.powered = true ∧ Tab.find? up.power.lastLoss (7 : Fin 8) = none ∧
    ((Tab.find? (lostOnce 1).power.lastLoss (7 : Fin 8)).all fun t => decide (t + ticksOf 60 < (lostOnce 1).power.ticks)) = true ∧
    Tab.find? (lostOnce 0).power.lastLoss (7 : Fin 8) = some 0 ∧ (lostOnce 0).power.ticks ≤ 0 + ticksOf 60) ∧
    (Tab.get {} relocking.power.cdPll (0 : Fin 8)).ready = false ∧
    (Tab.get {} (relocking.power.setPll (.dvfs 0) { ready := true }).cdPll (0 : Fin 8)).ready = true ∧ up.power.pps = .free ∧
    pulsed.powered = true ∧ pulsed.power.pps ≠ .free ∧ pulsed.power.edgeError.natAbs ≤ 200000 ∧
    within (pulsed.power.ppsSince + 999800000) 1000000000 200000 = true ∧ within (pulsed.power.ppsSince + 999799999) 1000000000 200000 = false ∧
    200000 < midSecond.power.edgeError.natAbs ∧ up.power.pendSec = none ∧ pulsed.power.pps = .locked ∧ up.power.pps ≠ .locked ∧
    (secondsWait .free).power.pendSec = some 9 ∧ (secondsWait .free).power.pps ≠ .locked ∧ (secondsWait .locked).power.pps = .locked := by
  decide +kernel

/-! ### Witnesses: boot, resets and the management bus (R427 to R461) -/

/-- A boot that waits at step 2 for the reference, which has qualified since; and a module whose orderly stop is over. -/
def waitsRef : State := { refReady with boot := { refReady.boot with stage := 2 } }
def downed : State := { stopped with boot := { stopped.boot with stage := 12 } }

theorem witness_BootRun : State.reset.boot.stage = 0 ∧ State.reset.mgmt.resetLow = false ∧ waitsRef.boot.stage = 2 ∧
    waitsRef.power.reference.ready = true ∧ waitsRef.mgmt.resetLow = false ∧ downed.boot.stage = 12 ∧ downed.power.railsDown = true ∧
    downed.mgmt.resetLow = false ∧ up.mem.busy = none ∧ up.powered = true ∧
    up.mgmt.resetLow = false ∧ ({ romOk := false } : BootInputs).romOk = false ∧ ({ refOk := false } : BootInputs).romOk = true ∧
    ({ refOk := false } : BootInputs).refOk = false ∧ ({ sigOkA := false, sigOkB := false } : BootInputs).sigOkB = false := by decide +kernel

def held : State := { up with mgmt := { up.mgmt with resetLow := true } }

theorem witness_ResetsRun : up.busUp = true ∧ up.powered = true ∧ held.powered = true ∧ held.mgmt.resetLow = true ∧ 0 < hbmEnd := by decide +kernel
theorem witness_ResetPinRule : held.powered = true ∧ held.mgmt.resetLow = true ∧ held.mem.busy = none ∧ devReady up hd 0 0x0106 = true ∧
    up.powered = true ∧ up.mgmt.resetLow = false ∧ (up.startStop .thermal).power.stopCause ≠ none := by decide +kernel

def recov : State := { up with boot := { up.boot with stage := 11, recovery := true } }
def addressedBus : State := { up with mgmt := { up.mgmt with dynAddr := some 0x30 } }

theorem witness_ManagementBusRun : up.busUp = true ∧ 63 < 64 ∧ 62 < 63 ∧ up.mgmt.dynAddr = none ∧
    addressedBus.mgmt.dynAddr = some 0x30 ∧ held.busUp = false := by decide +kernel
theorem witness_RecoveryFlashRun : recov.recovering = true := by decide +kernel

/-! ### Witnesses: HBM channels and memory (R288 to R309, R352 to R355) -/

def queued : State := { up with mem := { up.mem with chans := [(3, { state := .retrainQueued }), (4, { state := .relocating })], queue := [3] } }
def training : State := { up with mem := { up.mem with chans := [(3, { state := .retraining })], busy := some 3 } }
def buffered : State := { up with mem := { up.mem with wcb := [(0, [{ sector := 0, bytes := [(0, 1)], age := 800 }])] } }
def sixteenFenced : State := { up with mem := { up.mem with chans := (List.range' 8 16).map fun c => (c, { state := .fenced }) } }

theorem witness_ChannelsRun : (up.mem.chan (0 : Fin 1024)).state = .active ∧ up.firmware = true ∧ queued.firmware = true ∧ (queued.mem.chan (3 : Fin 1024)).state = .retrainQueued ∧
    devReady up hd 0 0x0804 = true ∧ (1023 : W16).toNat < 1024 ∧ (up.mem.chan (1023 : W16).toNat).state = .active ∧ queued.mem.busy = none ∧
    queued.mem.queue = [3] ∧ training.mem.busy = some 3 ∧ (training.mem.chan (3 : Fin 1024)).state ≠ .active ∧
    (((Tab.get [] buffered.mem.wcb (0 : Fin 32)).take wcbDepth).find? fun e => e.due && buffered.mem.evictable e).isSome = true ∧ 16 < 17 ∧ up.mem.fencedCount < 16 ∧
    16 ≤ sixteenFenced.mem.fencedCount ∧ (sixteenFenced.mem.chan (0 : Fin 1024)).state = .active ∧
    (queued.mem.chan (4 : Fin 1024)).state = .relocating ∧ (queued.mem.chan (4 : Fin 1024)).paused = false := by decide +kernel

theorem wf_buffered : BuffersWf buffered.mem := by
  intro k es h
  simp only [buffered, List.mem_singleton, Prod.mk.injEq] at h
  obtain ⟨rfl, rfl⟩ := h
  decide +kernel

/-- Two writes that overlap, over a buffer that holds a byte of the same sector. -/
theorem witness_WriteVisible : BuffersWf buffered.mem ∧ ([5, 6] : List Byte)[1]? = some 6 ∧ buffered.mem.placed = [] ∧
    (∀ j < 2, buffered.mem.home (1 + j) = buffered.mem.home (1 + 1) → j = 1) ∧ (∀ j < 2, buffered.mem.home (0 + j) = buffered.mem.home (0 + 0) → j = 0) ∧
    (∀ j < 2, buffered.mem.home (1 + j) ≠ buffered.mem.home (0 + 0)) ∧ (∀ j < 2, buffered.mem.home (0 + j) ≠ buffered.mem.home 4) ∧
    (∀ j < 2, buffered.mem.home (1 + j) ≠ buffered.mem.home 4) := ⟨wf_buffered, by decide +kernel⟩

/-- Context 5 in a state, with 4 KiB of memory granted at 0, and fence 3 its own. -/
def granted (st : CtxState) : State :=
  { withCtx { state := st, regions := [(0, 0, 4096)] } with fences := [(3, { owner := 5, value := 7, init := 0, stride := 0, host := true })] }

theorem witness_GrantRun : ctxReady (inState .created) hc 0 0x0301 [.created, .loaded, .running, .holding, .held] = true ∧
    (∀ c ∈ memGrantChecks hc 0 0x200000 (inState .created), c.1 = false) ∧
    ctxReady (granted .created) hc 0 0x0302 [.created, .loaded, .running, .holding, .held] = true ∧
    (((granted .created).ctx (hctx hc)).granted.find? (fun r => r.1 = (0 : W16).toNat)) = some (0, 0, 4096) ∧
    (granted .created).rangeUsed (hctx hc) 0 4096 = false := by decide +kernel

theorem wf_granted (st : CtxState) : BuffersWf (granted st).mem := by
  intro k es h
  cases h

theorem witness_HostMemoryRun : (ctxReady (granted .running) hc 0 0x0303 [.created, .loaded, .running, .holding, .held] = true ∧
    ([1, 2, 3, 4] : List Byte).length ≤ 8184 ∧ ([1, 2, 3, 4] : List Byte).length % 4 = 0 ∧
    (∀ c ∈ (granted .running).hostRange (hctx hc) 4092 4 false, c.1 = false) ∧ 
    ctxReady (granted .faulted) hc 0 0x0304 [.created, .loading, .loaded, .running, .holding, .held, .faulted] = true ∧
    4 ≤ (4096 : W32).toNat ∧ (8188 : W32).toNat ≤ 8188 ∧ (4096 : W32).toNat % 4 = 0 ∧ (granted .faulted).mem.poisonIn 0 4096 = none ∧
    (∀ c ∈ (granted .faulted).hostRange (hctx hc) 0 (4096 : W32).toNat true, c.1 = false) ∧
    ctxReady (granted .held) hc 0 0x0305 [.created, .loaded, .running, .holding, .held] = true ∧
    (∀ c ∈ (granted .held).hostRange (hctx hc) 0 (4096 : W64).toNat false, c.1 = false) ∧ (4096 : W64).toNat % 4 = 0 ∧
    (granted .held).holds (hctx hc) (3 : W16).toNat = true ∧ (3 : W16) ≠ 0xFFFF) ∧ BuffersWf (granted .running).mem ∧
    BuffersWf (granted .held).mem ∧ (granted .running).mem.placed = [] ∧ (granted .held).mem.placed = [] :=
  ⟨by decide +kernel, wf_granted _, wf_granted _, rfl, rfl⟩

/-- The session with a host-to-device stream 2 of 64 bytes. -/
def streaming : State :=
  let s : Session := { sess with streams := [{ number := 2, context := 5, toHost := false, addr := 0, bytes := 64 }] }
  { granted .created with kcp := { up.kcp with sessions := [(0, s)] } }

theorem witness_StreamsRun : ctxReady (granted .created) hc 0 0x0306 [.created, .loaded, .running, .holding, .held] = true ∧
    (∀ c ∈ streamOpenChecks hc 2 0 0 64 (granted .created), c.1 = false) ∧ (granted .created).session? 0 = some sess ∧
    (granted .created).readyStream sess = none ∧ ctxReady streaming hc 0 0x0307 [.created, .loaded, .running, .holding, .held] = true ∧
    (∀ c ∈ streamDataChecks hc 2 60 [1, 2, 3, 4] streaming, c.1 = false) ∧ streaming.fetchOf hc (2 : BitVec 8).toNat = none ∧
    (streaming.streamOf hc (2 : BitVec 8).toNat).isSome = true ∧ streaming.stateBusy (hctx hc) 0 64 true = false ∧
    ((streaming.streamOf hc (2 : BitVec 8).toNat).map fun x => (x.addr, x.bytes)) = some (0, 64) ∧ (2 : Fin 32).val < 16 ∧
    ctxReady streaming hc 0 0x0308 [.created, .loading, .loaded, .running, .holding, .held, .faulted] = true ∧
    (∀ c ∈ closedChecks (streaming.streamOf hc (2 : BitVec 8).toNat), c.1 = false) ∧
    (streaming.streamSpans hc (2 : BitVec 8).toNat).any (fun r => (streaming.mem.poisonIn r.1 r.2).isSome) = false ∧
    ((streaming.session? (0 : Fin 16)).map fun x => (x.streams.find? (fun t => t.number = (2 : Fin 32).val && t.isOpen)).isSome) = some true := by
  decide +kernel

/-! ### A program in memory: one axis of one module, one stage, one grid of one fence task (R224, R231, R337, R340, R341) -/

def dirWord (kind arg count : Nat) : W64 := BitVec.ofNat 64 (kind * 2 ^ 48 + arg * 2 ^ 32 + count)
/-- An axis word with no cut, LEN 1 and FOLD_LEN 1. -/
def noAxis : W64 := BitVec.ofNat 64 (7 * 2 ^ 61 + 7 * 2 ^ 58 + 2 ^ 51 + 2 ^ 44)
def programWords : List (Nat × W64) :=
  [(0x00, dirWord 1 0 1), (0x08, 0x80), (0x10, dirWord 2 0 1), (0x18, 0xC0), (0x20, dirWord 3 0 1), (0x28, 0x100), (0x30, dirWord 7 1 1),
   (0x38, 0x140), (0x40, dirWord 8 0 0),
   -- the layout: NAXES 1; each of the five axes with no cut, LEN 1, FOLD_LEN 1; H and the five logical lengths 1
   (0x80, BitVec.ofNat 64 (2 ^ 60)), (0x88, noAxis), (0x90, noAxis), (0x98, noAxis), (0xA0, noAxis), (0xA8, noAxis),
   (0xB0, BitVec.ofNat 64 (2 ^ 57 + 2 ^ 50 + 2 ^ 43 + 2 ^ 36 + 2 ^ 29 + 2 ^ 22))] ++
  [-- the placement: one micro-batch, MAX_LIVE 16, the stage table at 0x120 with one entry
   (0xC0, BitVec.ofNat 64 (2 ^ 48 + 16 * 2 ^ 32)), (0xC8, 0x120), (0xD0, BitVec.ofNat 64 (2 ^ 32)),
   -- the update record: UNDO_MIB 16, one rate of learning
   (0x100, BitVec.ofNat 64 (16 * 2 ^ 32)), (0x110, BitVec.ofNat 64 (2 ^ 32)), (0x120, BitVec.ofNat 64 (2 ^ 36)),
   -- a grid of fence tasks and its task
   (0x140, BitVec.ofNat 64 (5 * 2 ^ 60)), (0x150, 0x180), (0x180, BitVec.ofNat 64 (5 * 2 ^ 60))]

def programBytes : Memory := programWords.foldl (fun m e => Memory.writes m e.1 (le 8 e.2.toNat)) []

/-- Context 5 with 4 KiB of memory that holds those structures. -/
def programmed (x : Ctx) : State := { withCtx { x with regions := [(0, 0, 4096)] } with mem := { up.mem with bytes := programBytes } }
def loadReq : LoadReq := { session := 7, dir := 0, entries := 5 }
def loadingState : State := programmed { state := .loading, load := some loadReq }
def prog : Program := loadingState.mem.readProgram (loadingState.ctx 5) 0 5

/-- The same context with the program loaded. -/
def loadedCtx (x : Ctx) : State := programmed { x with program := some prog }

/-- With no other program every slot is free, and a run of two begins at slot 0. -/
theorem slots_free (s : State) (c : Nat) (ho : s.otherPrograms c = []) : s.slotRun c 2 = (some 0, 4096) := by
  unfold State.slotRun
  simp only [ho, List.map_nil, List.any_nil, Bool.not_false, Bool.and_true]
  generalize hn : 4096 = n
  have h (k : Nat) (hk : k + 2 ≤ n) : (List.range (k + 2)).foldl (fun (r : Option Nat × Nat × Nat) i =>
      (if r.1.isNone && decide ((if decide (i < n) then r.2.1 + 1 else 0) = 2) then some (i + 1 - 2) else r.1,
        if decide (i < n) then r.2.1 + 1 else 0, max r.2.2 (if decide (i < n) then r.2.1 + 1 else 0))) (none, 0, 0) = (some 0, k + 2, k + 2) := by
    induction k with
    | zero => simp [List.range_succ, show 0 < n by omega, show 1 < n by omega]
    | succ k ih =>
      have hlt : k + 2 < n := by omega
      rw [show k + 1 + 2 = (k + 2) + 1 from rfl, List.range_succ, List.foldl_append, ih (by omega)]
      simp [hlt]
  obtain ⟨k, rfl⟩ : ∃ k, n = k + 2 := ⟨n - 2, by omega⟩
  rw [h k (by omega)]

/-- A program fits where no capacity is short (R338). -/
theorem capacity_of_room (s : State) (c : Nat) (q : Plan) (h1 : (s.grantLeases c q.p.leases).isRight = true) (h2 : (s.placeReservoir q).isRight = true)
    (h3 : (s.slotRun c (q.p.grids.length + q.p.oneShot)).1.isSome = true)
    (h4 : (decide (q.p.update.field 0 55 55 = 1) && decide ((s.accPlaced c q.p).length < q.p.layers.length)) = false)
    (h5 : s.fences.length + q.p.fences.length ≤ 16384)
    (h6 : (decide (20480 < layoutProduct q.p.layout) || decide (21504 < layoutProduct q.p.layout + layoutSpares q.p.layout) ||
      decide (4096 < s.fabric.groups.length + (groupCuts q.p.layout).length)) = false)
    (h7 : ((List.range (layoutLog q.p.layout 1)).any fun st => decide (64 < peakSlots q.p.placement (layoutLog q.p.layout 1) st)) = false)
    (h8 : q.p.placement.field 2 31 0 ≤ 65536)
    (h9 : (s.otherPrograms c).foldl (fun t x => t + x.2.stats.length) 0 + q.p.stats.length ≤ 16384)
    (ha : q.lateBytes + (s.otherPrograms c).foldl (fun t x => t + Plan.lateBytes ⟨x.2, s.shardIndex x.2.layout⟩) 0 ≤ lateRoom) :
    (s.capacity c q).isRight = true := by
  unfold State.capacity
  cases h10 : s.grantLeases c q.p.leases with
  | inl i => simp [h10] at h1
  | inr t =>
    cases h11 : s.placeReservoir q with
    | inl i => simp [h11] at h2
    | inr rs =>
      cases h12 : (s.slotRun c (q.p.grids.length + q.p.oneShot)).1 with
      | none => simp [h12] at h3
      | some b => simp [h4, h6, h7, h10, h12, Nat.not_lt.2 h5, Nat.not_lt.2 h8, Nat.not_lt.2 h9, Nat.not_lt.2 ha, failIf]

/-- A load whose checks pass and that fits succeeds (R338). -/
theorem tryLoad_of_checks (s : State) (c a n : Nat) (p : Program) (hp : s.mem.readProgram (s.ctx c) a n = p)
    (h1 : ((s.mem.poisonIn a (16 * n)).isSome || p.dir.any (fun e => (s.mem.poisonIn (dirAddr e) (kindSize (dirKind e) * dirCount e)).isSome)) = false)
    (h2 : firstFail (s.formatFails (s.ctx c) p) = none) (h3 : (s.capacity c ⟨p, s.shardIndex p.layout⟩).isRight = true)
    (h4 : s.conflict c p = none) : (s.tryLoad c a n false).st.isSome = true := by
  unfold State.tryLoad
  simp only [hp, h1, h2, h4]
  cases h5 : s.capacity c ⟨p, s.shardIndex p.layout⟩ with
  | inl f => simp [h5] at h3
  | inr r => rfl

def plan : Plan := ⟨prog, loadingState.shardIndex prog.layout⟩

theorem load_fits : (loadingState.capacity 5 plan).isRight = true :=
  capacity_of_room loadingState 5 plan (by decide +kernel) (by decide +kernel)
    (by rw [show plan.p.grids.length + plan.p.oneShot = 2 by decide +kernel, slots_free loadingState 5 (by decide +kernel)]; rfl)
    (by decide +kernel) (by decide +kernel) (by decide +kernel) (by decide +kernel) (by decide +kernel) (by decide +kernel) (by decide +kernel)

theorem load_succeeds : (loadingState.tryLoad 5 0 5 false).st.isSome = true :=
  tryLoad_of_checks loadingState 5 0 5 prog rfl (by decide +kernel) (by decide +kernel) load_fits (by decide +kernel)

/-! ### Witnesses: the Cistern, programs and steps (R195, R336 to R351) -/

def shardOf (cistern : Bool) : Shard := { layer := 1, expert := 0xFFF, first := 0, count := 1, inCistern := cistern }
def sharded : State := withCtx { state := .loaded, shards := [shardOf true] }

theorem witness_CisternRun : ctxReady (inState .created) hc 0 0x0309 [.created, .loaded, .running, .holding, .held] = true ∧
    sharded.firmware = true ∧ (sharded.ctx (5 : Fin 64)).fetchable 0 = true ∧ sharded.fetchFirst 5 0 = true ∧ ctxReady sharded hc 0 0x030A [.loaded, .held] = true ∧
    (sharded.ctx (hctx hc)).shardAt (1 : W16).toNat (0xFFF : W16).toNat (0 : W32).toNat = some 0 ∧
    f32in 0 0x3F800000 (0 : W32) = true ∧ f32in 0 0x3F800000 (0x3F800000 : W32) = true := by decide +kernel

def unloadable : State := programmed { state := .loading, load := some { loadReq with entries := 4 } }

theorem witness_ProgramCommandsRun : (ctxReady (programmed { state := .created }) hc 0 0x0401 [.created] = true ∧
    (∀ c ∈ loadChecks hc 0 5 (programmed { state := .created }), c.1 = false) ∧
    ctxReady (loadedCtx { state := .held }) hc 0 0x0402 [.loaded, .held] = true ∧ ctxReady (inState .loading) hc 0 0x0403 anyHeld = true ∧
    ctxReady (loadedCtx { state := .loaded }) hc 0 0x0404 [.loaded, .held] = true ∧ (0x140 : W64).toNat < 2 ^ 48 ∧ (0x140 : W64).toNat % 64 = 0 ∧
    ((loadedCtx { state := .loaded }).ctx (hctx hc)).covers (0x140 : W64).toNat 64 = true ∧
    (loadedCtx { state := .loaded }).mem.poisonIn (0x140 : W64).toNat 64 = none ∧
    gridFails (loadedCtx { state := .loaded }).mem ((loadedCtx { state := .loaded }).ctx (hctx hc)) ((loadedCtx { state := .loaded }).loadedEnv (hctx hc) prog)
      ((loadedCtx { state := .loaded }).mem.record (0x140 : W64).toNat 8) 0 = [] ∧
    ((loadedCtx { state := .loaded }).freeGridSlot (hctx hc)) = some 1 ∧
    (loadingState.ctx (5 : Fin 64)).state = .loading ∧ (loadingState.ctx (5 : Fin 64)).load = some loadReq ∧ loadReq.recover = false ∧
    (unloadable.ctx (5 : Fin 64)).state = .loading ∧ (unloadable.ctx (5 : Fin 64)).load = some { loadReq with entries := 4 } ∧
    (unloadable.tryLoad 5 0 4 false).st.isNone = true) ∧ ((loadedCtx { state := .loaded }).ctx (hctx hc)).program = some prog ∧
    (loadingState.tryLoad 5 loadReq.dir loadReq.entries false).st.isSome = true :=
  ⟨by decide +kernel, rfl, load_succeeds⟩

theorem witness_StepCommandsRun : (ctxReady (loadedCtx { state := .running, runLeft := 0xFFFFFFFF }) hc 0 0x0501 [.loaded, .running, .holding] = true ∧
    ctxReady (loadedCtx { state := .held }) hc 0 0x0501 [.held] = true ∧
    ctxReady (inState .created) hc 0 0x0501 [.created, .loaded, .running, .holding, .held] = true ∧ ((inState .created).ctx (hctx hc)).program = none ∧
    ctxReady (loadedCtx { state := .running, step := 3, started := 4 }) hc 0 0x0502 [.running, .holding] = true ∧
    ((loadedCtx { state := .running, step := 3, started := 4 }).ctx (hctx hc)).step.toNat <
      ((loadedCtx { state := .running, step := 3, started := 4 }).ctx (hctx hc)).started ∧
    ctxReady (loadedCtx { state := .held }) hc 0 0x0502 [.loaded, .held] = true ∧ ctxReady (inState .loading) hc 0 0x0503 anyHeld = true) ∧
    ((loadedCtx { state := .held }).ctx (hctx hc)).program ≠ none := ⟨by decide +kernel, nofun⟩

def fenced (v : W32) (frozen : Bool) : State :=
  { inState .running with fences := [(3, { owner := 5, value := v, init := 0, stride := 2, host := true, frozen := frozen })] }

theorem witness_FenceCommandsRun : ctxReady (fenced 9 false) hc 0 0x0504 [.created, .loaded, .running, .holding, .held] = true ∧
    (0x7FFFFFFF : W32) ≠ 0 ∧ (0x7FFFFFFF : W32).toNat < 2 ^ 31 ∧ (3 : W16).toNat < 16384 ∧ (Tab.find? (fenced 9 false).fences 3).isSome = true ∧
    ctxReady (fenced 9 false) hc 0 0x0505 anyHeld = true ∧
    ctxReady (fenced 9 false) hc 0 0x0506 [.created, .loaded, .running, .holding, .held] = true ∧ fenceReached 9 10 = false ∧
    (fenced 9 false).slotOf hc.session = some 0 ∧ (fenced 9 false).session? 0 = some sess ∧ sess.id = hc.session ∧ sess.notifies.length < 256 ∧
    ((Tab.find? (fenced 9 true).fences 3).map fun x => x.frozen) = some true := by decide +kernel
theorem witness_FenceWaitRule : ((Tab.find? (fenced 9 false).fences 3).map fun x => x.frozen) = some false ∧ fenceReached 9 9 = true ∧
    ((9 : W32) - 9).toNat + (0x7FFFFFFF : W32).toNat < 2 ^ 31 := by decide +kernel

def gridRun : GridRun := { slot := 0, gseq := 0, desc := prog.grids.headD [], step := some 1 }
def running (x : Ctx) : State := loadedCtx { x with state := .running, grids := [gridRun], started := 1, nextGrid := 1 }

theorem witness_StepEventsRun : ((inState .running).ctx (5 : Fin 64)).mayStart = false ∧
    ((loadedCtx { state := .running, runLeft := 1 }).ctx (5 : Fin 64)).mayStart = true ∧
    ((loadedCtx { state := .running, started := 1, nextGrid := 1 }).ctx (5 : Fin 64)).atBoundary 1 = true ∧
    ((loadedCtx { state := .running }).ctx (5 : Fin 64)).folds.holdNext = false ∧
    ((loadedCtx { state := .holding, holdStep := some 1, started := 1, nextGrid := 1 }).ctx (5 : Fin 64)).atBoundary 1 = true ∧
    (running {}).fabric.colls = [] ∧ (running {}).fabric.early = [] ∧ ((running {}).ctx (5 : Fin 64)).grid? 0 = some gridRun ∧
    (running {}).eligible 5 gridRun 0 = true ∧ (running {}).taskEnded gridRun 0 = true ∧ gridRun.done.contains 0 = false ∧
    0 < gridTasks gridRun.desc ∧ ((running {}).mem.task gridRun.desc 0).field 0 58 58 = 0 := by decide +kernel

/-- A grid of two tasks, of which the first completes. -/
theorem witness_StepEventsRun_two : ({ gridRun with desc := [BitVec.ofNat 64 (5 * 2 ^ 60 + 1)] } : GridRun).done.length + 1 <
    gridTasks [BitVec.ofNat 64 (5 * 2 ^ 60 + 1)] := by decide +kernel

/-! ### Witnesses: Resident Solve and the Root Engines (R155, R159, R164, R171 to R189) -/

/-- A delta record of KIND 2 with one item, generation 2, its CRC at offset 0x30. -/
def deltaBytes : List Byte :=
  le 2 2 ++ le 2 0 ++ le 4 1 ++ le 4 2 ++ le 4 0 ++ le 8 0 ++ le 4 0 ++ le 4 16 ++ le 16 0 ++ le 4 923607453 ++ le 12 0 ++
    le 4 0 ++ le 4 255 ++ le 4 0x3F800000 ++ le 4 0

def solver : RsStruct :=
  { owner := 5, order := 256, pattern := [(0, 0)], factor := [(0, 0)], damp := 0, full := false, memBase := 0x100000, memBytes := 0x200000
    gen := 1, factorGen := some 1 }

/-- Context 5 with 1 GiB, the record at 0x1000, and structure 0 as given. -/
def solving (r : RsStruct) : State :=
  { withCtx { state := .running, regions := [(0, 0, 2 ^ 30)] } with
    mem := { up.mem with bytes := Memory.writes [] 0x1000 deltaBytes }, structs := [(0, r)] }
def work : RsWork := { solve := false, refactor := false, fence := 0xFFFF, nrhs := 0, b := 0, x := 0, status := 0, blocks := 1000000 }

theorem delta_crc : crc32c (deltaBytes.take 48 ++ le 4 0 ++ (deltaBytes.drop 52).take 12 ++ (deltaBytes.drop 64).take 16) = 923607453 := by
  have h0 : deltaBytes.take 48 ++ le 4 0 ++ (deltaBytes.drop 52).take 12 ++ (deltaBytes.drop 64).take 16 =
    (([2, 0, 0, 0, 1, 0, 0, 0, 2, 0, 0, 0] : List Byte) ++ List.replicate 16 0 ++ [16, 0, 0, 0]) ++ List.replicate 32 0 ++
      [0, 0, 0, 0, 255, 0, 0, 0, 0, 0, 128, 63, 0, 0, 0, 0] := by decide +kernel
  have h1 : (([2, 0, 0, 0, 1, 0, 0, 0, 2, 0, 0, 0] : List Byte) ++ List.replicate 16 0 ++ [16, 0, 0, 0]).foldl crcByte 0xFFFFFFFF#32 = 874619175 := by
    decide +kernel
  have h2 : (List.replicate 32 0).foldl crcByte 874619175 = 1779925781 := by decide +kernel
  rw [h0, crc32c, List.foldl_append (l := _ ++ _), List.foldl_append, h1, h2]
  decide +kernel

theorem delta_good : (parseDelta deltaBytes).any (fun d => d.good) = true := by
  have hn : leNat (slice deltaBytes 0x1C 4) = 16 := by decide +kernel
  unfold parseDelta
  simp only [hn, delta_crc]
  decide +kernel

theorem delta_feeds (m : Mem) : ((parseDeltas 2 deltaBytes).bind fun ds => feedDeltas ds 0 m solver).isSome = true := by
  have hn : leNat (slice deltaBytes 0x1C 4) = 16 := by decide +kernel
  unfold parseDeltas parseDeltas parseDelta
  simp only [hn, delta_crc]
  rfl

theorem witness_ResidentRun : (ctxReady (solving solver) hc 0 0x0601 [.created, .loaded, .running, .holding, .held] = true ∧
    (∀ c ∈ rsCreateChecks (hctx hc) 256 1 0x2000 0x400000 0x200000 0 1 (solving solver), c.1 = false) ∧
    ctxReady (solving solver) hc 0 0x0602 [.created, .loaded, .running, .holding, .held] = true ∧
    (solving solver).struct? (hctx hc) 0 = some solver ∧ solver.work = [] ∧
    ctxReady (solving solver) hc 0 0x0603 [.created, .loaded, .running, .holding, .held] = true ∧
    badBuffer (solving solver) (hctx hc) 0x1000 (80 : W32).toNat = false ∧
    (solving solver).mem.poisonIn (0x1000 : W64).toNat (80 : W32).toNat = none ∧
    (solving solver).mem.read (0x1000 : W64).toNat (80 : W32).toNat = deltaBytes ∧ deltaBytes.length / 64 + 1 = 2 ∧
    ctxReady (solving solver) hc 0 0x0604 [.created, .loaded, .running, .holding, .held] = true ∧
    badFence (solving solver) (hctx hc) 0xFFFF = false ∧ badBuffer (solving solver) (hctx hc) 0x3000 32 = false ∧ solver.gen ≠ 0 ∧
    ctxReady (solving solver) hc 0 0x0605 [.created, .loaded, .running, .holding, .held] = true ∧ (16384 : W32).toNat ≤ 16384 ∧
    badBuffer (solving solver) (hctx hc) 0x4000000 (4 * solver.order * (16384 : W32).toNat) = false ∧ solver.factorGen = some solver.gen ∧
    ctxReady (solving solver) hc 0 0x0606 anyHeld = true ∧
    (Tab.find? (solving { solver with staged := some 2, lastSeen := true }).structs (0 : Fin 256).val).map (·.lastSeen) = some true ∧
    (Tab.find? (solving { solver with work := [work] }).structs (0 : Fin 256).val) = some { solver with work := [work] } ∧
    (solving { solver with work := [work] }).workOps { solver with work := [work] } work ≤ work.blocks ∧
    ((solving solver).ctx solver.owner).state = .running ∧ ({ solver with staged := some 2, lastSeen := true }).running = false) ∧
    ((parseDeltas 2 deltaBytes).bind fun ds => feedDeltas ds (0 : W16).toNat (solving solver).mem solver).isSome = true :=
  ⟨by decide +kernel, delta_feeds _⟩

/-- A statistics descriptor: layer 1, no expert, two sides of 256 in blocks of 128, buffers from 0x10000. -/
def statDesc : Rec := [BitVec.ofNat 64 (2 ^ 50 + 0xFFF * 2 ^ 38), BitVec.ofNat 64 (256 * 2 ^ 40 + 256 * 2 ^ 16), 0, 0x10000, 0x200000, 0, 0, 0]
def statProg : Program := { prog with stats := [statDesc] }
def rooted (st : CtxState) (e : Rte) : State :=
  let s := programmed { state := st, program := some statProg, started := 1, stats := { schedule := [{ step := 1, engine := 0, layer := 0, side := 0, block := 0 }] } }
  -- the factor header at 0x10000: COMPLETE, step 0
  lit { s.onCtx 5 (fun x => { x with regions := [(0, 0, 2 ^ 30)] }) with rtes := [(0, e)], mem := { s.mem with bytes := s.mem.bytes ++ [(0x10016, 1)] } }
def job : RteJob := { ctx := 5, order := 512 }

theorem witness_RootEnginesRun : ctxReady (rooted .held {}) hc 0 0x0607 [.loaded, .held] = true ∧
    rootFails [0xAC180F0100000000, 0x3580000032800000, 0x3A8000003C800000, 0] = [] ∧
    ctxReady (rooted .faulted {}) hc 0 0x0608 [.held, .faulted] = true ∧
    ((rooted .faulted {}).factorOf (hctx hc) (1 : W16).toNat (0xFFF : W16).toNat (1 : BitVec 8).toNat (1 : W16).toNat) = some statDesc ∧
    ((rooted .running { publish := [job] }).publishable (0 : Fin 8).val).isSome = true ∧
    (rooted .running {}).checkWrite job.ctx (rootAddr statDesc job.side job.block ((rooted .running {}).mem.rootTarget statDesc job.side job.block))
      (sBuffer statDesc job.side) = .ok ∧ (rooted .running {}).rteRuns (0 : Fin 8).val = true ∧ (rooted .running {}).firmware = true ∧
    ((rooted .running {}).ctx job.ctx).state = .running ∧ ((rooted .running {}).rte (0 : Fin 8).val).inService = true ∧
    ((rooted .running {}).rte (0 : Fin 8).val).job = none ∧ ((rooted .running { restart := [job] }).rte (0 : Fin 8).val).restart = [job] ∧
    ((rooted .running {}).nextRefresh (0 : Fin 8).val).isSome = true ∧ ((rooted .running { job := some job }).rte (0 : Fin 8).val).job = some job ∧
    job.retried = false ∧ job.tile + 1 < job.outTiles ∧
    ((rooted .running { job := some { job with retried := true } }).rte (0 : Fin 8).val).job = some { job with retried := true } := by decide +kernel

/-! ### Witnesses: telemetry (R246, R289, R330, R422) -/

theorem witness_TelemetryRun : devReady up hd 0 0x0701 = true ∧ ctxReady (inState .purging) hc 0 0x0701 anyHeld = true ∧
    counterOfCtx 9 = true ∧ counterOfCtx 11 = false ∧ (191 : Nat) < counterUnits 3 ∧ 0 + 28 ≤ counterCount 1 ∧
    ctxReady (inState .created) hc 0 0x0702 anyHeld = true ∧ badRegs 0x200000000000 256 = false ∧ (256 : W16).toNat ≤ 256 ∧
    ctxReady (inState .created) hc 0 0x0703 anyHeld = true ∧ badRegs 0x200000030220 1 = false ∧ (0x3F : W32) &&& ~~~(w1cMask 0x200000030220) = 0 ∧
    ctxReady (inState .faulted) hc 0 0x0704 anyHeld = true ∧ ctxReady (inState .held) hc 0 0x0705 anyHeld = true ∧
    ctxReady (loadedCtx { state := .held, shards := [shardOf false] }) hc 0 0x0706 anyHeld = true ∧ (64 : W16).toNat ≤ 64 ∧
    (0 : W32).toNat + (1 : W16).toNat ≤ (loadedCtx { state := .held, shards := [shardOf false] }).tableSize (hctx hc) 1 ∧
    (16320 : W32).toNat + (64 : W16).toNat ≤ (inState .created).tableSize (hctx hc) 0 ∧ ctxReady (inState .created) hc 0 0x0706 anyHeld = true ∧
    ctxReady (inState .created) hc 0 0x0707 anyHeld = true ∧ ctxReady (inState .created) hc 0 0x0708 anyHeld = true ∧
    ((inState .created).ctx (5 : Fin 64)).state ≠ .free ∧ ((inState .created).ctx (5 : Fin 64)).idleSat.getLsbD (11 : Fin 12).val = false := by
  decide +kernel

/-! ### Witnesses: recovery, digests, purges (R362 to R366, R383 to R398) -/

/-- One axis of two modules that cuts D, with two replicas; layer 1 in ROOT mode with four update blocks; parity over two members and a digest
at every step. -/
def pairLayout : Rec :=
  [BitVec.ofNat 64 (2 ^ 60), BitVec.ofNat 64 (7 * 2 ^ 58 + 2 * 2 ^ 51 + 2 ^ 44 + 2 ^ 39 + 3), noAxis, noAxis, noAxis, noAxis,
   BitVec.ofNat 64 (2 ^ 57 + 2 * 2 ^ 50 + 2 ^ 43 + 2 ^ 36 + 2 ^ 29 + 2 ^ 22), 0]
def layerDesc : Rec := [BitVec.ofNat 64 (2 ^ 50 + 0xFFF * 2 ^ 38), 0, 0, 0, 0x400000, 0x500000, 0x700000, 0x800000]
def recoveryRec : Rec := [BitVec.ofNat 64 (2 ^ 63 + 2 * 2 ^ 55 + 2 ^ 44 + 2 ^ 20), 0x900000, 0x100000, 0xA00000]
def pairProg : Program := { statProg with layout := pairLayout, layers := [layerDesc], recovery := some recoveryRec }
def fourBlocks : Shard := { layer := 1, expert := 0xFFF, first := 0, count := 4 }
def paired (x : Ctx) : State := withCtx { x with program := some pairProg, shards := [fourBlocks] }
def pairPlan : Plan := ⟨pairProg, (paired {}).shardIndex pairLayout⟩

theorem paired_plan : (paired {}).plan (hctx hc) = some pairPlan ∧ pairPlan.ownedBlocks = [(layerDesc, 0), (layerDesc, 1), (layerDesc, 2), (layerDesc, 3)] := by
  refine ⟨rfl, by decide +kernel⟩

theorem witness_RecoveryCommandsRun : ctxReady (inState .running) hc 0 0x0810 [.created, .loaded, .running, .holding, .held, .faulted] = true ∧
    ctxReady (paired { state := .faulted, recovery := { quiesced := true, lost := [1] } }) hc 0 0x0811 [.faulted] = true ∧
    ((paired { state := .faulted, recovery := { quiesced := true, lost := [1] } }).plan (hctx hc)).isSome = true ∧
    ((paired { state := .faulted, step := 3 }).ctx (hctx hc)).step.toNat ≤ (2 : W64).toNat + 1 ∧
    [1].length + bit01 (!((paired { state := .faulted }).badSlots pairPlan).isEmpty) ≤ 1 ∧
    ctxReady (programmed { state := .created }) hc 0 0x0814 [.created, .faulted] = true ∧ (1 : W32).toNat < 2 ∧
    (∀ c ∈ loadChecks hc 0 5 (programmed { state := .created }), c.1 = false) ∧ ctxReady (inState .created) hc 0 0x0815 anyHeld = true ∧
    ctxReady (inState .held) hc 0 0x0818 anyHeld = true ∧ ([(4, 9, true)] : List (Nat × BitVec 256 × Bool)).find? (fun d => d.1 = (4 : W64).toNat) = some (4, 9, true) ∧
    ctxReady (inState .held) hc 0 0x0819 anyHeld = true := by decide +kernel

/-- A context whose table of folds holds the fold of region 0 as memory gives it. -/
def foldedAs (v : W64 × Nat) : State := paired { state := .running, folds := { fold := [(0, v)], checkDue := 1 } }
def folded : State := foldedAs (foldOf ((paired {}).stateBytes pairPlan layerDesc 0 0 (2 ^ 20)))

theorem foldedAs_get (v : W64 × Nat) : Tab.get (0, 0) ((foldedAs v).ctx 5).folds.fold 0 = v := rfl

theorem stateBytes_of_mem {s t : State} (h : s.mem = t.mem) (q : Plan) (u : Rec) (b off n : Nat) : s.stateBytes q u b off n = t.stateBytes q u b off n := by
  unfold State.stateBytes
  rw [h]

theorem folded_holds : folded.foldHolds 5 pairPlan layerDesc 0 0 0 = true := by
  unfold State.foldHolds folded
  rw [foldedAs_get, stateBytes_of_mem (t := paired {}) rfl]
  exact decide_eq_true rfl

def localising : State := paired { state := .running, folds := { phase := .granules, target := 0, regions := [0] } }

theorem witness_RecoveryEventsRun : (((paired { state := .faulted, recovery := { begun := true } }).ctx (5 : Fin 64)).recovery.begun = true ∧
    ((paired { state := .faulted, recovery := { begun := true } }).ctx (5 : Fin 64)).parityIdle = true ∧
    pairPlan.p.parityOn = some recoveryRec ∧ ((paired { state := .held, recovery := { todoBlocks := [3] } }).ctx (5 : Fin 64)).takesFrames = true ∧
    ((paired { state := .held, recovery := { todoBlocks := [3] } }).ctx (5 : Fin 64)).recovery.todoBlocks.contains 3 = true ∧
    ((paired { state := .faulted, recovery := { begun := true } }).ctx (5 : Fin 64)).recovery.quiesced = false ∧ (folded.ctx (5 : Fin 64)).state = .running ∧
    pairPlan.ownedBlocks[3]? = some (layerDesc, 3) ∧
    pairPlan.regionAt ((folded.ctx (5 : Fin 64)).folds.checkPos % max 1 pairPlan.regions) = some (layerDesc, 0, 0) ∧
    ((folded.ctx (5 : Fin 64)).blockAt layerDesc 0).map (fun x => x.2.phase) = some .idle ∧
    (paired { folds := { copied := [(1, 0), (1, 1), (1, 2), (1, 3)] } }).formable 5 pairPlan = some 1 ∧
    ((paired { folds := { digests := [(1, 9, false)], peers := [(64 + 1, 8)] } }).comparable 5 pairPlan) = some (1, [9, 8]) ∧
    differing ([9, 9] : List (BitVec 256)) = 0 ∧ ((localising.ctx (5 : Fin 64)).blockAt layerDesc 0).isSome = true ∧
    (localising.ctx (5 : Fin 64)).folds.awaits pairPlan layerDesc 0 0 = true) ∧ 0 < (folded.ctx (5 : Fin 64)).folds.checkDue ∧
    folded.foldHolds 5 pairPlan layerDesc 0 0 0 = true := ⟨by decide +kernel, by decide +kernel, folded_holds⟩

def purging : State := withCtx { state := .purging, purge := some { asked := [.rte 0, .array 191] } }
def resetting : State := { up with faults := { up.faults with engines := [.rte 0] } }

theorem witness_PurgeEventsRun : (purging.ctx (5 : Fin 64)).state = .purging ∧ purging.faults.coreUp = true ∧
    (purging.ctx (5 : Fin 64)).purge = some { asked := [.rte 0, .array 191] } ∧
    (([] : List Engine) ++ []).any (fun e => purging.faults.engines.contains e) = false ∧
    ([.rte 0, .array 191] : List Engine).contains (.array 191) = true ∧ purging.passUnderWay (5 : Fin 64).val = false ∧ resetting.faults.engines.contains (.rte 0) = true ∧
    resetting.faults.coreUp = true := by decide +kernel

/-! ### Witnesses: the fabric (R249 to R286) -/

/-- The paired program's context, loaded, with 1 MiB, its first group entry, and ports 0 and 1 up. -/
def linked : State :=
  let s := paired { state := .loaded, regions := [(0, 0, 2 ^ 20)] }
  { s with
    fabric := { s.fabric with ports := [(0, { state := .up, lanes := 0xF, good := 0xF, farGood := 0xF }), (1, { state := .up, lanes := 0xF, good := 0xF, farGood := 0xF })], groups := [(0, [BitVec.ofNat 64 (5 * 2 ^ 30)])] }
    fences := [(3, { owner := 5, value := 0, init := 0, stride := 0, host := true })] }

/-- A frame from module 1 for this module, of a class. -/
def frameOf (cls : Nat) (arg : W64) : FrameHdr :=
  { port := 0, dstMac := linked.portMac 0, dst := 0, src := 1, vc := BitVec.ofNat 3 (2 * cls), context := 5, arg := arg }

/-- The segment of a COLL frame for the layer's gradient. -/
def segment : EarlySeg := { ctx := 5, group := 0, op := 0, offset := 0x700000, data := [0, 0, 0, 0], port := 0, vc := 4, units := rxUnits 4 }

theorem witness_FrameStreamsRun : frameHere linked (frameOf clsData 0x40) 0x01 clsData 8192 = true ∧ frameNew linked (frameOf clsData 0x40) clsData 8192 = true ∧
    frameHere linked (frameOf clsReply 0x40) 0x03 clsReply 64 = true ∧ frameNew linked (frameOf clsReply 0x40) clsReply 64 = true ∧
    frameHere linked (frameOf clsData 0x8006000000000000) 0x04 clsData 0 = true ∧ frameNew linked (frameOf clsData 0x8006000000000000) clsData 0 = true ∧
    (frameOf clsData 0x8006000000000000).arg.msb = true ∧ (frameOf clsData 0x8006000000000000).arg.toNat % 2 ^ 48 = 0 ∧
    frameHere linked (frameOf clsData 0) 0x02 clsData 16 = true ∧ frameNew linked (frameOf clsData 0) clsData 16 = true ∧
    (((linked.frameBooks (frameOf clsData 0) 16).ctx (frameOf clsData 0).context.val).coversHbm (0 : W64).toNat (0x100000 : W32).toNat = true) ∧
    frameHere linked (frameOf clsData 0) 0x05 clsData 8 = true ∧ frameHere linked (frameOf clsData 0) 0x06 clsData 8192 = true ∧
    frameNew linked (frameOf clsData 0) clsData 8 = true ∧ frameNew linked (frameOf clsData 0) clsData 8192 = true ∧
    frameHere linked (frameOf clsData 0xFFFFC) 0x07 clsData 4 = true ∧ frameNew linked (frameOf clsData 0xFFFFC) clsData 4 = true ∧
    ((linked.frameBooks (frameOf clsData 0xFFFFC) 4).ctx (frameOf clsData 0xFFFFC).context.val).program.bind Program.parityOn = some recoveryRec ∧
    (frameOf clsData 0xFFFFC).arg.toNat % 2 ^ 48 + 4 ≤ recoveryRec.field 2 47 0 ∧
    frameHere linked (frameOf clsColl 0x700000) 0x10 clsColl 4 = true ∧ frameNew linked (frameOf clsColl 0x700000) clsColl 4 = true ∧
    (linked.frameBooks (frameOf clsColl 0x700000) 4).groupCut 5 (fieldOf (frameOf clsColl 0x700000).arg 63 52) = some (0, false) ∧
    fieldOf (frameOf clsColl 0x700000).arg 51 48 < 2 ∧
    (linked.frameBooks (frameOf clsColl 0x700000) 4).strangeSeg segment = false := by
  decide +kernel

/-- Port 0 waits for its neighbour's record. -/
def hearing : State := { linked with fabric := { linked.fabric with ports := [(0, { state := .discovery, lanes := 0xF })] } }
def unprotected : State := loadedCtx { state := .loaded }

theorem witness_FrameStreamsRun_lands : (frameOf clsData 0x40).arg.getLsbD 48 = false ∧ ([1] : List Byte) ≠ [] ∧ (frameOf clsData 0x40).arg.msb = false ∧
    (unprotected.ctx (frameOf clsData 0x40).context.val).coversHbm ((frameOf clsData 0xFFF).arg.toNat % 2 ^ 48) 1 = true ∧ prog.recovery = none ∧
    (unprotected.ctx (frameOf clsData 0x40).context.val).coversHbm ((frameOf clsData 0x1000).arg.toNat % 2 ^ 48) 1 = false ∧
    (frameOf clsData 0x8006000000000000).arg.getLsbD 48 = false ∧ (frameOf clsData 0x8006000000000000).arg.msb = true ∧
    linked.holds 5 (fieldOf (frameOf clsData 0x8006000000000000).arg 62 49) = true := by decide +kernel

/-- Half of a DISCOVER record of zeros. -/
def record : List Byte := List.replicate 16 0

theorem witness_ControlFramesRun : frameHere linked (frameOf clsReply 0) 0x20 clsReply 0 = true ∧ frameHere linked (frameOf clsReply 0) 0x21 clsReply 0 = true ∧
    frameHere linked (frameOf clsReply 0) 0x22 clsReply 0 = true ∧ (linked.frameBooks (frameOf clsReply 0) 0).layout? = some pairLayout ∧
    (portPlace pairLayout (frameOf clsReply 0).port.val).map (·.1) = some 0 ∧ fieldOf (frameOf clsReply 0).arg 63 59 = 0 ∧
    linkHere linked (frameOf clsData 0) [.discovery, .held, .up] = true ∧ badDiscover (record ++ record) = false ∧ ((linked.hopAcked 0 0).port 0).state = .up ∧
    linkHere hearing (frameOf clsData 0) [.discovery, .held, .up] = true ∧ ((hearing.hopAcked 0 0).port 0).state ≠ .up ∧
    linkHere linked (frameOf clsData 0) [.up] = true ∧ (frameOf clsData 0xFFFF).arg.toNat < 2 ^ 16 ∧
    linkHere linked (frameOf clsData 0) [.discovery, .up] = true ∧ ([0, 0, 0, 0, 0, 0] : List W32).length = 6 ∧
    linkHere linked (frameOf clsData 15) [.up] = true ∧ (frameOf clsData 15).arg.toNat < 16 ∧
    (frameOf clsData 15).arg.setWidth 4 = ((linked.hopAcked 0 0).port 0).farGood ∧
    (frameOf clsData 14).arg.setWidth 4 ≠ ((linked.hopAcked 0 0).port 0).farGood := by decide +kernel

def lanesDown : State :=
  { linked with fabric := { linked.fabric with ports := [(0, { state := .up, lanes := 0b1110, good := 0b1110, farGood := 0xF, nakOut := true, ackOwed := true, readmit := some 0 })] },
                power := { linked.power with ticks := ticksOf 1 } }
def unlaid : State := { up with fabric := { up.fabric with ports := [(0, { state := .up, lanes := 0xF, ackOwed := true })] } }
def detoured : State := { linked with fabric := { linked.fabric with detours := [(0, 0)] } }
/-- A frame with a reserved operation. -/
def oddFrame : FrameHdr := { frameOf clsData 0 with dstMac := unlaid.portMac 0 }

theorem no_port_lost (q : Nat) : (up.port q).lost = false := rfl

theorem witness_PortEventsRun : (up.powered = true ∧ 9 ≤ up.boot.stage ∧ (up.port (31 : Fin 32).val).state = .down ∧ up.unnamed 31 = false ∧
    linked.unnamed (31 : Fin 32).val = true ∧
    (linked.port (0 : Fin 32).val).state = .up ∧ (linked.port (0 : Fin 32).val).good.getLsbD (3 : Fin 4) = true ∧
    (lanesDown.port (0 : Fin 32).val).good.getLsbD (0 : Fin 4) = false ∧ (lanesDown.port (0 : Fin 32).val).readmit = some 0 ∧
    0 + 1000000000 ≤ lanesDown.upNs ∧ (unlaid.port (0 : Fin 32).val).state = .up ∧ unlaid.layout? = none ∧ detoured.layout? = some pairLayout ∧
    detoured.linkLower pairLayout (0 : Fin 5) true = (0 : Fin 64).val ∧ detoured.workingPorts pairLayout (0 : Fin 5) true ≠ [] ∧
    detoured.fabric.detours.contains ((0 : Fin 5).val, (0 : Fin 64).val) = true ∧
    ((List.range 6).map fun k => fieldOf (0x2222EE : W32) (4 * k + 3) (4 * k)).all (fun n => decide (2 ≤ n) && decide (n ≤ 14)) = true ∧
    ((List.range 6).map fun k => fieldOf (0x22288A : W32) (4 * k + 3) (4 * k)).foldl (· + ·) 0 ≠ 24 ∧
    ((List.range 6).map fun k => fieldOf (0x22E222 : W32) (4 * k + 3) (4 * k)).foldl (· + ·) 0 = 24) ∧
    unlaid.carriesFrames = true ∧ oddFrame.etype = unlaid.fabric.etype ∧ oddFrame.dstMac = unlaid.portMac (0 : Fin 32).val ∧ oddFrame.ver = 1 ∧
    oddFrame.hopSeq = ((unlaid.hopAcked (0 : Fin 32).val oddFrame.hopAck).port (0 : Fin 32).val).hopRx ∧
    unlaid.handleLost.pollColls.injectAll = unlaid ∧ (unlaid.port (0 : Fin 32).val).ackOwed = true := by
  decide +kernel

def xferRun : GridRun := { gridRun with desc := [BitVec.ofNat 64 (4 * 2 ^ 60), 0, 0x180] }
def xfering : State := loadedCtx { state := .running, grids := [xferRun], started := 1, nextGrid := 1 }
def vxRun : VxuRun := { ctx := 5, slot := 0, task := 0, tile := none, addr := 0, words := [], queue := [(0, 0), (1, 1)] }
def issuing : State := { inState .running with arrays := [(0, { runs := [vxRun] })] }

theorem witness_CollectivesRun : (xfering.ctx (5 : Fin 64).val).grid? 0 = some xferRun ∧ xfering.eligible 5 xferRun 0 = true ∧
    (xferRun.task 0).joined = false ∧ xferRun.kind = some .xfer ∧ (issuing.array (0 : Fin 192).val).runs.find? VxuRun.stalls = some vxRun ∧
    vxRun.queue = [(0, 0), (1, 1)] ∧ (up.array (0 : Fin 192).val).runs.find? VxuRun.stalls = none := by decide +kernel

/-! ### Witnesses: the arrays (R70 to R104) -/

def mxaRun : GridRun := { gridRun with desc := [0, 0, 0x1C0] }
def passOf (replayed fin : Bool) : Pass := { kind := .task 0 0, ctx := 5, fin := fin, replayed := replayed }

/-- Compute dies enabled; array 0 in service with a tile of context 5, and what a test puts on it. -/
def powered (s : State) (x : ArrayUnit) : State :=
  { s with power := { s.power with enables := 0xFF }, arrays := [(0, { x with halted := false, tiles := [(0, { st := .leased, ctx := 5, clearing := x.halted })] })] }
/-- Its task: KEXT 1 in the second word. -/
def mxaTask (s : State) : State := { s with mem := { s.mem with bytes := s.mem.bytes.writes 0x1C8 (le 8 1) } }
def feeding : State :=
  mxaTask (powered (loadedCtx { state := .running, grids := [mxaRun], started := 1, nextGrid := 1 }) { halted := false })
def slotEntry : SluiceSlot := { tile := 0, status := 0, ctx := 5, slot := 0, task := 0, pos := 0, vxu := 0 }
def busyArray (x : ArrayUnit) : State := powered (inState .running) x

def isTask : Option Candidate → Bool
  | some (.task ..) => true
  | _ => false

theorem witness_ArrayPassesRun : feeding.arrayFeeds 0 = true ∧
    isTask ((feeding.countDelays (0 : Fin 192).val).pickPass (0 : Fin 192).val) = true ∧
    (busyArray { passes := [passOf false false] }).arrayOn 0 = true ∧
    ((busyArray { passes := [passOf true false] }).array (0 : Fin 192).val).passes = [passOf true false] ∧ (passOf true false).replayed = true ∧
    (passOf false false).replayed = false ∧ (passOf false false).fin = false ∧ (passOf false true).fin = true ∧
    ((busyArray { passes := [passOf false true], handover := some slotEntry }).array (0 : Fin 192).val).handover ≠ none ∧
    ((busyArray { slots := List.replicate 7 slotEntry, handover := some slotEntry }).array (0 : Fin 192).val).slots.length < 8 ∧
    ((busyArray { handover := some slotEntry }).array (0 : Fin 192).val).transfer = [] ∧
    (Tab.get {} ((busyArray { halted := true }).array (0 : Fin 192).val).tiles (0 : Fin 16).val).clearing = true ∧
    (busyArray { slots := [slotEntry] }).arrayOn 0 = true ∧ ((busyArray { slots := [slotEntry] }).array (0 : Fin 192).val).runs.any VxuRun.stalls = false ∧
    (busyArray { slots := [slotEntry] }).sluiceHead (0 : Fin 192).val = some slotEntry ∧ (busyArray { slots := [slotEntry] }).memReady (0 : Fin 192).val = false ∧
    (busyArray {}).sluiceHead (0 : Fin 192).val = none ∧ (busyArray { runs := [vxRun], stalled := 15 }).arrayOn 0 = true ∧
    ((busyArray { runs := [vxRun], stalled := 15 }).array (0 : Fin 192).val).runs.any VxuRun.stalls = true ∧
    ((busyArray { runs := [vxRun], stalled := 15 }).array (0 : Fin 192).val).stalled < 16 ∧
    16 ≤ ((busyArray { runs := [vxRun], stalled := 16, slots := [slotEntry] }).array (0 : Fin 192).val).stalled ∧
    (busyArray { runs := [vxRun], stalled := 16, slots := [slotEntry] }).sluiceHead (0 : Fin 192).val = some slotEntry := by
  decide +kernel

def haltedArray : State := { inState .running with arrays := [(0, { halted := true })] }

theorem witness_ArrayRepairRun : (busyArray {}).arrayOn 0 = true ∧ ((busyArray {}).array (0 : Fin 192).val).halted = false ∧
    (busyArray {}).cdRuns ((0 : Fin 192).val / 24) = true ∧ ((busyArray {}).array (0 : Fin 192).val).retired = false ∧
    ((busyArray {}).array (0 : Fin 192).val).passes = [] ∧ ((busyArray { katRun := true }).array (0 : Fin 192).val).katRun = true ∧
    (busyArray {}).firmware = true ∧ haltedArray.firmware = true ∧ (haltedArray.array (0 : Fin 192).val).retired = false ∧
    (haltedArray.array (0 : Fin 192).val).katPassed = true ∧ ((busyArray { katPassed := false }).array (0 : Fin 192).val).katPassed = false ∧
    (haltedArray.array (0 : Fin 192).val).halted = true ∧ (haltedArray.array (0 : Fin 192).val).katRun = false ∧
    trimMismatch (haltedArray.array (0 : Fin 192).val).spareCtl (haltedArray.array (0 : Fin 192).val).skewTrim = false := by decide +kernel

/-! ### Witnesses: the weight update and the statistics (R127 to R135, R191 to R219) -/

/-- A layer of 2 by 2 elements: one update block of 4 elements. -/
def tinyDesc : Rec := [BitVec.ofNat 64 (2 ^ 50 + 0xFFF * 2 ^ 38 + 2 ^ 20), BitVec.ofNat 64 (2 * 2 ^ 40 + 2 * 2 ^ 16), 0, 0x10000, 0x200000, 0x300000, 0, 0]
def tinyProg : Program := { prog with stats := [tinyDesc], layers := [layerDesc] }
def tinyShard (b : Block) (late : List LateGrad) : Shard := { layer := 1, expert := 0xFFF, first := 0, count := 1, late := late, blocks := [(0, b)] }
/-- Context 5 in step 1 with that shard; both factors of step 0 are complete. -/
def updatingCtx (b : Block) (late : List LateGrad) : State :=
  let s := withCtx { state := .running, regions := [(0, 0, 2 ^ 30)], program := some tinyProg, shards := [tinyShard b late], started := 1
                     stats := { groups := [(stepKey 1 0 0 0, 1)] } }
  lit { s with mem := { s.mem with bytes := [(0x10016, 1), (0x32016, 1)] } }
def landed : Block := { gradStep := 1, landed := 4 }
def lateGrad : LateGrad := { step := 1, block := 0, grad := [(0, 0), (1, 0), (2, 0), (3, 0)] }
def result : SweepResult :=
  { master := [], m := [], v := [], copy := [], skipped := true, clipped := false, fallback := false, wSq := 0, wMax := 0, uSq := 0, uMax := 0, graft := none, flags := 0 }
def swept : State := { updatingCtx { phase := .swept, sweep := some result } [] with fuus := [(0, { sweep := some (5, 0, 0) })] }
def startedBlock : State := updatingCtx { phase := .started } []

theorem witness_UpdateEventsRun :
    ((updatingCtx landed []).site? (5 : Fin 64).val 0 0).any (fun x => (updatingCtx landed []).fuuRuns (x.q.dieOf x.u) &&
      decide ((updatingCtx landed []).unitBlock (x.q.dieOf x.u) (updatingCtx landed []).startReady = some (5, 0, 0))) = true ∧
    (startedBlock.site? (5 : Fin 64).val 0 0).any (fun x => startedBlock.fuuRuns (x.q.dieOf x.u) && (startedBlock.fuu (x.q.dieOf x.u)).sweep.isNone &&
      decide (startedBlock.unitBlock (x.q.dieOf x.u) (fun c _ x => startedBlock.sweepReady c x) = some (5, 0, 0)) &&
      decide (startedBlock.checkReads 5 (x.sweepReads (x.t.step + 1)) = .ok) &&
      decide (startedBlock.checkWrite 5 (x.q.wcAt x.u 0 (x.t.step + 2)) (wcBytes x.q.p.update * x.n) = .ok)) = true ∧
    (swept.site? (5 : Fin 64).val 0 0).any (fun x => decide (x.block.phase = .swept) && decide (x.block.sweep = some result) &&
      decide ((swept.fuu (x.q.dieOf x.u)).sweep = some (5, 0, 0)) && swept.fuuRuns (x.q.dieOf x.u)) = true ∧
    (swept.ctx (5 : Fin 64).val).state = .running ∧
    ((updatingCtx {} [lateGrad]).site? (5 : Fin 64).val 0 lateGrad.block).any (fun x => decide (lateGrad.grad.length = x.n) &&
      (updatingCtx {} [lateGrad]).fuuRuns (x.q.dieOf x.u) && (updatingCtx {} [lateGrad]).mayStart 5 0 x lateGrad.step) = true ∧
    (tinyShard {} [lateGrad]).late.filter (fun g => g.step = (tinyShard {} [lateGrad]).step + 1) = [lateGrad] ∧
    tinyProg.stats.findIdx? (fun d => uLayer d = 1 && uExpert d = 0xFFF && !sGrad d) = some 0 ∧ 0 < sFactors tinyDesc 0 ∧
    (((updatingCtx {} []).ctx 5).absorbedStep 0 0 0) + 1 ≤ ((updatingCtx {} []).ctx 5).started ∧
    sGroups tinyDesc ≤ ((updatingCtx {} []).ctx 5).groupsAdded 1 0 0 0 ∧ ((updatingCtx {} []).ctx 5).mayAbsorb 0 0 0 1 = true ∧
    ((updatingCtx {} []).memberSums 5 tinyDesc 0 0 0 1).isSome = true ∧
    (updatingCtx {} []).cdRuns ((updatingCtx {} []).statArray 5 ((tinyProg.actBlocks.findIdx? fun y => y.1 = 0 && y.2.2.1 = 0 && y.2.2.2 = 0).getD 0) / 24) = true ∧
    (updatingCtx {} []).checkReads 5 [(sumAddr tinyDesc 0 0, 4 * sBlock tinyDesc 0 * sBlock tinyDesc 0), (factorAddr tinyDesc 0 0 ((1 + 1) % 2), sBuffer tinyDesc 0)] = .ok ∧
    (updatingCtx {} []).checkWrite 5 (factorAddr tinyDesc 0 0 (1 % 2)) (sBuffer tinyDesc 0) = .ok := by
  decide +kernel

theorem witness_EventCountersRead : devReady up hd 0 0x0701 = true := by decide +kernel

/-! ### Small tests, their expected results from the manual -/

/-- 300.0 to E4M3 and to E5M2: the manual's conversion examples (chapter 02, after R51). -/
theorem test_convert_300 : e4m3.encode .saturate (.ofNat 300) = (0x79, 0) ∧ e5m2.encode .saturate (.ofNat 300) = (0x5D, 0) := by decide +kernel

/-- 1,000.0 saturates E4M3 with SAT and rounds up in E5M2: the same examples. -/
theorem test_convert_1000 : e4m3.encode .saturate (.ofNat 1000) = (0x7E, fSat) ∧ e5m2.encode .saturate (.ofNat 1000) = (0x64, 0) := by
  decide +kernel

/-- Infinity to E4M3 and to E5M2: the same examples. -/
theorem test_convert_infinity : e4m3.encode .saturate (.inf false) = (0x7E, fInv) ∧ e5m2.encode .saturate (.inf false) = (0x7C, 0) := by
  decide +kernel

/-- An MXFP4 block of 44.0 and 20.0: scale code 0x82, codes 0x7 and 0x4 (the same chapter). -/
theorem test_mxfp4_block : (mxEncode e2m1 [.ofNat 44, .ofNat 20]).1 = 0x82 ∧ (mxEncode e2m1 [.ofNat 44, .ofNat 20]).2.1 = [7, 4] := by
  decide +kernel

/-- The canonical NaN's bytes in memory, lowest address first (chapter 00). -/
theorem test_nan_bytes : le 4 f32nan.toNat = [0x00, 0x00, 0xC0, 0x7F] := by decide

/-- The two copies of firmware word 0 lie on channels 888 and 377 (R310's example). -/
theorem test_firmware_channels : channelOf (0x17880000 * 4096) = 888 ∧ channelOf (0x17900000 * 4096) = 377 := by decide

/-- Self-location: lengths 8, 8, 16, 20 and coordinates 5, 2, 0, 3 make position 3,093 (R442's example). -/
theorem test_position : mixedRadix [8, 8, 16, 20] [5, 2, 0, 3] = 3093 := by decide

/-- The MAC address of FP12 at that position (the same example). -/
theorem test_port_mac : ({ up with fabric := { up.fabric with position := 3093 } } : State).portMac 12 = 0x024B460182AC#48 := by decide +kernel

/-- A wait on a target just below the wrap is satisfied after it; one step too early is not (R347). -/
theorem test_fence_wrap : fenceReached 5 0xFFFFFFFE = true ∧ fenceReached 0 1 = false := by decide

/-- A Fused Update Unit sweep of 129 elements takes 2 + 200 cycles (R220). -/
theorem test_sweep_cycles : sweepCycles 129 = 202 := by decide

/-- Addition of opposite infinities is NaN with INV (R52). -/
theorem test_inf_minus_inf : (f32add (f32inf false) (f32inf true)) = (f32nan, fInv) := by decide +kernel

/-- 1 + 2^−24 is a tie and rounds to even, without a flag. -/
theorem test_add_tie : f32add 0x3F800000 0x33800000 = (0x3F800000, 0) := by decide +kernel

def afterStep (c : Instr) (s : State) : State := match step { s with pending := [c] } with | .next t => t | _ => s

/-- FENCE_SIGNAL adds modulo 2^32 (R343). -/
theorem test_signal_wraps : (Tab.find? (afterStep (.fenceSignal hc 3 2) (fenced 0xFFFFFFFF false)).fences 3).map (·.value) = some 1 := by decide +kernel

/-- A command leaves the queue, and the one behind it stays. -/
theorem test_queue_order : (match step { up with pending := [.katDue 0, .katDue 1] } with | .next t => t.pending | _ => []) = [.katDue 1] := by
  decide +kernel

end Sys2Proof.Tests
end

namespace Sys2Proof.Machine

open Sys2Proof

/-! ### Commands that the checks refuse (R330, R331, R336) -/

/-- A check that passes has no part in the verdict. -/
theorem verdict_cons_pass {c : Check} (cs : List Check) (hc : c.1 = false) : verdict (c :: cs) = verdict cs := by
  simp [verdict, hc]

/-- Behind a failing check, one that passes or fails with the same status has no part in the verdict. -/
theorem verdict_cons_cons {c d : Check} (cs : List Check) (hc : c.1 = true) (hd : d.1 = true → d.2 = c.2) :
    verdict (c :: d :: cs) = verdict (c :: cs) := by
  cases hb : d.1 with
  | false => simp [verdict, hc, hb]
  | true => simp [verdict, hc, hb, hd hb]

/-- A failing check gives its status where every check behind it that fails gives the same. -/
theorem verdict_cons_fail {c : Check} {cs : List Check} (hc : c.1 = true) (hst : ∀ d ∈ cs, d.1 = true → d.2 = c.2) :
    verdict (c :: cs) = some c.2 := by
  induction cs with
  | nil => simp [verdict, hc]
  | cons d r ih =>
    rw [verdict_cons_cons r hc (hst d List.mem_cons_self)]
    exact ih fun e he => hst e (List.mem_cons_of_mem _ he)

/-- Where every failing check gives one status, and one fails, that status is the verdict (R331). -/
theorem verdict_eq_some {cs : List Check} {st : Status} (hex : ∃ c ∈ cs, c.1 = true) (hst : ∀ c ∈ cs, c.1 = true → c.2 = st) :
    verdict cs = some st := by
  induction cs with
  | nil => simp at hex
  | cons c r ih =>
    have hr : ∀ d ∈ r, d.1 = true → d.2 = st := fun d hd => hst d (List.mem_cons_of_mem _ hd)
    cases hc : c.1 with
    | false =>
      rw [verdict_cons_pass r hc]
      exact ih (by simpa [hc] using hex) hr
    | true =>
      have hs : c.2 = st := hst c List.mem_cons_self hc
      rw [verdict_cons_fail hc (by simpa [hs] using hr), hs]

/-- Of the common checks of a command in form that names a context, only the state of the context can fail (R336). -/
theorem KcpCmd.common_failing {k : KcpCmd} {h : KcpHdr} {s : State} (hr : h.reserved = false) (hl : h.badLen = false)
    (hn : k.need ≠ .none) (hx : h.context.toNat < 64) {c : Check} (hc : c ∈ k.common h s) (hf : c.1 = true) :
    stateGate (s.ctx (hctx h)).state k.cls = some c.2 := by
  have h255 : h.context.toNat ≠ 255 := by omega
  have h64 : ¬ 64 ≤ h.context.toNat := by omega
  simp only [KcpCmd.common, if_pos hx, List.mem_append, List.mem_cons, List.not_mem_nil, or_false] at hc
  rcases hc with (rfl | rfl) | hc
  · simp [hn, h255] at hf
  · simp [hr, hl, h64] at hf
  · split at hc
    · next st hg =>
      rw [List.mem_singleton] at hc
      exact hc ▸ hg
    · cases hc

/-- A ready command that names a context is refused with a status where one of its own checks fails with it, and neither another of
them nor the state of the context refuses with another status (R327, R331, R336). -/
theorem KcpCmd.arrive_ctx_refused (k : KcpCmd) (self : Instr) (h : KcpHdr) (s : State) (slot : Nat) (sts : List CtxState) (st : Status)
    (hr : ctxReady s h slot k.opcode sts = true) (hn : k.need ≠ .none)
    (hg : ∀ x ∈ sts, ∀ r, stateGate x k.cls = some r → r = st)
    (hex : ∃ c ∈ k.checks (s.take slot h), c.1 = true) (hc : ∀ c ∈ k.checks (s.take slot h), c.1 = true → c.2 = st) :
    k.arrive self h s = (s.take slot h).answer slot h k.opcode st [] := by
  simp only [ctxReady, kcpReady, Bool.and_eq_true, Bool.not_eq_true', decide_eq_true_eq, List.contains_iff_mem] at hr
  obtain ⟨⟨⟨⟨⟨hnext, hres⟩, hlen⟩, hsleep⟩, hctx⟩, hstate⟩ := hr
  have hv : k.verdict h (s.take slot h) = some st := by
    refine verdict_eq_some ?_ ?_
    · obtain ⟨c, hm, hf⟩ := hex
      exact ⟨c, List.mem_append_right _ hm, hf⟩
    · intro c hm hf
      simp only [List.mem_append, List.mem_singleton] at hm
      rcases hm with (hm | rfl) | hm
      · have hgate := KcpCmd.common_failing hres hlen hn hctx hm hf
        rw [State.take_ctx] at hgate
        exact hg _ hstate _ hgate
      · simp [hsleep] at hf
      · exact hc c hm hf
  rw [k.arrive_of_next self h s slot hnext]
  simp [KcpCmd.run, hv]

/-- The state of the context that a ready command names is one of those given. -/
theorem ctxReady_state {s : State} {h : KcpHdr} {slot : Nat} {op : W16} {sts : List CtxState} (hr : ctxReady s h slot op sts = true) :
    (s.ctx (hctx h)).state ∈ sts := by
  simp only [ctxReady, Bool.and_eq_true, List.contains_iff_mem] at hr
  exact hr.2

/-! ### STEP_RUN, STEP_HOLD and STEP_QUERY (R336, R350, R351) -/

/-- LOADED, RUNNING, HOLDING and HELD accept step control (R336). -/
theorem stateGate_stepControl : ∀ st ∈ [CtxState.loaded, .running, .holding, .held], stateGate st .stepControl = none := by
  decide

/-- Of CREATED and the states that accept step control, CREATED alone refuses it, with NOT_READY (R336). -/
theorem stateGate_stepControl_refusal {st : CtxState} (h : st ∈ [CtxState.created, .loaded, .running, .holding, .held]) {r : Status}
    (hg : stateGate st .stepControl = some r) : r = .notReady := by
  rw [List.mem_cons] at h
  rcases h with rfl | h
  · exact (Option.some.inj hg).symm
  · rw [stateGate_stepControl st h] at hg
    cases hg

/-- What STEP_RUN does to the context (R350): it runs, and RUN_LEFT grows by COUNT, saturating. -/
def Ctx.runSteps (session : W32) (n : W32) (x : Ctx) : Ctx :=
  { x with state := .running, holdStep := none, holdSess := session
           runLeft := BitVec.ofNat 32 (min (2 ^ 32 - 1) (x.runLeft.toNat + n.toNat)) }

/-- A context that holds a program passes the check for one. -/
theorem Ctx.isNone_program {x : Ctx} (h : x.program ≠ none) : x.program.isNone = false := by
  simpa [Option.isSome_iff_ne_none] using h

/-- STEP_RUN with its checks passed: the context runs on, and a held one takes up what the host rewrote (R199, R243, R350). -/
theorem exec_stepRun_ok {h : KcpHdr} {n : W32} {s : State} {slot : Nat} {sts : List CtxState}
    (hr : ctxReady s h slot 0x0501 sts = true) (hs : sts ⊆ [.loaded, .running, .holding, .held]) (hn : n ≠ 0)
    (hp : (s.ctx (hctx h)).program ≠ none) :
    Runs (.stepRun h n) s h slot 0x0501 .ok [] fun t =>
      let u := t.onCtx (hctx h) (Ctx.runSteps h.session n)
      if (s.ctx (hctx h)).state = .held then ((u.rereadUpdate (hctx h)).rereadExperts (hctx h)).remakeRewritten (hctx h) else u := by
  rw [Runs, exec_stepRun, execStepRun,
    KcpCmd.arrive_ctx_mk _ h s slot sts hr (by decide) (fun _ hst => stateGate_stepControl _ (hs hst))
      (by simpa [Ctx.isNone_program hp] using hn)]
  simp only [State.take_ctx]
  rfl

/-- STEP_RUN in a context that is not held. -/
theorem exec_stepRun_active {h : KcpHdr} {n : W32} {s : State} {slot : Nat}
    (hr : ctxReady s h slot 0x0501 [.loaded, .running, .holding] = true) (hn : n ≠ 0) (hp : (s.ctx (hctx h)).program ≠ none) :
    Runs (.stepRun h n) s h slot 0x0501 .ok [] fun t => t.onCtx (hctx h) (Ctx.runSteps h.session n) := by
  have hst : (s.ctx (hctx h)).state ≠ .held := fun he => by simpa [he] using ctxReady_state hr
  simpa [hst] using exec_stepRun_ok hr (by simp) hn hp

/-- STEP_RUN in a held context. -/
theorem exec_stepRun_held {h : KcpHdr} {n : W32} {s : State} {slot : Nat} (hr : ctxReady s h slot 0x0501 [.held] = true)
    (hn : n ≠ 0) (hp : (s.ctx (hctx h)).program ≠ none) :
    Runs (.stepRun h n) s h slot 0x0501 .ok [] fun t => (((t.onCtx (hctx h) (Ctx.runSteps h.session n)).rereadUpdate
      (hctx h)).rereadExperts (hctx h)).remakeRewritten (hctx h) := by
  have hst : (s.ctx (hctx h)).state = .held := by simpa using ctxReady_state hr
  simpa [hst] using exec_stepRun_ok hr (by simp) hn hp

/-- STEP_RUN without a program: the check for one refuses it, and in CREATED the state does with the same status (R336, R350). -/
theorem exec_stepRun_notReady {h : KcpHdr} {n : W32} {s : State} {slot : Nat}
    (hr : ctxReady s h slot 0x0501 [.created, .loaded, .running, .holding, .held] = true) (hn : n ≠ 0)
    (hp : (s.ctx (hctx h)).program = none) : Runs (.stepRun h n) s h slot 0x0501 .notReady [] id := by
  rw [Runs, exec_stepRun, execStepRun]
  refine congrArg _ (KcpCmd.arrive_ctx_refused _ _ h s slot _ .notReady hr nofun (fun _ hst _ => stateGate_stepControl_refusal hst) ?_ ?_)
  · simp [hp]
  · simpa [hp] using hn

/-- STEP_HOLD at the next boundary, with steps in flight, names the last step started (R351). -/
theorem exec_stepHold_next {h : KcpHdr} {s : State} {slot : Nat} (hr : ctxReady s h slot 0x0502 [.running, .holding] = true)
    (hp : (s.ctx (hctx h)).program ≠ none) (hlt : (s.ctx (hctx h)).step.toNat < (s.ctx (hctx h)).started) :
    Runs (.stepHold h 0) s h slot 0x0502 .ok (be 8 (s.ctx (hctx h)).started) fun t => t.onCtx (hctx h) fun x => { x with
      state := .holding, holdStep := some x.started, holdSess := h.session, runLeft := 0 } := by
  have hst := ctxReady_state hr
  have hrest : (s.ctx (hctx h)).state ≠ .loaded ∧ (s.ctx (hctx h)).state ≠ .held := by
    constructor <;> (intro he; simp [he] at hst)
  have hahead : ¬ (s.ctx (hctx h)).started ≤ (s.ctx (hctx h)).step.toNat := by omega
  rw [Runs, exec_stepHold, execStepHold,
    KcpCmd.arrive_ctx_mk _ h s slot _ hr (by decide) (by decide) (by simp [Ctx.isNone_program hp])]
  simp [hrest, hahead, done, State.onCtx]

/-- STEP_HOLD of a context in which no step runs only replies with the step counter (R351; log entry 97). -/
theorem exec_stepHold_atRest {h : KcpHdr} {k : W64} {s : State} {slot : Nat} (hr : ctxReady s h slot 0x0502 [.loaded, .held] = true)
    (hp : (s.ctx (hctx h)).program ≠ none) :
    Runs (.stepHold h k) s h slot 0x0502 .ok (be 8 (s.ctx (hctx h)).step.toNat) id := by
  have hst : (s.ctx (hctx h)).state = .loaded ∨ (s.ctx (hctx h)).state = .held := by simpa using ctxReady_state hr
  have hlive : ¬ ((s.ctx (hctx h)).state = .running ∨ (s.ctx (hctx h)).state = .holding) := by
    rcases hst with he | he <;> simp [he]
  rw [Runs, exec_stepHold, execStepHold,
    KcpCmd.arrive_ctx_mk _ h s slot _ hr (by decide) (by decide) (by simp [Ctx.isNone_program hp, not_or.1 hlive])]
  simp [hst, done]

/-- STEP_QUERY returns the counters of the context and changes nothing (R350, R351). -/
theorem exec_stepQuery_ok {h : KcpHdr} {s : State} {slot : Nat} (hr : ctxReady s h slot 0x0503 anyHeld = true) :
    Runs (.stepQuery h) s h slot 0x0503 .ok (be 8 (s.ctx (hctx h)).step.toNat ++ be 8 (s.ctx (hctx h)).minShardStep ++
      be 4 (s.ctx (hctx h)).runLeft.toNat ++ be 1 (ctxStateCode (s.ctx (hctx h)).state) ++ be 3 0) id := by
  rw [Runs, exec_stepQuery, execStepQuery,
    KcpCmd.arrive_ctx_mk _ h s slot _ hr (by decide) (by decide) (by simp)]
  simp [done]

/-! ### Fences (R347, R362) -/

/-- Notices of a fence change sessions and what leaves the module, and nothing else. -/
theorem State.spoke_fenceNotices (s : State) (f owner : Nat) (v : W32) : s.Spoke (s.fenceNotices f owner v) := by
  refine State.Spoke.foldl _ (fun s e => ?_) _ s
  split
  · exact .refl s
  · dsimp only
    split
    · exact .refl s
    · exact (s.spoke_setSession _ _).trans (State.Spoke.foldl _ (fun t _ => t.spoke_notify _ _ _ _) _ _)

/-- A signal raises the value of a fence that is not frozen, and only that fence's. -/
theorem State.signal_fences {s : State} {f : Nat} {x : Fence} (inc : W32) (hx : Tab.find? s.fences f = some x) (hz : x.frozen = false) :
    (s.signal f inc).fences = Tab.put s.fences f { x with value := x.value + inc } := by
  simpa [State.signal, hx, hz] using (State.spoke_fenceNotices _ f x.owner (x.value + inc)).fences

/-- The rule of R347 in numbers. -/
theorem fenceReached_iff (v t : W32) : fenceReached v t = true ↔ (v.toNat + 2 ^ 32 - t.toNat) % 2 ^ 32 < 2 ^ 31 := by
  have ht := t.isLt
  rw [fenceReached, decide_eq_true_eq, BitVec.toNat_sub, show 2 ^ 32 - t.toNat + v.toNat = v.toNat + 2 ^ 32 - t.toNat by omega]

/-- A wait of a one-shot grid (R347). -/
theorem State.waitOk_none {s : State} {f : Nat} {x : Fence} (v : W32) (hx : Tab.find? s.fences f = some x) :
    s.waitOk f v none = fenceReached x.value v := by
  simp [State.waitOk, hx]

/-- A wait of a step grid: its target moves by STRIDE per step (R347). -/
theorem State.waitOk_some {s : State} {f : Nat} {x : Fence} (v : W32) (n : Nat) (hx : Tab.find? s.fences f = some x) :
    s.waitOk f v (some n) = fenceReached x.value (BitVec.ofNat 32 (v.toNat + (n - 1) * x.stride.toNat)) := by
  simp [State.waitOk, hx, BitVec.ofNat_add]

/-- A wait stays satisfied while the value moves on by less than 2^31 from its target (R347). -/
theorem fenceReached_add {v t inc : W32} (h : (v - t).toNat + inc.toNat < 2 ^ 31) : fenceReached (v + inc) t = true := by
  have he : v + inc - t = (v - t) + inc := by rw [BitVec.add_sub_comm, BitVec.add_comm]
  rw [fenceReached, decide_eq_true_eq, he, BitVec.toNat_add, Nat.mod_eq_of_lt (by omega)]
  exact h

/-! ### Event counters (R332, R334, R423) -/

/-- COUNTER_READ of a block that no context keeps returns the counters it names and changes nothing (R334). -/
theorem exec_counterRead_ok {h : KcpHdr} {block unit first count : W16} {s : State} {slot : Nat} (hr : devReady s h slot 0x0701 = true)
    (hb : counterOfCtx block.toNat = false) (hu : unit.toNat < counterUnits block.toNat)
    (hn : first.toNat + count.toNat ≤ counterCount block.toNat) :
    Runs (.counterRead h block unit first count) s h slot 0x0701 .ok
      (params64 ((((s.take slot h).counterBlock (hctx h) block.toNat unit.toNat).drop first.toNat).take count.toNat)) id := by
  have h12 : block.toNat < 12 := Nat.lt_of_not_le fun hle => by simp [counterOfCtx, hle] at hb
  rw [Runs, exec_counterRead, execCounterRead, KcpCmd.arrive_dev_mk _ h s slot hr (by simp [hb]) (by simp [h12, hu, hn])]
  simp [done]

/-- Taking a command leaves the counters of R332. -/
theorem State.take_kcpCounters (s : State) (slot : Nat) (h : KcpHdr) :
    (s.take slot h).kcp.drops = s.kcp.drops ∧ (s.take slot h).kcp.badCrc = s.kcp.badCrc ∧
      (s.take slot h).kcp.duplicates = s.kcp.duplicates := by
  unfold State.take
  split <;> exact ⟨rfl, rfl, rfl⟩

/-- A module reset returns what KCP keeps to its reset value. -/
@[simp] theorem State.moduleReset_kcp (s : State) (full : Bool) : (s.moduleReset full).kcp = {} := rfl
/-- A module reset returns what power control keeps to its reset value. -/
@[simp] theorem State.moduleReset_power (s : State) (full : Bool) : (s.moduleReset full).power = {} := rfl

/-- A counter grows by what is added, modulo 2^64 (R421). -/
theorem Tab.get_count (t : Tab W64) (i n : Nat) : Tab.get 0 (Tab.count t i n) i = BitVec.ofNat 64 ((Tab.get 0 t i).toNat + n) := by
  simp [Tab.count, BitVec.ofNat_add]

end Sys2Proof.Machine

namespace Sys2Proof.Proofs

open Sys2Proof Sys2Proof.Machine

/-- Settles O41: one execution lemma per command, from the rule of a command that is next and passes its checks, or is refused. -/
theorem stepCommandsRun : Obligations.StepCommandsRun := by
  unfold Obligations.StepCommandsRun
  exact ⟨fun _ _ _ _ hr hn hp => exec_stepRun_active hr hn hp, fun _ _ _ _ hr hn hp => exec_stepRun_held hr hn hp,
    fun _ _ _ _ hr hn hp => exec_stepRun_notReady hr hn hp, fun _ _ _ hr hp hlt => exec_stepHold_next hr hp hlt,
    fun _ _ _ _ hr hp => exec_stepHold_atRest hr hp, fun _ _ _ hr => exec_stepQuery_ok hr⟩

/-- Settles O43: a signal writes the fence's entry, and a wait compares the value with its target modulo 2^32. -/
theorem fenceWaitRule : Obligations.FenceWaitRule := by
  unfold Obligations.FenceWaitRule
  refine ⟨fun s f inc x hx hz => ?_, fun s f v n x hx => ⟨?_, ?_⟩, fun v t inc _ hlt => fenceReached_add hlt⟩
  · simp [State.signal_fences inc hx hz, BitVec.ofNat_add]
  · rw [State.waitOk_some v n hx, fenceReached_iff, BitVec.toNat_ofNat]
  · rw [State.waitOk_none v hx, fenceReached_iff]

/-- Settles O58: COUNTER_READ of blocks 8 and 11, and the counters that a module reset starts afresh. -/
theorem eventCountersRead : Obligations.EventCountersRead := by
  unfold Obligations.EventCountersRead
  refine ⟨fun h s slot hr => ⟨?_, ?_⟩, Tab.get_count, fun s full => by simp [Tab.get]⟩
  · obtain ⟨hd, hc, hu⟩ := s.take_kcpCounters slot h
    have := exec_counterRead_ok (block := 8) (unit := 0) (first := 1) (count := 3) hr (by decide) (by decide) (by decide)
    simpa [State.counterBlock, hd, hc, hu] using this
  · have := exec_counterRead_ok (block := 11) (unit := 0) (first := 0) (count := 4) hr (by decide) (by decide) (by decide)
    simpa [State.counterBlock, listed, counterCount, List.take_of_length_le] using this

end Sys2Proof.Proofs

namespace Sys2Proof.Machine

open Sys2Proof

/-! ### The reset pin (R458) -/

@[simp] theorem onlyIf_true (f : State → State) (s : State) : onlyIf true f s = f s := rfl
@[simp] theorem onlyIf_false (f : State → State) (s : State) : onlyIf false f s = s := rfl

@[simp] theorem State.askReset_powered (s : State) : s.askReset.powered = s.powered := rfl

/-- During an orderly stop the module does not count as powered. -/
theorem State.powered_of_stopping {s : State} (h : s.power.stopCause ≠ none) : s.powered = false := by
  simpa [State.powered, Option.isSome_iff_ne_none] using h

/-- The state with the reset pin at a level. -/
def State.setResetLow (s : State) (low : Bool) : State := s.onMgmt fun m => { m with resetLow := low }

@[simp] theorem State.setResetLow_powered (s : State) (low : Bool) : (s.setResetLow low).powered = s.powered := rfl
@[simp] theorem State.setResetLow_mem (s : State) (low : Bool) : (s.setResetLow low).mem = s.mem := rfl
@[simp] theorem State.setResetLow_resetLow (s : State) (low : Bool) : (s.setResetLow low).mgmt.resetLow = low := rfl

/-- The pin returns to the level from which it came. -/
theorem State.setResetLow_setResetLow {s : State} {low : Bool} (h : s.mgmt.resetLow = low) (b : Bool) :
    (s.setResetLow b).setResetLow low = s := by
  subst h
  rfl

/-- The pin goes low. -/
theorem exec_resetNAssert_powered {s : State} (hp : s.powered = true) : exec .resetNAssert s = .next (s.setResetLow true) := by
  simp [execResetNAssert, hp, State.setResetLow]

/-- The release ends the low and acts by its length. -/
theorem exec_resetNRelease_low {us : Nat} {s : State} (hp : s.powered = true) (hl : s.mgmt.resetLow = true) :
    exec (.resetNRelease us) s = .next (if us < 10 then s.setResetLow false
      else if us < 5000000 then (s.setResetLow false).askReset else (s.setResetLow false).moduleReset true) := by
  simp [execResetNRelease, hp, hl, State.setResetLow]

/-- A low of less than 10 µs only ends. -/
theorem exec_resetNRelease_short {us : Nat} {s : State} (hp : s.powered = true) (hl : s.mgmt.resetLow = true) (hus : us < 10) :
    exec (.resetNRelease us) s = .next (s.setResetLow false) := by
  rw [exec_resetNRelease_low hp hl, if_pos hus]

/-- A low of 10 µs up to 5 s asks for a warm reset (log entry 54). -/
theorem exec_resetNRelease_warm {us : Nat} {s : State} (hp : s.powered = true) (hl : s.mgmt.resetLow = true) (hge : 10 ≤ us)
    (hlt : us < 5000000) : exec (.resetNRelease us) s = .next (s.setResetLow false).askReset := by
  rw [exec_resetNRelease_low hp hl, if_neg (Nat.not_lt.2 hge), if_pos hlt]

/-- A low of 5 s or more is a full reset. -/
theorem exec_resetNRelease_full {us : Nat} {s : State} (hp : s.powered = true) (hl : s.mgmt.resetLow = true) (hge : 5000000 ≤ us) :
    exec (.resetNRelease us) s = .next ((s.setResetLow false).moduleReset true) := by
  rw [exec_resetNRelease_low hp hl, if_neg (by omega), if_neg (Nat.not_lt.2 hge)]

/-- The warm reset runs where no channel retrains, no orderly stop is under way and the pin is high (R313, R368, R463). -/
theorem exec_moduleWarmReset_ready {i : BootInputs} {s : State} (hb : s.mem.busy = none) (hp : s.powered = true)
    (hl : s.mgmt.resetLow = false) : exec (.moduleWarmReset i) s = .next ((s.moduleReset false).bootUp i) := by
  simp [execModuleWarmReset, hb, hp, hl]

/-- DEV_RESET level 2 replies and then resets the module fully (R330, R365). -/
theorem exec_devReset_full {h : KcpHdr} {s : State} {slot : Nat} (hr : devReady s h slot 0x0106 = true) :
    RunsThen (.devReset h 2) s h slot 0x0106 .ok [] id fun t => t.moduleReset true := by
  rw [RunsThen, exec_devReset, execDevReset, KcpCmd.arrive_dev_mk _ h s slot hr (by decide) (by simp)]
  rfl

/-- While the pin is low the module does not start. -/
theorem exec_start_resetLow {s : State} (hl : s.mgmt.resetLow = true) (i : BootInputs) :
    exec (.coldBoot i) s = .next s ∧ exec (.moduleWarmReset i) s = .next s := by
  simp [execColdBoot, execModuleWarmReset, hl]

/-- While the pin is low no packet reaches KCP. -/
theorem State.kcpUp_resetLow {s : State} (hl : s.mgmt.resetLow = true) (p : Fin 2) : s.kcpUp p = false := by
  simp [State.kcpUp, hl]

/-- While the pin is low the management bus is not served. -/
theorem State.busUp_resetLow {s : State} (hl : s.mgmt.resetLow = true) : s.busUp = false := by
  simp [State.busUp, hl]

/-- A bus that is not served takes no access to a register: neither a transfer nor a bit with an action of its own (R459). -/
theorem exec_register_busDown {s : State} (hb : s.busUp = false) :
    (∀ o ws e, exec (.mgmtRegisterWrite o ws e) s = .next s) ∧ (∀ m, exec (.alertCauseClear m) s = .next s) ∧
      exec .warmReset s = .next s ∧ exec .fullReset s = .next s := by
  simp [execMgmtRegisterWrite, execAlertCauseClear, execWarmReset, execFullReset, hb]

/-- A bus that is not served answers no I3C command (R456). -/
theorem exec_i3c_busDown {s : State} (hb : s.busUp = false) :
    (∀ a, exec (.setdasa a) s = .next s ∧ exec (.entdaa a) s = .next s) ∧ exec .rstdaa s = .next s ∧ exec .getstatus s = .next s := by
  simp [execSetdasa, execEntdaa, execRstdaa, execGetstatus, hb]

/-- During an orderly stop the pin does nothing. -/
theorem exec_resetN_stopping {s : State} (hs : s.power.stopCause ≠ none) (us : Nat) :
    exec .resetNAssert s = .next s ∧ exec (.resetNRelease us) s = .next s := by
  simp [execResetNAssert, execResetNRelease, State.powered_of_stopping hs]

end Sys2Proof.Machine

namespace Sys2Proof.Proofs

open Sys2Proof Sys2Proof.Machine

/-- Settles O59: a release of the pin by the length of the low, and what a low pin and an orderly stop hold back. -/
theorem resetPinRule : Obligations.ResetPinRule := by
  unfold Obligations.ResetPinRule
  refine ⟨fun us s hp hl hge hlt => ?warm, fun us s hp hl hge => exec_resetNRelease_full hp hl hge,
    fun h s slot hr => exec_devReset_full hr, fun us s hp hl hlt => ?short, fun s hl => ?held, fun us s hs => exec_resetN_stopping hs us⟩
  case warm =>
    exact ⟨_, exec_resetNRelease_warm hp hl hge hlt, rfl, fun i hb =>
      exec_moduleWarmReset_ready (by simpa using hb) (by simpa using hp) (by simp)⟩
  case short =>
    refine ⟨s.setResetLow true, exec_resetNAssert_powered hp, by simp, ?_⟩
    rw [exec_resetNRelease_short (by simpa using hp) (by simp) hlt, State.setResetLow_setResetLow hl]
  case held =>
    have hb := State.busUp_resetLow hl
    obtain ⟨hwrite, hclear, hwarm, hfull⟩ := exec_register_busDown hb
    obtain ⟨haddr, hrst, hstatus⟩ := exec_i3c_busDown hb
    exact ⟨exec_start_resetLow hl, State.kcpUp_resetLow hl, hwrite, hclear, haddr, hrst, hstatus, hwarm, hfull⟩

end Sys2Proof.Proofs

namespace Sys2Proof.Machine

open Sys2Proof

/-! ### The block and its queue (log entries 2 and 3) -/

/-- Every command's meaning answers a next state. -/
theorem exec_next (i : Instr) (s : State) : ∃ t, exec i s = .next t := by
  cases i <;> exact ⟨_, rfl⟩

/-- Executing a command keeps the forms of memory and of the fuses: each command by the lemma of its own meaning. -/
theorem Good.of_exec {b s : State} (hs : Good b s) : ∀ (i : Instr) (t : State), exec i s = .next t → Good b t
  | .devInfo h => Good.of_execDevInfo h s hs
  | .devSet h id value => Good.of_execDevSet h id value s hs
  | .devGet h id => Good.of_execDevGet h id s hs
  | .powerState h value => Good.of_execPowerState h value s hs
  | .regulatorSet h partition rate bucket => Good.of_execRegulatorSet h partition rate bucket s hs
  | .timeSet h seconds => Good.of_execTimeSet h seconds s hs
  | .devReset h level => Good.of_execDevReset h level s hs
  | .ctxCreate h priority partition => Good.of_execCtxCreate h priority partition s hs
  | .ctxDestroy h => Good.of_execCtxDestroy h s hs
  | .ctxQuery h => Good.of_execCtxQuery h s hs
  | .ctxPurge h => Good.of_execCtxPurge h s hs
  | .ctxPriority h priority => Good.of_execCtxPriority h priority s hs
  | .memGrant h base bytes => Good.of_execMemGrant h base bytes s hs
  | .memRelease h region => Good.of_execMemRelease h region s hs
  | .memWrite h addr data parityErrors => Good.of_execMemWrite h addr data parityErrors s hs
  | .memRead h addr bytes parityErrors => Good.of_execMemRead h addr bytes parityErrors s hs
  | .memFill h addr bytes pattern fence => Good.of_execMemFill h addr bytes pattern fence s hs
  | .streamOpen h stream dir addr bytes => Good.of_execStreamOpen h stream dir addr bytes s hs
  | .streamData h stream offset data => Good.of_execStreamData h stream offset data s hs
  | .streamClose h stream crc => Good.of_execStreamClose h stream crc s hs
  | .streamTimeout slot stream => Good.of_execStreamTimeout slot stream s hs
  | .cisternAttach h => Good.of_execCisternAttach h s hs
  | .shardSet h layer expert firstBlock momentAge b1pow b2pow => Good.of_execShardSet h layer expert firstBlock momentAge b1pow b2pow s hs
  | .cisternPrefetch ctx shard => Good.of_execCisternPrefetch ctx shard s hs
  | .progLoad h dir entries => Good.of_execProgLoad h dir entries s hs
  | .loadDone ctx => Good.of_execLoadDone ctx s hs
  | .progUnload h => Good.of_execProgUnload h s hs
  | .progQuery h => Good.of_execProgQuery h s hs
  | .gridSubmit h grid => Good.of_execGridSubmit h grid s hs
  | .stepRun h count => Good.of_execStepRun h count s hs
  | .stepHold h atStep => Good.of_execStepHold h atStep s hs
  | .stepQuery h => Good.of_execStepQuery h s hs
  | .fenceSignal h fence inc => Good.of_execFenceSignal h fence inc s hs
  | .fenceQuery h fence => Good.of_execFenceQuery h fence s hs
  | .fenceNotify h fence target => Good.of_execFenceNotify h fence target s hs
  | .rsCreate h order nblkA pattern memBase memBytes damp mode => Good.of_execRsCreate h order nblkA pattern memBase memBytes damp mode s hs
  | .rsDestroy h handle => Good.of_execRsDestroy h handle s hs
  | .rsFeed h handle bytes src => Good.of_execRsFeed h handle bytes src s hs
  | .rsFactor h handle fence status => Good.of_execRsFactor h handle fence status s hs
  | .rsSolve h handle flags fence nrhs b x status => Good.of_execRsSolve h handle flags fence nrhs b x status s hs
  | .rsQuery h handle => Good.of_execRsQuery h handle s hs
  | .rsGenerationResident handle => Good.of_execRsGenerationResident handle s hs
  | .rsWorkComplete handle => Good.of_execRsWorkComplete handle s hs
  | .rootConfig h w0 w1 w2 w3 => Good.of_execRootConfig h w0 w1 w2 w3 s hs
  | .rootQuery h layer expert side block => Good.of_execRootQuery h layer expert side block s hs
  | .counterRead h block unit first count => Good.of_execCounterRead h block unit first count s hs
  | .regRead h addr words silent => Good.of_execRegRead h addr words silent s hs
  | .regClear h addr mask => Good.of_execRegClear h addr mask s hs
  | .captureRead h => Good.of_execCaptureRead h s hs
  | .captureArm h => Good.of_execCaptureArm h s hs
  | .tableRead h table count first => Good.of_execTableRead h table count first s hs
  | .idleRead h => Good.of_execIdleRead h s hs
  | .idleClear h mask => Good.of_execIdleClear h mask s hs
  | .eventRead h first count => Good.of_execEventRead h first count s hs
  | .snapshotRead h offset bytes => Good.of_execSnapshotRead h offset bytes s hs
  | .dumpRead h offset bytes => Good.of_execDumpRead h offset bytes s hs
  | .retrainRequest h channel => Good.of_execRetrainRequest h channel s hs
  | .recoverBegin h => Good.of_execRecoverBegin h s hs
  | .recoverReady ctx => Good.of_execRecoverReady ctx s hs
  | .recoverPoint h point => Good.of_execRecoverPoint h point s hs
  | .peerSet h position state tag servedBy => Good.of_execPeerSet h position state tag servedBy s hs
  | .spareAssign h position => Good.of_execSpareAssign h position s hs
  | .recoverLoad h dir entries point flags => Good.of_execRecoverLoad h dir entries point flags s hs
  | .rebuildQuery h => Good.of_execRebuildQuery h s hs
  | .digestRead h label => Good.of_execDigestRead h label s hs
  | .divergenceRead h => Good.of_execDivergenceRead h s hs
  | .unitReset h unitKind unitIndex => Good.of_execUnitReset h unitKind unitIndex s hs
  | .dieReset h dieKind index => Good.of_execDieReset h dieKind index s hs
  | .dumpTake h => Good.of_execDumpTake h s hs
  | .sessionOpen h challenge sig sigOk => Good.of_execSessionOpen h challenge sig sigOk s hs
  | .sessionClose h => Good.of_execSessionClose h s hs
  | .sessionTimeout slot => Good.of_execSessionTimeout slot s hs
  | .challengeExpiry addr port => Good.of_execChallengeExpiry addr port s hs
  | .hostAck h => Good.of_execHostAck h s hs
  | .d2hResend slot sequence => Good.of_execD2hResend slot sequence s hs
  | .identInfo h => Good.of_execIdentInfo h s hs
  | .identKeyRead h => Good.of_execIdentKeyRead h s hs
  | .attest h nonce => Good.of_execAttest h nonce s hs
  | .fwBegin h slot bytes => Good.of_execFwBegin h slot bytes s hs
  | .fwWrite h offset data => Good.of_execFwWrite h offset data s hs
  | .fwEnd h sigOk => Good.of_execFwEnd h sigOk s hs
  | .fwActivate h slot sigOk => Good.of_execFwActivate h slot sigOk s hs
  | .fwCommit h advance => Good.of_execFwCommit h advance s hs
  | .ownerEnroll h pub => Good.of_execOwnerEnroll h pub s hs
  | .ownerReplace h pub sig sigOk => Good.of_execOwnerReplace h pub sig sigOk s hs
  | .ownerRemove h sig sigOk => Good.of_execOwnerRemove h sig sigOk s hs
  | .hostPortLinkUp port common400 lane1 => Good.of_execHostPortLinkUp port common400 lane1 s hs
  | .hostPortLaneLoss port lane => Good.of_execHostPortLaneLoss port lane s hs
  | .hostPortRetry400G port trained => Good.of_execHostPortRetry400G port trained s hs
  | .dhcpRenew port addr gateway prefixLen leaseSec => Good.of_execDhcpRenew port addr gateway prefixLen leaseSec s hs
  | .routerAdvertisement port pfx => Good.of_execRouterAdvertisement port pfx s hs
  | .neighborDiscovery port msg => Good.of_execNeighborDiscovery port msg s hs
  | .arpRequest port target sender => Good.of_execArpRequest port target sender s hs
  | .icmpEchoRequest port v6 dst src payload => Good.of_execIcmpEchoRequest port v6 dst src payload s hs
  | .write f payload => Good.of_execWrite f payload s hs
  | .readReq f requester length => Good.of_execReadReq f requester length s hs
  | .readResp f payload => Good.of_execReadResp f payload s hs
  | .signal f => Good.of_execSignal f s hs
  | .dispatch f payload => Good.of_execDispatch f payload s hs
  | .delta f payload => Good.of_execDelta f payload s hs
  | .parity f payload => Good.of_execParity f payload s hs
  | .coll f payload => Good.of_execColl f payload s hs
  | .e2eAck f => Good.of_execE2eAck f s hs
  | .e2eNack f => Good.of_execE2eNack f s hs
  | .routeUpdate f => Good.of_execRouteUpdate f s hs
  | .hopNak f => Good.of_execHopNak f s hs
  | .credit f counts => Good.of_execCredit f counts s hs
  | .discover f record stamps => Good.of_execDiscover f record stamps s hs
  | .linkState f => Good.of_execLinkState f s hs
  | .fcsErrorFrame port => Good.of_execFcsErrorFrame port s hs
  | .discardedFrame port kind => Good.of_execDiscardedFrame port kind s hs
  | .hopAckInterval port => Good.of_execHopAckInterval port s hs
  | .portLinkUp port media => Good.of_execPortLinkUp port media s hs
  | .laneDrop port lane => Good.of_execLaneDrop port lane s hs
  | .laneReadmit port lane => Good.of_execLaneReadmit port lane s hs
  | .farEndSilent port => Good.of_execFarEndSilent port s hs
  | .portLost port => Good.of_execPortLost port s hs
  | .linkUp axis lower => Good.of_execLinkUp axis lower s hs
  | .vcShare port value => Good.of_execVcShare port value s hs
  | .collectiveStart ctx slot task => Good.of_execCollectiveStart ctx slot task s hs
  | .stepStart ctx => Good.of_execStepStart ctx s hs
  | .stepBoundary ctx => Good.of_execStepBoundary ctx s hs
  | .taskComplete ctx slot task => Good.of_execTaskComplete ctx slot task s hs
  | .passStart array => Good.of_execPassStart array s hs
  | .passEnd array parityErrors ecc => Good.of_execPassEnd array parityErrors ecc s hs
  | .sluiceHandover array => Good.of_execSluiceHandover array s hs
  | .vxuIssueGroup vxu ecc parityErrors => Good.of_execVxuIssueGroup vxu ecc parityErrors s hs
  | .zrelClearDone array tile => Good.of_execZrelClearDone array tile s hs
  | .dispatchAccept vxu => Good.of_execDispatchAccept vxu s hs
  | .katDue array => Good.of_execKatDue array s hs
  | .katEnd array result => Good.of_execKatEnd array result s hs
  | .spareCtl array value => Good.of_execSpareCtl array value s hs
  | .skewTrim array value => Good.of_execSkewTrim array value s hs
  | .retire array => Good.of_execRetire array s hs
  | .runKat array => Good.of_execRunKat array s hs
  | .resume array => Good.of_execResume array s hs
  | .statAbsorption ctx layer expert side block => Good.of_execStatAbsorption ctx layer expert side block s hs
  | .rteJobStart engine => Good.of_execRteJobStart engine s hs
  | .rteProductDrain engine residueError => Good.of_execRteProductDrain engine residueError s hs
  | .rootPublish engine => Good.of_execRootPublish engine s hs
  | .rteFault engine testPassed => Good.of_execRteFault engine testPassed s hs
  | .blockUpdateStart ctx shard block => Good.of_execBlockUpdateStart ctx shard block s hs
  | .writeSweepStart ctx shard block => Good.of_execWriteSweepStart ctx shard block s hs
  | .blockCommit ctx shard block => Good.of_execBlockCommit ctx shard block s hs
  | .lateUpdate ctx shard => Good.of_execLateUpdate ctx shard s hs
  | .wcbEvict stack => Good.of_execWcbEvict stack s hs
  | .scrubStep channel result => Good.of_execScrubStep channel result s hs
  | .retrainDue channel => Good.of_execRetrainDue channel s hs
  | .driftAlarm channel => Good.of_execDriftAlarm channel s hs
  | .retrainStart => Good.of_execRetrainStart s hs
  | .retrainEnd passed => Good.of_execRetrainEnd passed s hs
  | .channelSilent channel => Good.of_execChannelSilent channel s hs
  | .channelFenced channel ceInHour ueInHour => Good.of_execChannelFenced channel ceInHour ueInHour s hs
  | .granuleRelocate channel => Good.of_execGranuleRelocate channel s hs
  | .contextPurged ctx => Good.of_execContextPurged ctx s hs
  | .purgeUnitTimeout ctx unit confirmLate => Good.of_execPurgeUnitTimeout ctx unit confirmLate s hs
  | .engineReset unit testPassed durationUs => Good.of_execEngineReset unit testPassed durationUs s hs
  | .dieResetComplete die outcome => Good.of_execDieResetComplete die outcome s hs
  | .moduleWarmReset inputs => Good.of_execModuleWarmReset inputs s hs
  | .watchdogExpiry => Good.of_execWatchdogExpiry s hs
  | .coreRestart cause imageOk => Good.of_execCoreRestart cause imageOk s hs
  | .coreRestartTimeout => Good.of_execCoreRestartTimeout s hs
  | .dumpWrite cause sequencerOnly => Good.of_execDumpWrite cause sequencerOnly s hs
  | .dumpUnitTimeout unitKind unitIndex => Good.of_execDumpUnitTimeout unitKind unitIndex s hs
  | .rebuildBlock ctx block => Good.of_execRebuildBlock ctx block s hs
  | .foldSelfCheck ctx => Good.of_execFoldSelfCheck ctx s hs
  | .digestForm ctx => Good.of_execDigestForm ctx s hs
  | .digestCompare ctx => Good.of_execDigestCompare ctx s hs
  | .granuleLocalise ctx block => Good.of_execGranuleLocalise ctx block s hs
  | .divergenceRepair ctx => Good.of_execDivergenceRepair ctx s hs
  | .inputThrottle vin => Good.of_execInputThrottle vin s hs
  | .inputThrottleEnd vin => Good.of_execInputThrottleEnd vin s hs
  | .inputCut vin => Good.of_execInputCut vin s hs
  | .inputRecovered vin rideUs => Good.of_execInputRecovered vin rideUs s hs
  | .surge vinMax durationUs => Good.of_execSurge vinMax durationUs s hs
  | .surgeTimeout vinMax => Good.of_execSurgeTimeout vinMax s hs
  | .overVoltage vin => Good.of_execOverVoltage vin s hs
  | .holdupExhausted => Good.of_execHoldupExhausted s hs
  | .orderlyStop cause => Good.of_execOrderlyStop cause s hs
  | .holdupMeasure milliJoules => Good.of_execHoldupMeasure milliJoules s hs
  | .dvfsEvaluate r => Good.of_execDvfsEvaluate r s hs
  | .dvfsStep => Good.of_execDvfsStep s hs
  | .envelopeUpdate demand pIn maxBurn => Good.of_execEnvelopeUpdate demand pIn maxBurn s hs
  | .thermalTrip tMax sensor => Good.of_execThermalTrip tMax sensor s hs
  | .refQualifyWindow edges => Good.of_execRefQualifyWindow edges s hs
  | .refQualifyTimeout => Good.of_execRefQualifyTimeout s hs
  | .pllLockWindow pll ppmError => Good.of_execPllLockWindow pll ppmError s hs
  | .clockFault pll => Good.of_execClockFault pll s hs
  | .pllRelock n locked => Good.of_execPllRelock n locked s hs
  | .ppsEdge sinceLastNs => Good.of_execPpsEdge sinceLastNs s hs
  | .ppsLost => Good.of_execPpsLost s hs
  | .coldBoot inputs => Good.of_execColdBoot inputs s hs
  | .resetNRelease lowUs => Good.of_execResetNRelease lowUs s hs
  | .warmReset => Good.of_execWarmReset s hs
  | .fullReset => Good.of_execFullReset s hs
  | .alertCauseClear mask => Good.of_execAlertCauseClear mask s hs
  | .erase slot => Good.of_execErase slot s hs
  | .program slot unit => Good.of_execProgram slot unit s hs
  | .check slot sigOk => Good.of_execCheck slot sigOk s hs
  | .mgmtRegisterWrite offset words tail => Good.of_execMgmtRegisterWrite offset words tail s hs
  | .setdasa addr => Good.of_execSetdasa addr s hs
  | .entdaa addr => Good.of_execEntdaa addr s hs
  | .rstdaa => Good.of_execRstdaa s hs
  | .getstatus => Good.of_execGetstatus s hs
  | .idleSaturated ctx cause => Good.of_execIdleSaturated ctx cause s hs
  | .nanosecondFieldWrap => Good.of_execNanosecondFieldWrap s hs
  | .resetNAssert => Good.of_execResetNAssert s hs
  | .stackPhyFailure stack => Good.of_execStackPhyFailure stack s hs
  | .inputPowerOverLimit watts => Good.of_execInputPowerOverLimit watts s hs
  | .kcpPacketDrop port reason => Good.of_execKcpPacketDrop port reason s hs

/-- What a step executes: the command at the front of the queue, a held command whose turn has come, or a tick (log entry 2). -/
theorem step_cases {s t : State} (h : step s = .next t) :
    (∃ c rest, s.pending = c :: rest ∧ exec c { s with pending := rest } = .next t) ∨
    (∃ slot q c, s.nextHeld = some (slot, q, c) ∧ exec c (s.unhold slot q) = .next t) ∨ t = s.tick := by
  unfold step at h
  split at h
  · next c rest hp => exact .inl ⟨c, rest, hp, h⟩
  · split at h
    · next slot q c hn => exact .inr (.inl ⟨slot, q, c, hn, h⟩)
    · exact .inr (.inr (Host.Outcome.next.inj h).symm)

/-- Every step keeps the forms of memory and of the fuses. -/
theorem Good.of_step {s t : State} (h : step s = .next t) : Good s t := by
  rcases step_cases h with ⟨c, rest, -, hx⟩ | ⟨slot, q, c, -, hx⟩ | rfl
  · have hq : Good s { s with pending := rest } := ⟨.refl _, .refl _⟩
    exact Good.of_exec hq c t hx
  · exact Good.of_exec (Good.State_unhold s slot q (.refl s)) c t hx
  · exact Good.State_tick s (.refl s)

end Sys2Proof.Machine

namespace Sys2Proof.Proofs

open Sys2Proof Sys2Proof.Machine

/-- Settles O4: each command's meaning, a held command and a tick keep the canonical form. -/
theorem memCanonicalKept : Obligations.MemCanonicalKept := by
  unfold Obligations.MemCanonicalKept
  exact fun s t h hm => (Good.of_step h).mem.wf hm

/-- Settles O5: each command's meaning, a held command and a tick only burn fuses, and leave them legal. -/
theorem fusesKept : Obligations.FusesKept := by
  unfold Obligations.FusesKept
  refine ⟨fun s t h hf => (Good.of_step h).boot.legal hf, fun s t h => ?_⟩
  obtain ⟨-, hkey, hrom, hroll, hrevoked⟩ := (Good.of_step h).boot
  exact ⟨hkey, hrom, hroll, hrevoked⟩

/-- Settles O35: each command's meaning, a held command and a tick keep the form of the buffers, and reset has none. -/
theorem buffersWfKept : Obligations.BuffersWfKept := by
  unfold Obligations.BuffersWfKept
  exact ⟨fun s t h hb => (Good.of_step h).mem.buf hb, fun k es hm => nomatch hm⟩

/-- Settles O2: each command's meaning answers a next state, and so does a tick. -/
theorem blockNeverStops : Obligations.BlockNeverStops := by
  unfold Obligations.BlockNeverStops
  intro s
  unfold SafeStep step
  split
  · exact exec_next _ _
  · split
    · exact exec_next _ _
    · exact ⟨_, rfl⟩

/-- Settles O1: by the definition of a step on a queue with a front. -/
theorem stepRunsFront : Obligations.StepRunsFront := by
  unfold Obligations.StepRunsFront
  exact fun c rest s => rfl

/-- Settles O3: by evaluation of the one reset state. -/
theorem resetLeaves : Obligations.ResetLeaves := by
  unfold Obligations.ResetLeaves MemCanonical FusesLegal
  decide

end Sys2Proof.Proofs

namespace Sys2Proof.Machine

open Sys2Proof

/-! ### Answering a command (R325, R327, R331, R336) -/

/-- Statuses differ in their place in the table of R331. -/
theorem Status.rank_injective : Function.Injective Status.rank := by
  intro a b h
  cases a <;> cases b <;> first | rfl | cases h

/-- The verdict is the status of a check that fails, and none that fails stands higher (R331); without one, no check fails. -/
theorem verdict_spec (cs : List Check) :
    (verdict cs = none → ∀ c ∈ cs, c.1 = false) ∧
    ∀ t, verdict cs = some t → (∃ c ∈ cs, c.1 = true ∧ c.2 = t) ∧ ∀ c ∈ cs, c.1 = true → t.rank ≤ c.2.rank := by
  induction cs using List.reverseRecOn with
  | nil => simp [verdict]
  | append_singleton cs c ih =>
    have hstep : verdict (cs ++ [c]) = if c.1 then (verdict cs).elim (some c.2) fun t => if c.2.rank < t.rank then some c.2 else some t
        else verdict cs := by
      simp only [verdict, List.foldl_append, List.foldl_cons, List.foldl_nil]
      split
      · split <;> next he => rw [he]; rfl
      · rfl
    rw [hstep]
    simp only [List.mem_append, List.mem_singleton]
    cases hv : verdict cs with
    | none => grind
    | some t => grind

/-- The verdict is a status with which a check fails, where no check fails with one that stands higher (R331). -/
theorem verdict_eq_some_of_highest {cs : List Check} {st : Status} (hex : (true, st) ∈ cs)
    (hle : ∀ c ∈ cs, c.1 = true → st.rank ≤ c.2.rank) : verdict cs = some st := by
  obtain ⟨hnone, hsome⟩ := verdict_spec cs
  cases hv : verdict cs with
  | none => exact absurd (hnone hv _ hex) (by simp)
  | some t =>
    obtain ⟨⟨c, hc, hf, rfl⟩, hmin⟩ := hsome t hv
    exact congrArg some (Status.rank_injective (Nat.le_antisymm (hmin _ hex rfl) (hle c hc hf)))

/-- The state of its context refuses a command that is next, where the checks of its form and of its own row stand no higher (R331, R336). -/
theorem KcpCmd.arrive_gate_refused (k : KcpCmd) (self : Instr) {h : KcpHdr} {s : State} {slot : Nat} {st : Status}
    (hnext : s.kcpNext h slot = true) (hneed : k.need ≠ .none) (hlt : h.context.toNat < 64)
    (hgate : stateGate (s.ctx (hctx h)).state k.cls = some st) (hbusy : st.rank ≤ Status.busy.rank)
    (hform : h.reserved = true ∨ h.badLen = true → st.rank ≤ Status.badParam.rank)
    (hown : ∀ c ∈ k.checks (s.take slot h), c.1 = true → st.rank ≤ c.2.rank) :
    k.arrive self h s = (s.take slot h).answer slot h k.opcode st [] := by
  have hg : stateGate ((s.take slot h).ctx h.context.toNat).state k.cls = some st := by rw [State.take_ctx]; exact hgate
  have hv : k.verdict h (s.take slot h) = some st := by
    have hmem : (true, st) ∈ k.common h (s.take slot h) := by
      rw [KcpCmd.common, if_pos hlt, hg]
      exact List.mem_append_right _ (List.mem_singleton.2 rfl)
    refine verdict_eq_some_of_highest (List.mem_append_left _ (List.mem_append_left _ hmem)) fun c hc hf => ?_
    have h255 : h.context.toNat ≠ 255 := by omega
    have h64 : ¬ 64 ≤ h.context.toNat := by omega
    simp only [KcpCmd.common, if_pos hlt, hg, List.mem_append, List.mem_cons, List.not_mem_nil, or_false] at hc
    rcases hc with (((rfl | rfl) | rfl) | rfl) | hc
    · simp [hneed, h255] at hf
    · exact hform (by simpa [h64] using hf)
    · exact Nat.le_refl _
    · exact hbusy
    · exact hown c hc hf
  rw [k.arrive_of_next self h s slot hnext]
  simp [KcpCmd.run, hv]

/-- A ready device command is refused with a status where one of its own checks fails with it, and no other with another (R327, R331). -/
theorem KcpCmd.arrive_dev_refused (k : KcpCmd) (self : Instr) {h : KcpHdr} {s : State} {slot : Nat} {st : Status}
    (hr : devReady s h slot k.opcode = true) (hn : k.need ≠ .ctx)
    (hex : ∃ c ∈ k.checks (s.take slot h), c.1 = true ∧ c.2 = st) (hc : ∀ c ∈ k.checks (s.take slot h), c.1 = true → c.2 = st) :
    k.arrive self h s = (s.take slot h).answer slot h k.opcode st [] := by
  simp only [devReady, kcpReady, Bool.and_eq_true, Bool.not_eq_true', decide_eq_true_eq] at hr
  obtain ⟨⟨⟨⟨hnext, hres⟩, hlen⟩, hsleep⟩, hdev⟩ := hr
  have hv : k.verdict h (s.take slot h) = some st := by
    refine verdict_eq_some ?_ fun c hm hf => ?_
    · obtain ⟨c, hm, hf, -⟩ := hex
      exact ⟨c, List.mem_append_right _ hm, hf⟩
    · simp only [List.mem_append, List.mem_singleton] at hm
      rcases hm with (hm | rfl) | hm
      · simp [k.common_ok h _ hres hlen (.inl ⟨hn, hdev⟩) c hm] at hf
      · simp [hsleep] at hf
      · exact hc c hm hf
  rw [k.arrive_of_next self h s slot hnext]
  simp [KcpCmd.run, hv]

@[simp] theorem State.setSession_session? (s : State) (slot : Nat) (x : Session) : (s.setSession slot x).session? slot = some x := by
  simp [State.session?, State.setSession]

/-- Taking a command of an open session. -/
theorem State.take_of_session {s : State} {slot : Nat} {x : Session} (hx : s.session? slot = some x) (h : KcpHdr) :
    s.take slot h = s.setSession slot { x with expected := x.expected + 1, port := h.port, held := x.held.filter fun e => e.1 ≠ h.sequence } := by
  simp [State.take, hx]

/-- The cached reply of an answered command, and what leaves the module. -/
theorem State.answer_of_session {s : State} {slot : Nat} {x : Session} (hx : s.session? slot = some x) (h : KcpHdr) (op : W16) (st : Status)
    (ps : List Byte) : s.answer slot h op st ps =
      (s.setSession slot { x with cache := (kcpReply h op st ps :: x.cache).take 256 }).sendReply (kcpReply h op st ps) := by
  simp [State.answer, hx]

/-- Taking a command changes nothing but sessions. -/
theorem State.spoke_take (s : State) (slot : Nat) (h : KcpHdr) : s.Spoke (s.take slot h) := by
  unfold State.take
  split
  · exact .refl s
  · exact s.spoke_setSession _ _

@[simp] theorem State.take_arraysInService (s : State) (slot : Nat) (h : KcpHdr) : (s.take slot h).arraysInService = s.arraysInService := by
  simp [State.arraysInService, State.array]
@[simp] theorem State.take_enginesInService (s : State) (slot : Nat) (h : KcpHdr) : (s.take slot h).enginesInService = s.enginesInService := by
  simp [State.enginesInService, State.rte]
@[simp] theorem State.take_setting (s : State) (slot : Nat) (h : KcpHdr) (i : Nat) : (s.take slot h).setting i = s.setting i := by
  simp [State.setting]
@[simp] theorem State.take_port (s : State) (slot : Nat) (h : KcpHdr) (p : Nat) : (s.take slot h).port p = s.port p := by
  simp [State.port]
@[simp] theorem State.take_allPortsDown (s : State) (slot : Nat) (h : KcpHdr) : (s.take slot h).allPortsDown = s.allPortsDown := by
  simp [State.allPortsDown]
@[simp] theorem State.take_runRefused (s : State) (slot : Nat) (h : KcpHdr) (v : W64) : (s.take slot h).runRefused v = s.runRefused v := by
  simp [State.runRefused]
@[simp] theorem State.take_busyContext (s : State) (slot : Nat) (h : KcpHdr) : (s.take slot h).busyContext = s.busyContext := by
  simp [State.busyContext]

/-! ### Commands that pass their checks (R325, R327, R331) -/

/-- A ready device command whose own checks pass: its effect, and what follows its reply. -/
theorem RunsThen.of_dev {i : Instr} {s : State} {h : KcpHdr} {slot : Nat} {op : W16} {st : Status} {ps : List Byte} {E F : State → State}
    {k : KcpCmd} (hx : exec i s = .next (k.arrive i h s)) (hr : devReady s h slot op = true)
    (hc : ∀ c ∈ k.checks (s.take slot h), c.1 = false) (he : k.effect (s.take slot h) = ⟨E (s.take slot h), st, ps⟩)
    (hop : k.opcode = op := by rfl) (ha : k.after = F := by rfl) (hn : k.need ≠ .ctx := by dsimp only; decide) :
    RunsThen i s h slot op st ps E F := by
  subst hop ha
  rw [RunsThen, hx, KcpCmd.arrive_dev k i h s slot hr hn hc, he]

/-- A ready device command whose own checks pass, with nothing after its reply. -/
theorem Runs.of_dev {i : Instr} {s : State} {h : KcpHdr} {slot : Nat} {op : W16} {st : Status} {ps : List Byte} {E : State → State}
    {k : KcpCmd} (hx : exec i s = .next (k.arrive i h s)) (hr : devReady s h slot op = true)
    (hc : ∀ c ∈ k.checks (s.take slot h), c.1 = false) (he : k.effect (s.take slot h) = ⟨E (s.take slot h), st, ps⟩)
    (hop : k.opcode = op := by rfl) (ha : k.after = id := by rfl) (hn : k.need ≠ .ctx := by dsimp only; decide) :
    Runs i s h slot op st ps E :=
  RunsThen.of_dev (F := id) hx hr hc he hop ha hn

/-- A ready command that names a context in a state that accepts it, and whose own checks pass: its effect, and what follows its reply. -/
theorem RunsThen.of_ctx {i : Instr} {s : State} {h : KcpHdr} {slot : Nat} {op : W16} {sts : List CtxState} {st : Status} {ps : List Byte}
    {E F : State → State} {k : KcpCmd} (hx : exec i s = .next (k.arrive i h s))
    (hr : ctxReady s h slot op sts = true) (hc : ∀ c ∈ k.checks (s.take slot h), c.1 = false)
    (he : k.effect (s.take slot h) = ⟨E (s.take slot h), st, ps⟩) (hop : k.opcode = op := by rfl) (ha : k.after = F := by rfl)
    (hn : k.need ≠ .none := by dsimp only; decide) (hg : ∀ x ∈ sts, stateGate x k.cls = none := by dsimp only; decide) : RunsThen i s h slot op st ps E F := by
  subst hop ha
  rw [RunsThen, hx, KcpCmd.arrive_ctx k i h s slot sts hr hn hg hc, he]

/-- A ready command that names a context in a state that accepts it, and whose own checks pass, with nothing after its reply. -/
theorem Runs.of_ctx {i : Instr} {s : State} {h : KcpHdr} {slot : Nat} {op : W16} {sts : List CtxState} {st : Status} {ps : List Byte}
    {E : State → State} {k : KcpCmd} (hx : exec i s = .next (k.arrive i h s))
    (hr : ctxReady s h slot op sts = true) (hc : ∀ c ∈ k.checks (s.take slot h), c.1 = false)
    (he : k.effect (s.take slot h) = ⟨E (s.take slot h), st, ps⟩) (hop : k.opcode = op := by rfl) (ha : k.after = id := by rfl)
    (hn : k.need ≠ .none := by dsimp only; decide) (hg : ∀ x ∈ sts, stateGate x k.cls = none := by dsimp only; decide) : Runs i s h slot op st ps E :=
  RunsThen.of_ctx (F := id) hx hr hc he hop ha hn hg

/-! ### Power states and time (R409, R416, R419) -/

/-- What a request for a power state does that is not refused (R409, R416). -/
theorem powerStateCmd_effect {v : W64} {s : State} (h : s.runRefused v = false) :
    (powerStateCmd v).effect s = { st := if v = 2 then s.deepSleep
      else if v = 1 then { s with power := { s.power.setPw .sleep with
        ramp := s.power.ramp || s.power.pwState = .deepSleep, shaped := s.power.shaped && s.power.pwState ≠ .deepSleep } }
      else { s with power := s.power.setPw .run } } := by
  simp only [powerStateCmd, powerStateEffect, h]
  rfl

/-- No request for another state than RUN waits for clocks. -/
theorem State.runRefused_of_ne (s : State) {v : W64} (h : v ≠ 0) : s.runRefused v = false := by
  simp only [State.runRefused, h, decide_false, Bool.false_and]

@[simp] theorem Power.setPw_shaped (p : Power) (st : PState) : (p.setPw st).shaped = p.shaped := by
  unfold Power.setPw; split <;> rfl

/-- What setting the seconds leaves in the time counter. -/
theorem State.setSeconds_power (s : State) (sec : BitVec 34) (nanos : Nat) :
    (s.setSeconds sec nanos).power = { s.power with seconds := sec, nanos := nanos, secSet := true, pendSec := none } := by
  simp [State.setSeconds]

end Sys2Proof.Machine

namespace Sys2Proof.Proofs

open Sys2Proof Sys2Proof.Machine

/-- Settles O8: taking and answering write the session's entry twice. -/
theorem replyBooks : Obligations.ReplyBooks := by
  unfold Obligations.ReplyBooks
  intro s h slot x op st ps hx
  rw [State.take_of_session hx, State.answer_of_session (State.setSession_session? ..)]
  unfold State.sendReply
  change (if (s.hp h.port).up = true then _ else _) = _
  split <;> rfl

/-- Settles O9: the status of the context's row of R336 is the verdict, as no check that fails stands higher. -/
theorem stateRefuses : Obligations.StateRefuses := by
  unfold Obligations.StateRefuses
  intro k self h s slot hnext hneed hlt
  refine ⟨fun hst hcls hown => ?_, fun hst hcls hown => ?_, fun hst hcls hres hlen hown => ?_⟩
  · exact k.arrive_gate_refused self hnext hneed hlt (st := .noContext) (by simp [hst, stateGate, hcls]) (by decide) (fun _ => by decide) hown
  · exact k.arrive_gate_refused self hnext hneed hlt (st := .ctxFaulted) (by simp only [hst, stateGate, hcls]; rfl) (by decide) (fun _ => by decide) hown
  · refine k.arrive_gate_refused self hnext hneed hlt (st := .busy) ?_ (by decide) (by simp [hres, hlen]) hown
    rcases hst with hst | hst <;> (simp only [hst, stateGate, hcls]; rfl)

/-- Settles O20: the record joins the log, and sessions are told. -/
theorem raiseRecords : Obligations.RaiseRecords := by
  unfold Obligations.RaiseRecords
  intro s code ctx u arg aux
  simp [State.raise_faults, State.eventOf]

/-- Settles O10: one execution per command. -/
theorem deviceCommandsRun : Obligations.DeviceCommandsRun := by
  unfold Obligations.DeviceCommandsRun
  refine ⟨?info, ?get, ?set, ?run, ?regulator⟩
  case info => exact fun h s slot hr => .of_dev rfl hr (by simp) (by simp [done])
  case get => exact fun h i s slot hr hi => .of_dev rfl hr (by simp [hi]) (by simp [done])
  case set =>
    intro h i v s slot hr hi hv hp
    exact .of_dev (by rw [exec_devSet, execDevSet, if_neg hi]) hr (by simpa [hv] using hp) rfl
  case run =>
    intro h s slot hr hrun
    exact .of_dev (k := powerStateCmd 0) rfl hr (by simp [powerStateCmd, powerStateChecks, settingOk, inRange])
      (powerStateCmd_effect (by rwa [State.take_runRefused])) (hn := nofun)
  case regulator =>
    intro h pt rate bucket s slot hr hp h0 hb
    have hw : (bucket.setWidth 20).toNat = bucket.toNat := by simpa using Nat.mod_eq_of_lt hb
    exact .of_dev rfl hr (by simpa using ⟨⟨hp, h0⟩, hb⟩) (by simp [done, hw])

/-- Settles O11: one execution per command and power state. -/
theorem powerTimeResetRun : Obligations.PowerTimeResetRun := by
  unfold Obligations.PowerTimeResetRun
  refine ⟨?sleep, ?deepSleep, ?refused, ?devSet, ?waits, ?now, ?reset⟩
  case sleep =>
    intro h s slot hr hp hb
    refine .of_dev (k := powerStateCmd 1) rfl hr (by simp [powerStateCmd, powerStateChecks, settingOk, inRange, hb]) ?_ (hn := nofun)
    rw [powerStateCmd_effect (State.runRefused_of_ne _ (by decide)), if_neg (by decide), if_pos rfl]
    simp [hp]
  case deepSleep =>
    intro h s slot hr hp
    refine .of_dev (k := powerStateCmd 2) rfl hr (by simp [powerStateCmd, powerStateChecks, settingOk, inRange, hp]) ?_ (hn := nofun)
    rw [powerStateCmd_effect (State.runRefused_of_ne _ (by decide)), if_pos rfl]
  case refused =>
    intro h s slot hr hp
    exact congrArg _ ((powerStateCmd 2).arrive_dev_refused _ hr nofun
      ⟨(true, .badParam), by simp [powerStateCmd, powerStateChecks, hp], rfl, rfl⟩ (by simp [powerStateCmd, powerStateChecks, hp]))
  case devSet =>
    intro h v s slot hn
    rw [exec_devSet, exec_powerState, execDevSet, execPowerState, if_pos rfl, KcpCmd.arrive_of_next _ _ _ _ _ hn,
      KcpCmd.arrive_of_next _ _ _ _ _ hn]
  case waits => exact fun h sec s slot hr hs hl => .of_dev rfl hr (by simpa using hs) (by simp [accepted, hl])
  case now =>
    intro h sec s slot hr hs hl
    have hrun : Runs (.timeSet h sec) s h slot 0x0105 .ok [] fun t => t.setSeconds (sec.setWidth 34) t.power.nanos :=
      .of_dev rfl hr (by simpa using hs) (by simp [done, hl])
    refine ⟨hrun, fun t ht => ?_⟩
    obtain rfl := Host.Outcome.next.inj (hrun.symm.trans ht)
    simp [State.setSeconds_power]
  case reset => exact fun h s slot hr => ⟨.of_dev rfl hr (by simp) rfl, exec_devReset_full hr⟩

end Sys2Proof.Proofs

namespace Sys2Proof.Machine

open Sys2Proof

/-! ### Freeing and purging a context (R83, R330, R336, R362) -/

/-- Writing an index twice leaves what the second write puts there. -/
@[simp] theorem Tab.put_put {α : Type} (t : Tab α) (i : Nat) (v w : α) : Tab.put (Tab.put t i v) i w = Tab.put t i w := by
  induction t with
  | nil => simp [Tab.put]
  | cons e r ih => grind [Tab.put]

/-- A context that the table does not list is FREE. -/
theorem State.ctx_of_drop {s t : State} {c : Nat} (h : t.ctxs = Tab.drop s.ctxs c) : t.ctx c = {} := by
  simp [State.ctx, Tab.get, h]

theorem Tab.mem_mapAll {α : Type} {t : Tab α} {f : Nat → α → α} {i : Nat} {v : α} (h : (i, v) ∈ Tab.mapAll t f) :
    ∃ w, (i, w) ∈ t ∧ v = f i w := by
  simp only [Tab.mapAll, List.mem_map, Prod.mk.injEq] at h
  obtain ⟨⟨j, w⟩, hm, rfl, rfl⟩ := h
  exact ⟨w, hm, rfl⟩

/-- An array whose leases of a context are released has no tile of it in use (R80, R83). -/
theorem ArrayUnit.releaseLeases_free {a : ArrayUnit} {c i : Nat} {t : Tile} (ht : (i, t) ∈ (a.releaseLeases c).tiles) (hc : t.ctx = c) :
    t.st = .free := by
  simp only [ArrayUnit.releaseLeases, List.mem_filter] at ht
  simpa [hc] using ht.2

/-- What unloading a context's program leaves of fences and arrays (R338). -/
theorem State.dropProgram_spec (s : State) (c : Nat) :
    (∀ f x, (f, x) ∈ (s.dropProgram c).fences → x.owner ≠ c) ∧
    (∀ n a, (n, a) ∈ (s.dropProgram c).arrays → ∀ i t, (i, t) ∈ a.tiles → t.ctx = c → t.st = .free) := by
  refine ⟨fun f x hf => ?_, fun n a ha i t ht hc => ?_⟩
  · have : (f, x) ∈ s.fences.filter fun f => f.2.owner ≠ c := hf
    simpa using (List.mem_filter.1 this).2
  · obtain ⟨b, -, rfl⟩ := Tab.mem_mapAll (show (n, a) ∈ Tab.mapAll (s.removeWork c).arrays fun _ a => a.releaseLeases c from ha)
    exact ArrayUnit.releaseLeases_free ht hc

/-- A purge that begins stops the context and freezes its fences (R362). -/
theorem State.purge_of_admitted {s : State} {c : Nat}
    (h : [CtxState.created, .loading, .loaded, .running, .holding, .held].contains (s.ctx c).state = true) (cause : W32) :
    s.purge c cause = ({ s.onCtx c fun x => { x with state := .purging, purge := some { asked := s.unitsHolding c, cause := cause }, load := none } with
      fences := Tab.mapAll s.fences fun _ f => if f.owner = c then { f with frozen := true } else f }).closeStreams c := by
  unfold State.purge
  split <;> first | rfl | next he => simp [he] at h

/-! ### Sessions (R324, R325, R327, R329) -/

/-- The packet's port is up, and the boot has come to step 9, where a command is next (R320, R432). -/
theorem State.kcpUp_of_kcpNext {s : State} {h : KcpHdr} {slot : Nat} (hn : s.kcpNext h slot = true) :
    (s.hp h.port).up = true ∧ 9 ≤ s.boot.stage := by
  simp only [State.kcpNext, State.hears, State.kcpUp, Bool.and_eq_true, decide_eq_true_eq] at hn
  grind

theorem kcpNext_of_devReady {s : State} {h : KcpHdr} {slot : Nat} {op : W16} (hr : devReady s h slot op = true) : s.kcpNext h slot = true := by
  simp only [devReady, kcpReady, Bool.and_eq_true] at hr
  exact hr.1.1.1.1

theorem kcpNext_of_ctxReady {s : State} {h : KcpHdr} {slot : Nat} {op : W16} {sts : List CtxState} (hr : ctxReady s h slot op sts = true) :
    s.kcpNext h slot = true := by
  simp only [ctxReady, kcpReady, Bool.and_eq_true] at hr
  exact hr.1.1.1.1.1

/-- The host ports do not change with sessions and what leaves the module. -/
theorem State.Spoke.hp {s t : State} (h : s.Spoke t) (p : Fin 2) : t.hp p = s.hp p := by obtain ⟨_, _, rfl⟩ := h; rfl

@[simp] theorem State.take_hp (s : State) (slot : Nat) (h : KcpHdr) (p : Fin 2) : (s.take slot h).hp p = s.hp p := (s.spoke_take slot h).hp p

/-- A packet that is heard came in on a port that is up. -/
theorem State.hp_up_of_hears {s : State} {h : KcpHdr} (hh : s.hears h = true) : (s.hp h.port).up = true := by
  simp only [State.hears, State.kcpUp, Bool.and_eq_true] at hh
  grind

/-- A reply on a port that is up leaves the module (R327). -/
theorem State.mem_sendReply_out {s : State} {r : Reply} (hu : (s.hp r.port).up = true) : .reply r ∈ (s.sendReply r).out := by
  simp [State.sendReply, hu]

/-- The reply of an answered command leaves the module where its port is up (R327). -/
theorem State.mem_answer_out {s : State} {h : KcpHdr} (hu : (s.hp h.port).up = true) (slot : Nat) (op : W16) (st : Status) (ps : List Byte) :
    .reply (kcpReply h op st ps) ∈ (s.answer slot h op st ps).out := by
  unfold State.answer
  apply State.mem_sendReply_out
  split
  · exact hu
  · rw [(State.spoke_setSession _ _ _).hp]; exact hu

@[simp] theorem State.sendReply_session? (s : State) (r : Reply) (j : Nat) : (s.sendReply r).session? j = s.session? j := by
  unfold State.sendReply; split <;> rfl

/-- A search that ends at an index ends there also when the index has a new value that the search treats like the old one. -/
theorem Tab.find?_put_of_same {α : Type} {p : Nat × α → Bool} {t : Tab α} {i : Nat} {x y : α} (hx : Tab.find? t i = some x)
    (hp : p (i, y) = p (i, x)) (hi : (List.find? p t).map (·.1) = some i) : (List.find? p (Tab.put t i y)).map (·.1) = some i := by
  induction t with
  | nil => cases hx
  | cons e r ih =>
    obtain ⟨k, w⟩ := e
    simp only [Tab.find?_cons, List.find?_cons] at hx hi
    unfold Tab.put
    grind

/-- The entry of a session stays the one that its packets name when only its books change (R324). -/
theorem State.kcpSlot_setSession {s : State} {h : KcpHdr} {slot : Nat} {x y : Session} (hk : s.kcpSlot h = some slot)
    (hx : s.session? slot = some x) (hid : y.id = x.id) (hadr : y.addr = x.addr) (hudp : y.udp = x.udp) :
    (s.setSession slot y).kcpSlot h = some slot :=
  Tab.find?_put_of_same hx (by simp [hid, hadr, hudp]) hk

@[simp] theorem State.sendReply_kcp (s : State) (r : Reply) : (s.sendReply r).kcp = s.kcp := by
  unfold State.sendReply; split <;> rfl

/-- A session whose command has been answered: its entry, and that its packets name it. -/
theorem State.answered_session {s : State} {h : KcpHdr} {slot : Nat} {x : Session} (hn : s.kcpNext h slot = true)
    (hx : s.session? slot = some x) (op : W16) (st : Status) (ps : List Byte) :
    let u := (s.take slot h).answer slot h op st ps
    u.kcpSlot h = some slot ∧ ∃ y, u.session? slot = some y ∧ y.id = x.id := by
  simp only [State.kcpNext, Bool.and_eq_true, decide_eq_true_eq] at hn
  obtain ⟨⟨-, hk⟩, -⟩ := hn
  rw [State.take_of_session hx, State.answer_of_session (State.setSession_session? ..)]
  refine ⟨?_, _, (State.sendReply_session? ..).trans (State.setSession_session? ..), rfl⟩
  rw [State.kcpSlot, State.sendReply_kcp]
  exact State.kcpSlot_setSession (State.kcpSlot_setSession hk hx rfl rfl rfl) (State.setSession_session? ..) rfl rfl rfl

/-- After a session closes its entry is free, and no context has it as Cistern server (R329, R355). -/
theorem State.closeSession_spec {s : State} {slot : Nat} {x : Session} (hx : s.session? slot = some x) :
    (s.closeSession slot).session? slot = none ∧ (s.closeSession slot).out = s.out ∧ (s.closeSession slot).mem = s.mem ∧
      ∀ c, ((s.closeSession slot).ctx c).cistern ≠ some x.id := by
  rw [State.closeSession, hx]
  refine ⟨Tab.find?_drop _ _, rfl, rfl, fun c => ?_⟩
  simp only [State.ctx, Tab.get, Tab.find?_mapAll]
  cases Tab.find? s.ctxs c with
  | none => simp
  | some y => by_cases hc : y.cistern = some x.id <;> simp [hc]

/-- A session whose entry is not held stays away. -/
theorem State.closeSession_session? (s : State) (slot : Nat) : (s.closeSession slot).session? slot = none := by
  cases hx : s.session? slot with
  | none => simp [State.closeSession, hx]
  | some x => exact (State.closeSession_spec hx).1

/-- A SESSION_OPEN without a proof passes its checks while no owner key is active and an entry is free (R329, R436). -/
theorem verdict_sessionOpen {h : KcpHdr} {s : State} {k : Nat} (hseq : h.sequence = 0) (hctx : h.context = 0xFF) (hres : h.reserved = false)
    (hlen : h.badLen = false) (ho : s.ownerActive = false) (hk : s.freeSlot = some k) :
    verdict (sessionOpenChecks h [] [] true s) = none :=
  verdict_eq_none (by simp [sessionOpenChecks, hseq, hctx, hres, hlen, ho, hk])

/-- A SESSION_OPEN without a proof is refused with AUTH_FAIL while an owner key is active, before every other check (R331, R436). -/
theorem verdict_sessionOpen_owned {h : KcpHdr} {s : State} (ho : s.ownerActive = true) :
    verdict (sessionOpenChecks h [] [] true s) = some .authFail :=
  verdict_eq_some_of_highest (by simp [sessionOpenChecks, ho]) (by simp +decide [sessionOpenChecks])

/-- An acknowledgement to a session in which nothing waits and no stream is ready to send (R328, R352). -/
theorem State.sendWaiting_of_none {s : State} {slot : Nat} {x : Session} (hx : s.session? slot = some x) (hw : x.waiting = []) :
    s.sendWaiting slot = s.setSession slot x := by
  have hsame : { x with unacked := x.unacked ++ x.waiting.take (256 - x.unacked.length), waiting := x.waiting.drop (256 - x.unacked.length) } = x := by
    cases x; simp_all
  simp only [State.sendWaiting, hx, hsame]
  simp [hw]

theorem State.setSession_setSession (s : State) (slot : Nat) (x y : Session) : (s.setSession slot x).setSession slot y = s.setSession slot y := by
  simp [State.setSession]

/-- A session without a stream to send pumps nothing. -/
theorem State.pump_of_none {s : State} {slot : Nat} {x : Session} (hx : s.session? slot = some x) (hr : s.readyStream x = none) (n : Nat) :
    s.pump n slot = s := by
  cases n with
  | zero => rfl
  | succ n => simp [State.pump, hx, hr]

end Sys2Proof.Machine

namespace Sys2Proof.Proofs

open Sys2Proof Sys2Proof.Machine

/-- Settles O12: one execution per command, and what unloading and purging do to fences and tiles. -/
theorem contextCommandsRun : Obligations.ContextCommandsRun := by
  unfold Obligations.ContextCommandsRun
  refine ⟨?create, ?destroy, ?query, ?purge, ?priority, ?freed, ?purged⟩
  case create =>
    intro h pr pt s slot hr hp ht
    exact .of_ctx rfl hr (by simpa [List.mem_singleton.1 (ctxReady_state hr)] using And.intro hp ht) (by simp [done])
  case destroy => exact fun h s slot hr => .of_ctx rfl hr (by simp) rfl
  case query => exact fun h s slot hr => .of_ctx rfl hr (by simp) (by simp [done])
  case purge => exact fun h s slot hr => .of_ctx rfl hr (by simp) rfl
  case priority => exact fun h pr s slot hr hp => .of_ctx rfl hr (by simpa using hp) rfl
  case freed =>
    intro s c
    obtain ⟨hfence, htile⟩ := s.dropProgram_spec c
    exact ⟨by rw [State.ctx_of_drop (s := (s.dropProgram c)) rfl], hfence, htile⟩
  case purged =>
    intro s c cause hst
    rw [State.purge_of_admitted hst]
    refine ⟨by simp [State.closeStreams, State.ctx], fun f x hf hc => ?_⟩
    simp only [State.closeStreams, Tab.find?_mapAll, Option.map_eq_some_iff] at hf
    obtain ⟨y, -, rfl⟩ := hf
    by_cases hy : y.owner = c
    · simp [hy]
    · simp [hy] at hc

/-- Settles O13: the checks of SESSION_OPEN, and the entry that a session's packets name. -/
theorem sessionCommandsRun : Obligations.SessionCommandsRun := by
  unfold Obligations.SessionCommandsRun
  refine ⟨?opens, ?challenged, ?closes⟩
  case opens =>
    intro h s k hh hb hs hseq hctx hres hlen ho hk
    rw [exec_sessionOpen, execSessionOpen, if_pos hs, hh, hb, if_neg (by decide), if_neg (by decide), sessionOpenZero,
      verdict_sessionOpen hseq hctx hres hlen ho hk, hk]
    refine ⟨_, rfl, ?_, ?_, ?_, ?_, fun j hj => ?_⟩
    · simp only [State.openSession, State.sendReply_session?]
      exact State.setSession_session? _ k _
    · refine State.mem_sendReply_out (r := kcpReply h 0x0901 .ok _) ?_
      exact State.hp_up_of_hears hh
    · simp [State.openSession]
    · simp [State.openSession]
    · simp only [State.openSession, State.sendReply_session?]
      exact Tab.find?_put_ne _ _ hj
  case challenged =>
    intro h s hh hb hs ho
    rw [exec_sessionOpen, execSessionOpen, if_pos hs, hh, hb, if_neg (by decide), if_neg (by decide), sessionOpenZero,
      verdict_sessionOpen_owned ho]
    rfl
  case closes =>
    intro h s slot x hr hx hid
    have hn := kcpNext_of_devReady hr
    have hrun : RunsThen (.sessionClose h) s h slot 0x0902 .ok [] id fun t => (t.kcpSlot h).elim t t.closeSession := .of_dev rfl hr (by simp) rfl
    obtain ⟨hk, y, hy, hyid⟩ := State.answered_session hn hx 0x0902 .ok []
    have hout := State.mem_answer_out (s := s.take slot h) (by rw [State.take_hp]; exact (State.kcpUp_of_kcpNext hn).1) slot 0x0902 .ok []
    obtain ⟨hgone, ho, hm, hc⟩ := State.closeSession_spec hy
    refine ⟨_, hrun, ?_⟩
    dsimp only [id]
    rw [hk]
    exact ⟨hgone, ho ▸ hout, by rw [Option.elim, hm]; simp, fun c => by rw [← hid, ← hyid]; exact hc c⟩

/-- Settles O14: what each event leaves of the sessions. -/
theorem sessionEventsRun : Obligations.SessionEventsRun := by
  unfold Obligations.SessionEventsRun
  refine ⟨fun slot s => ⟨rfl, s.closeSession_session? slot⟩, fun addr port s => ⟨_, rfl, rfl⟩, ?ack, ?resend⟩
  case ack =>
    intro h s slot x hh hb hk hx hres hw hr
    have hset := s.setSession_session? slot { x with unacked := x.unacked.filter fun n => n.sequence ≠ h.sequence, port := h.port }
    rw [exec_hostAck, execHostAck, hh, hb, hk]
    simp only [hx, hres]
    rw [State.sendWaiting_of_none hset hw, State.setSession_setSession, State.pump_of_none hset hr]
    rfl
  case resend =>
    intro slot q s x n hx hf hu hc
    simp [execD2hResend, hx, hf, hu, hc]

end Sys2Proof.Proofs

namespace Sys2Proof.Machine

open Sys2Proof

/-! ### Host ports (R320, R321) -/

/-- A device step whose condition holds (log entry 3). -/
theorem onlyIf_of {b : Bool} (h : b = true) (f : State → State) (s : State) : onlyIf b f s = f s := if_pos h

/-- The refusals of the common checks stand no higher than BAD_OPCODE (R331). -/
theorem KcpCmd.common_rank {k : KcpCmd} {h : KcpHdr} {s : State} {c : Check} (hc : c ∈ k.common h s) : Status.badOpcode.rank ≤ c.2.rank := by
  have hgate : ∀ st r, stateGate st k.cls = some r → Status.badOpcode.rank ≤ r.rank := by
    intro st r hr
    cases st <;> grind [stateGate, Status.rank]
  simp only [KcpCmd.common, List.mem_append, List.mem_cons, List.not_mem_nil, or_false] at hc
  rcases hc with (rfl | rfl) | hc
  · exact Nat.le_refl _
  · exact (by decide : Status.badOpcode.rank ≤ Status.badParam.rank)
  · split at hc
    · split at hc
      · next st hst =>
        rw [List.mem_singleton.1 hc]
        exact hgate _ _ hst
      · cases hc
    · cases hc

theorem State.hostPortUp_spec (s : State) (p : Fin 2) (rate100 lane1Lost : Bool) :
    ((s.hostPortUp p rate100 lane1Lost).hp p).up = true ∧ ((s.hostPortUp p rate100 lane1Lost).hp p).rate100 = rate100 ∧
      (s.hostPortUp p rate100 lane1Lost).mem = s.mem ∧ (s.hostPortUp p rate100 lane1Lost).ctxs = s.ctxs ∧
      (s.hostPortUp p rate100 lane1Lost).fabric = s.fabric ∧ ∀ q, q ≠ p → (s.hostPortUp p rate100 lane1Lost).hp q = s.hp q := by
  unfold State.hostPortUp
  extract_lets st x s'
  have hp : (s'.hp p).up = true ∧ (s'.hp p).rate100 = rate100 := by simp [s', x]
  have hother : ∀ q, q ≠ p → s'.hp q = s.hp q := fun q hq => s.setHp_hp_ne x hq
  have hrest : s'.mem = s.mem ∧ s'.ctxs = s.ctxs ∧ s'.fabric = s.fabric := by
    simp only [s', State.setHp]
    split <;> exact ⟨rfl, rfl, rfl⟩
  split
  · exact ⟨hp.1, hp.2, hrest.1, hrest.2.1, hrest.2.2, hother⟩
  · exact ⟨hp.1, hp.2, hrest.1, hrest.2.1, hrest.2.2, hother⟩

/-! ### Identity and firmware (R434, R436, R440) -/

@[simp] theorem State.raise_hp (s : State) (code : Nat) (ctx : Option Nat) (u : EventUnit) (arg : W64) (aux : W32) (fw : Bool) (p : Fin 2) :
    (s.raise code ctx u arg aux fw).hp p = s.hp p := by
  rw [(s.spoke_raise code ctx u arg aux fw).hp p]
  simp only [State.hp]

@[simp] theorem State.take_report (s : State) (slot : Nat) (h : KcpHdr) (c : BitVec 8) (n : BitVec 256) :
    (s.take slot h).report c n = s.report c n := by
  simp [State.report, State.repairLog, State.measureProgram, State.now]

/-- The slot that becomes revoked was not unused, so the first unused slot stays. -/
theorem Boot.unusedOwner_revoke {b : Boot} {j : Nat} (hj : b.activeOwner = some j) : b.revoke.unusedOwner = b.unusedOwner := by
  have h1 : b.ownerState.getD j 0 = 1 := by simpa using List.find?_some hj
  have hlt : j < b.ownerState.length := by
    by_contra hge
    rw [List.getD_eq_default _ _ (by omega)] at h1
    cases h1
  simp only [Boot.unusedOwner, Boot.revoke, hj]
  congr 1
  funext i
  by_cases hi : j = i
  · subst hi
    rw [h1, List.getD_eq_getElem _ _ (by simpa using hlt), List.getElem_set_self]
    rfl
  · simp [List.getElem?_set_ne hi]

end Sys2Proof.Machine

namespace Sys2Proof.Proofs

open Sys2Proof Sys2Proof.Machine

/-- Settles O15: each event where its condition holds. -/
theorem hostLinkRun : Obligations.HostLinkRun := by
  unfold Obligations.HostLinkRun
  refine ⟨?up, ?loss, ?retry⟩
  case up =>
    intro p common lane1 s hs hd
    obtain ⟨hup, hrate, hrest⟩ := s.hostPortUp_spec p (!(common && lane1)) (common && !lane1)
    refine ⟨_, by rw [exec_hostPortLinkUp, execHostPortLinkUp, hs, hd]; rfl, hup, ?_, hrest⟩
    rw [hrate]
    cases common <;> simp
  case loss =>
    intro p s hu
    refine ⟨?_, fun hr => ?_, fun hr => ?_⟩ <;> simp [execHostPortLaneLoss, *]
  case retry =>
    intro p s hu hl
    simp [execHostPortRetry400G, hu, hl]

/-- Settles O16: each event where its condition holds. -/
theorem hostNetworkRun : Obligations.HostNetworkRun := by
  unfold Obligations.HostNetworkRun
  refine ⟨?dhcp, ?router, ?neighbor, ?arp, ?icmp6, ?icmp4, ?drop, ?foreign, ?unknown⟩
  case dhcp =>
    intro p a g l n s hu hs
    exact congrArg _ (onlyIf_of (by simpa [hu] using hs) ..)
  case router =>
    intro p pfx s hu hn
    exact congrArg _ (onlyIf_of (by rw [hu, hn]; rfl) ..)
  case neighbor =>
    intro p a b s hu ha
    refine ⟨congrArg _ ((onlyIf_of hu ..).trans ?_), congrArg _ (onlyIf_of hu ..), congrArg _ (onlyIf_of hu ..)⟩
    exact if_pos ha
  case arp =>
    intro p a b n s hu ha
    simp [execArpRequest, hu, ha]
  case icmp6 =>
    intro p a b d s hu ha
    simp only [exec_icmpEchoRequest, execIcmpEchoRequest, hu, ha]
    rfl
  case icmp4 =>
    intro p a n b d s hu ha
    simp [execIcmpEchoRequest, hu, ha]
  case drop =>
    intro p r s hk hr
    rcases hr with rfl | rfl | rfl <;> simp [execKcpPacketDrop, hk, State.kcpDrop]
  case foreign => exact fun p s => ⟨rfl, rfl⟩
  case unknown =>
    intro p h op s slot hn
    refine congrArg _ ((KcpCmd.arrive_of_next _ _ h s slot hn).trans ?_)
    rw [KcpCmd.run, KcpCmd.verdict, verdict_eq_some_of_highest (st := .badOpcode) (by simp)]
    intro c hc _
    simp only [List.mem_append, List.mem_singleton] at hc
    rcases hc with (hc | rfl) | rfl
    · exact KcpCmd.common_rank hc
    · exact (by decide : Status.badOpcode.rank ≤ Status.busy.rank)
    · exact Nat.le_refl _

/-- Settles O17: each command returns what it reads. -/
theorem identityCommandsRun : Obligations.IdentityCommandsRun := by
  unfold Obligations.IdentityCommandsRun
  refine ⟨fun h s slot hr => .of_dev rfl hr (by simp) (by simp [done]), fun h s slot hr => .of_dev rfl hr (by simp) (by simp [done]),
    fun h n s slot hr => ?_⟩
  rcases hr with hr | hr
  · exact .of_dev rfl hr (by simp) (by simp [done])
  · exact .of_ctx rfl hr (by simp) (by simp [done])

/-- Settles O18: one execution per command. -/
theorem firmwareCommandsRun : Obligations.FirmwareCommandsRun := by
  unfold Obligations.FirmwareCommandsRun
  refine ⟨?begin, ?write, ?stop, ?activate, ?commit⟩
  case begin =>
    intro h k n s slot hr hk hb hlo hhi
    exact .of_dev rfl hr (by simpa using ⟨⟨⟨Nat.le_of_lt_succ hk, hlo⟩, hhi⟩, hb⟩) rfl
  case write =>
    intro h o d i n s slot hr hu hn
    exact .of_dev rfl hr (by simpa [hu] using hn) (by simp [hu, done])
  case stop =>
    intro h i n s slot hr hu hv
    exact .of_dev rfl hr (by simp [hu, hv]) (by simp [hu, done])
  case activate =>
    intro h k s slot hr hk hv hu
    exact .of_dev rfl hr (by simpa [hu, hv] using hk) rfl
  case commit =>
    intro h adv s slot hr ha
    have hn := kcpNext_of_devReady hr
    obtain ⟨hu, h9⟩ := State.kcpUp_of_kcpNext hn
    rw [exec_fwCommit, execFwCommit, KcpCmd.arrive_dev_mk _ h s slot hr (by decide) (by simpa using ⟨Nat.le_of_lt_succ ha, h9⟩)]
    refine ⟨_, rfl, ?_⟩
    simp only [done]
    refine ⟨by simp, by simp [Boot.rewrite], by simp, ?_, by simp, by simp⟩
    have hup : ((s.take slot h).hp h.port).up = true := by simpa using hu
    simpa using State.mem_answer_out (by rw [State.raise_hp]; exact hup) slot 0x0924 .ok _

/-- Settles O19: one execution per command, and the first unused slot is not the one that is revoked. -/
theorem ownerCommandsRun : Obligations.OwnerCommandsRun := by
  unfold Obligations.OwnerCommandsRun
  refine ⟨?enroll, ?replace, ?remove⟩
  case enroll =>
    intro h pub i s slot hr he ho hi
    exact .of_dev rfl hr (by simp [he, hi]; simpa [State.ownerActive] using ho) (by simp [done, Boot.enrollNext, Boot.enroll, hi])
  case replace =>
    intro h pub sig i j s slot hr ho hj hi
    refine .of_dev rfl hr (by simp [hi]; simpa [State.ownerActive] using ho) ?_
    simp only [Boot.enrollNext, State.take_boot, Boot.unusedOwner_revoke hj, hi]
    simp [done, Boot.enroll, Boot.revoke, hj]
  case remove =>
    intro h sig j s slot hr ho hj
    exact .of_dev rfl hr (by simp; simpa [State.ownerActive] using ho) (by simp [done, Boot.revoke, hj])

end Sys2Proof.Proofs

namespace Sys2Proof.Machine

open Sys2Proof

/-- An event whose condition holds leaves what its effect leaves (log entry 3). -/
theorem exists_of_onlyIf {i : Instr} {s : State} {b : Bool} {f : State → State} {P : State → Prop} (hx : exec i s = .next (onlyIf b f s))
    (hb : b = true) (hP : P (f s)) : ∃ t, exec i s = .next t ∧ P t :=
  ⟨f s, hx.trans (congrArg _ (onlyIf_of hb f s)), hP⟩

/-! ### Dumps, restarts and die resets (R367, R370, R372) -/

@[simp] theorem State.take_eventsFrom (s : State) (slot : Nat) (h : KcpHdr) (first : W32) (n : Nat) :
    (s.take slot h).eventsFrom first n = s.eventsFrom first n := by
  simp [State.eventsFrom]

/-- Writing bytes, closing the dump under way and raising an event leave the core, the dies, the contexts, the boot and the power. -/
theorem State.raise_written_spec (s : State) (a : Nat) (bs : List Byte) (ds : List (Nat × W32)) (code : Nat) (v : W64) (n : W32) :
    let u := (s.write a bs).drawn
    let t := { u with faults := { u.faults with dump := none, dumps := ds } }.raise code none unitModule v n
    t.faults.dump = none ∧ t.faults.coreUp = s.faults.coreUp ∧ t.faults.restart = s.faults.restart ∧ t.faults.dies = s.faults.dies ∧
      t.ctxs = s.ctxs ∧ t.boot = s.boot ∧ t.power = s.power := by
  simp

/-- A dump that is written is no longer under way, and the core, the dies, the contexts, the boot and the power stay. -/
theorem State.finishDump_spec (s : State) (d : Dump) (q : Bool) :
    let t := s.finishDump d q
    t.faults.dump = none ∧ t.faults.coreUp = s.faults.coreUp ∧ t.faults.restart = s.faults.restart ∧ t.faults.dies = s.faults.dies ∧
      t.ctxs = s.ctxs ∧ t.boot = s.boot ∧ t.power = s.power :=
  s.raise_written_spec _ _ _ _ _ _

theorem State.writeDump_spec (s : State) (c : W16) (q : Bool) :
    let t := s.writeDump c q
    t.faults.dump = none ∧ t.faults.coreUp = s.faults.coreUp ∧ t.faults.restart = s.faults.restart ∧ t.faults.dies = s.faults.dies ∧
      t.ctxs = s.ctxs ∧ t.boot = s.boot ∧ t.power = s.power := by
  cases hd : s.faults.dump with
  | some d => simpa [State.writeDump, hd] using s.finishDump_spec d q
  | none => simpa [State.writeDump, hd, State.startDump] using (s.startDump c).finishDump_spec _ q

theorem State.startRestart_spec (s : State) (c : CoreFault) :
    (s.startRestart c).faults.coreUp = false ∧ (s.startRestart c).faults.restart = some c := by
  unfold State.startRestart
  dsimp only
  split
  · obtain ⟨-, hup, hrestart, -⟩ := State.writeDump_spec (State.countFault { s with faults := { s.faults with
      coreUp := false, restart := some c
      restarts := s.power.ticks :: s.faults.restarts.filter fun t => decide (s.power.ticks ≤ t + ticksOf 60) } } 3 1) 0x35 true
    exact ⟨hup, hrestart⟩
  · exact ⟨rfl, rfl⟩

theorem State.coreResumes_spec (s : State) (c : CoreFault) :
    (s.coreResumes c).faults.coreUp = true ∧ (s.coreResumes c).faults.restart = none := by
  unfold State.coreResumes
  dsimp only
  rw [(State.writeDump_spec _ _ _).2.1, (State.writeDump_spec _ _ _).2.2.1]
  simp

end Sys2Proof.Machine

namespace Sys2Proof.Proofs

open Sys2Proof Sys2Proof.Machine

/-- Settles O21: one execution per command. -/
theorem faultReadsRun : Obligations.FaultReadsRun := by
  unfold Obligations.FaultReadsRun
  refine ⟨fun h first count s slot hr => ?event, fun h o n s slot hr hb => ?snapshot, fun h o n s slot hr hb hp => ?dump, fun h s slot hr hd => ?take⟩
  case event =>
    rcases hr with hr | hr
    · exact .of_dev rfl hr (by simp) (by simp [done])
    · exact .of_ctx rfl hr (by simp) (by simp [done])
  case snapshot =>
    have hf := ctxReady_state hr
    exact .of_ctx rfl hr (by simpa [hb] using hf) (by simp [done])
  case dump => exact .of_dev rfl hr (by simp [hb, hp]) (by simp [done])
  case take => exact .of_dev rfl hr (by simp [hd]) (by simp [done])

/-- Settles O22: one execution per command. -/
theorem faultControlRun : Obligations.FaultControlRun := by
  unfold Obligations.FaultControlRun
  refine ⟨?unit, ?die, ?peer, ?spare⟩
  case unit =>
    intro h k i e s slot hr he
    exact .of_dev rfl hr (by simp [he]) (by simp [done, he])
  case die =>
    intro h k i d s slot hr hd
    exact .of_dev rfl hr (by simp [hd]) rfl (ha := by simp [hd])
  case peer =>
    intro h q st tag by' s slot hr hq hst hb
    exact .of_dev rfl hr (by simp; omega) rfl
  case spare =>
    intro h q s slot hr hq hv hs hf
    exact .of_dev rfl hr (by simpa [hv, hs] using ⟨hq, fun a b hm => hf (a, b) hm⟩) rfl

/-- Settles O23: one execution per event. -/
theorem dumpAndDieRun : Obligations.DumpAndDieRun := by
  unfold Obligations.DumpAndDieRun
  refine ⟨fun cause q s => ?write, fun k i d s hd => ?timeout, fun die x s hd => ?die⟩
  case write =>
    obtain ⟨hdump, -, -, -, hctxs, hboot, -⟩ := s.writeDump_spec cause q
    exact ⟨_, rfl, hdump, hctxs, hboot⟩
  case timeout => simp [execDumpUnitTimeout, hd, whenReady]
  case die => exact exists_of_onlyIf rfl hd (by simp)

/-- Settles O24: one execution per event. -/
theorem coreRestartsRun : Obligations.CoreRestartsRun := by
  unfold Obligations.CoreRestartsRun
  refine ⟨fun s hu => congrArg _ (onlyIf_of hu ..), fun c0 c s hc => ⟨?restart, s.coreResumes_spec c0⟩,
    fun c0 s hc => ?timeout, fun c s => s.startRestart_spec c⟩
  · simp [execCoreRestart, hc]
  case timeout => simp [execCoreRestartTimeout, hc]

/-- Settles O25: one execution per event. -/
theorem inputConditionsRun : Obligations.InputConditionsRun := by
  unfold Obligations.InputConditionsRun
  refine ⟨?throttle, ?throttleEnd, ?cut, ?recovered, ?surge⟩
  case throttle =>
    intro v s hp ht hv
    exact congrArg _ (onlyIf_of (by simp [hp, ht, hv]) ..)
  case throttleEnd =>
    intro v s hp ht hv
    exact congrArg _ (onlyIf_of (by simp [hp, ht, hv]) ..)
  case cut =>
    intro v s hp hc hv
    refine exists_of_onlyIf rfl (by simp [hp, hc, hv]) ?_
    simp [Power.see, Power.reading]
  case recovered =>
    intro v us s hp hc hv
    refine exists_of_onlyIf rfl (by simp [hp, hc, hv]) ?_
    simp [Power.reading]
  case surge =>
    intro v us s hp hv hu
    refine exists_of_onlyIf rfl (by simp [hp, hv, hu]) ?_
    have hs : s.power.stopCause = none := by simpa [State.powered] using hp
    simp [Power.see, hs]
    split <;> omega

end Sys2Proof.Proofs

namespace Sys2Proof.Machine

open Sys2Proof

/-! ### Orderly stops (R402, R403) -/

theorem State.stopCause_of_powered {s : State} (h : s.powered = true) : s.power.stopCause = none := by
  simpa [State.powered] using h

/-- The first step of an orderly stop where none has begun. -/
theorem State.startStop_powered {s : State} (h : s.power.stopCause = none) (c : StopCause) :
    (s.startStop c).power = { s.power with stopCause := some c, pstate := .stopping, enables := 0 } ∧ (s.startStop c).boot.stage = 12 := by
  simp [State.startStop, h]

/-- A stop already begun keeps its first cause, and memory and contexts stay. -/
theorem State.startStop_spec (s : State) (c : StopCause) :
    (s.startStop c).power.stopCause = some (s.power.stopCause.getD c) ∧ (s.startStop c).mem = s.mem ∧ (s.startStop c).ctxs = s.ctxs := by
  cases h : s.power.stopCause <;> simp [State.startStop, h]

/-- The newest `n` entries of a list that ends with `x` end with `x`. -/
theorem getLast?_newest {α : Type} (l : List α) (x : α) (n : Nat) (hn : 0 < n) :
    ((l ++ [x]).drop ((l ++ [x]).length - n)).getLast? = some x := by
  rw [List.getLast?_drop, if_neg (by simp; omega), List.getLast?_concat]

/-- What the end of an orderly stop leaves. -/
theorem State.finishStop_spec (s : State) (c : StopCause) :
    let t := s.finishStop c
    t.power.stopCause = s.power.stopCause ∧ t.power.railsDown = true ∧ t.mem = s.mem.flush ∧ t.ctxs = s.ctxs ∧
      t.boot.powerLog.getLast?.map (·.cause) = some (stopCode c) ∧ t.boot.powerLog.length ≤ 256 := by
  refine ⟨by simp [State.finishStop], rfl, by simp [State.finishStop], by simp [State.finishStop], ?_, ?_⟩
  · simp only [State.finishStop, State.alert_boot, State.raise_boot]
    rw [getLast?_newest _ _ _ (by decide)]
    rfl
  · simp only [State.finishStop, State.alert_boot, State.raise_boot, List.length_drop]
    omega

/-! ### Clock rate and time (R405, R411 to R419) -/

theorem State.measureHoldup_spec (s : State) (mj : Nat) :
    let t := s.measureHoldup mj
    t.power = { s.power with capacity := mj, holdup := mj / 10 } ∧ t.mem = s.mem ∧ t.ctxs = s.ctxs ∧ t.boot = s.boot := by
  unfold State.measureHoldup
  dsimp only
  split <;> simp

theorem thermalLimit_le {old : Nat} (r : PowerReading) (h : old ≤ 7) : thermalLimit old r ≤ 7 := by
  grind [thermalLimit]

theorem tMax_lt_of_thermalLimit {old : Nat} {r : PowerReading} (h : old < thermalLimit old r) : r.tMax < 90 := by
  grind [thermalLimit]

theorem State.levelTarget_le (s : State) (th : Nat) (r : PowerReading) : s.levelTarget th r ≤ th := by
  grind [State.levelTarget]

theorem Power.setPll_pll (p : Power) (l : Pll) (r : ClockRef) : (p.setPll l r).pll l = r := by
  cases l <;> simp [Power.setPll, Power.pll]

/-- Setting a PLL leaves the enables, the losses and the ticks. -/
theorem Power.setPll_rest (p : Power) (l : Pll) (r : ClockRef) :
    (p.setPll l r).enables = p.enables ∧ (p.setPll l r).lastLoss = p.lastLoss ∧ (p.setPll l r).ticks = p.ticks := by
  cases l <;> exact ⟨rfl, rfl, rfl⟩

theorem Power.enable_off (p : Power) (n : Fin 8) : (p.enable n false).enables.getLsbD n.val = false := by
  have hbit : (BitVec.ofNat 8 (2 ^ n.val)).getLsbD n.val = true := by
    fin_cases n <;> rfl
  simp only [Power.enable, Bool.false_and, Bool.false_eq_true, if_false, BitVec.getLsbD_and, BitVec.getLsbD_not, hbit, Bool.not_true,
    Bool.and_false]

/-- The eighth window of a reference decides (R413). -/
theorem ClockRef.window_last {r : ClockRef} (e : Nat) (hr : r.ready = false) (hl : r.windows.length = 7) :
    r.window e = { windows := [], ready := qualified (r.windows ++ [e]) } := by
  simp only [ClockRef.window, hr, List.length_append, hl, List.length_singleton]
  cases qualified (r.windows ++ [e]) <;> rfl

theorem State.ppsLock_spec (s : State) (e : Int) :
    (s.ppsLock e).power = { s.power with pps := .locked } ∧ (s.ppsLock e).mem = s.mem := by
  unfold State.ppsLock
  split
  · next h => rw [← h]; exact ⟨rfl, rfl⟩
  · simp

/-- What a DVFS PLL that loses lock leaves before any die reset: it is not ready, its dies are not enabled, and the loss is noted (R414). -/
def State.dvfsLost (s : State) (n : Fin 8) : State :=
  ((s.onPower fun p => p.setPll (.dvfs n) {}).raise 0x66 none unitModule (BitVec.ofNat 64 0) (BitVec.ofNat 32 n.val)).onPower fun p =>
    { p.enable n.val false with lastLoss := Tab.put p.lastLoss n.val s.power.ticks }

theorem State.dvfsLost_spec (s : State) (n : Fin 8) :
    let u := s.dvfsLost n
    (u.power.pll (.dvfs n)).ready = false ∧ u.power.enables.getLsbD n.val = false ∧ u.faults.nextSeq = s.faults.nextSeq + 1 ∧
      Tab.find? u.power.lastLoss n = some s.power.ticks ∧ u.mem = s.mem ∧ u.ctxs = s.ctxs := by
  refine ⟨?_, Power.enable_off _ n, by simp [State.dvfsLost], by simp [State.dvfsLost, Power.setPll_rest], by simp [State.dvfsLost],
    by simp [State.dvfsLost]⟩
  simp [State.dvfsLost, Power.pll, Power.enable, Power.setPll]

/-- A DVFS PLL that loses lock, and a die reset where it has lost it within the last 60 s (R414). -/
theorem exec_clockFault_dvfs {n : Fin 8} {s : State} (hp : s.powered = true) :
    exec (.clockFault (.dvfs n)) s = .next (if (Tab.find? s.power.lastLoss n).any fun t => decide (s.power.ticks ≤ t + ticksOf 60)
      then (s.dvfsLost n).startDieReset (.cd n) else s.dvfsLost n) := by
  rw [exec_clockFault, execClockFault, hp, onlyIf_true]
  simp only [State.raise_power, State.onPower_power, Power.setPll_rest, pllDomain]
  cases Tab.find? s.power.lastLoss n <;> rfl

end Sys2Proof.Machine

namespace Sys2Proof.Proofs

open Sys2Proof Sys2Proof.Machine

/-- Settles O26: each cause starts the stop, and the stop ends with its record. -/
theorem orderlyStopsRun : Obligations.OrderlyStopsRun := by
  unfold Obligations.OrderlyStopsRun
  refine ⟨?surge, ?overV, ?holdup, ?thermal, ?stop, fun c s hr => ?done⟩
  case surge =>
    intro v s hp hv
    have hstop := (s.onPower fun p => (p.reading v).see 5).startStop_powered (s.stopCause_of_powered hp) .overVoltage
    exact exists_of_onlyIf rfl (by simp [hp, hv]) (by simp [hstop])
  case overV =>
    intro v s hp hv
    have hstop := (s.onPower fun p => p.reading v).startStop_powered (s.stopCause_of_powered hp) .overVoltage
    exact exists_of_onlyIf rfl (by simp [hp, hv]) (by simp [hstop])
  case holdup =>
    intro s hp hc
    have hstop := (s.onPower fun p => { p with holdup := min p.holdup 300 }).startStop_powered (s.stopCause_of_powered hp) .holdup
    exact exists_of_onlyIf rfl (by simp [hp, hc]) (by simp [hstop])
  case thermal =>
    intro tm sn s hp ht
    have hstop := (s.onPower fun p => { p with tMax := tm, tSensor := sn }).startStop_powered (s.stopCause_of_powered hp) .thermal
    exact exists_of_onlyIf rfl (by simp [hp, ht]) (by simp [hstop])
  case stop =>
    intro c s hr
    obtain ⟨hcause, hmem, hctxs⟩ := s.startStop_spec c
    have hstop := (s.startStop c).finishStop_spec (s.power.stopCause.getD c)
    refine exists_of_onlyIf rfl (by simp [hr]) ?_
    simpa [hcause, hmem, hctxs] using hstop
  case done => simp [execOrderlyStop, hr]

/-- Settles O27: one execution per event, and the bounds of the thermal limit. -/
theorem powerControlRun : Obligations.PowerControlRun := by
  unfold Obligations.PowerControlRun
  refine ⟨?evaluate, fun s hp => congrArg _ (onlyIf_of hp ..), ?envelope, ?cut, ?overV, ?measure, ?falls, fun _ _ => tMax_lt_of_thermalLimit,
    fun _ r => thermalLimit_le r, State.levelTarget_le⟩
  case evaluate =>
    intro r s hp ht
    refine exists_of_onlyIf rfl hp ?_
    have hs := s.stopCause_of_powered hp
    have hn : ¬ 110 < r.tMax := by omega
    simp only [hn, if_false]
    split_ifs <;> simp [Power.see, hs]
  case envelope =>
    intro d p b s hp hc
    simp [execEnvelopeUpdate, hp, hc]
  case cut =>
    intro d p b s hp hc
    exact exists_of_onlyIf rfl hp (by simp [hc])
  case overV =>
    intro w s hp hw
    exact congrArg _ (onlyIf_of (by simp [hp, hw]) ..)
  case measure =>
    intro mj s hp
    obtain ⟨hpower, hmem, hctxs, -⟩ := s.measureHoldup_spec mj
    exact exists_of_onlyIf rfl hp (by simp [hpower, hmem, hctxs])
  case falls =>
    intro old r h
    exact if_pos h

/-- Settles O32: one execution per command. -/
theorem recoveryFlashRun : Obligations.RecoveryFlashRun := by
  unfold Obligations.RecoveryFlashRun
  refine ⟨fun k s hr => congrArg _ (onlyIf_of hr ..), fun k u s hr => ?program, fun k ok s hr => congrArg _ (onlyIf_of hr ..)⟩
  have hu : 256 * u.toNat + 256 ≤ 0x4000000 := by omega
  simp [execProgram, hr, hu]

/-- Settles O28: one execution per event, and the rules of the windows, the PLLs and the edges. -/
theorem clocksTimeRun : Obligations.ClocksTimeRun := by
  unfold Obligations.ClocksTimeRun
  refine ⟨fun e s => rfl, ?gather, ?decides, ?timeout, ?qualified, ?lock, ?reference, ?lockWindow, ?loss, ?again, ?other, ?module, ?relock,
    ?ready, ?edge, ?step, ?accept, ?lost, ?unlocked, ?wrap, ?pending⟩
  case gather =>
    intro r e hr hl
    simp [ClockRef.window, hr, hl]
  case decides =>
    intro r e hr hl
    simp only [ClockRef.window_last e hr hl, qualified, Bool.and_eq_true, decide_eq_true_eq, List.all_eq_true, true_and]
  case timeout =>
    intro s hr
    refine exists_of_onlyIf rfl (by simp [hr]) ⟨rfl, rfl, fun p => ?_, ?_, rfl, rfl, rfl⟩
    · simp only [State.port, Tab.get, Tab.find?_mapAll, State.alert_fabric]
      cases Tab.find? s.fabric.ports p with
      | none => exact .inl rfl
      | some x => by_cases hx : x.state = .retired <;> simp [hx]
    · simp
  case qualified =>
    intro s hr
    simp [execRefQualifyTimeout, hr]
  case lock =>
    intro pll e s hp
    exact congrArg _ (onlyIf_of (by simp [hp]) ..)
  case reference => exact fun e s => rfl
  case lockWindow =>
    intro r e
    refine ⟨fun h => ?_, fun h1 h2 hr => ?_, fun h1 h2 hr => ?_⟩
    · grind [ClockRef.lockWindow]
    · grind [ClockRef.lockWindow]
    · grind [ClockRef.lockWindow]
  case loss =>
    intro n s hp hl
    have hno : ¬ (Tab.find? s.power.lastLoss n).any (fun t => decide (s.power.ticks ≤ t + ticksOf 60)) = true := by
      cases hf : Tab.find? s.power.lastLoss n with
      | none => simp
      | some t => simpa using hl t hf
    exact ⟨_, (exec_clockFault_dvfs hp).trans (by rw [if_neg hno]), s.dvfsLost_spec n⟩
  case again =>
    intro n l s hp hl ht
    have hyes : (Tab.find? s.power.lastLoss n).any (fun t => decide (s.power.ticks ≤ t + ticksOf 60)) = true := by simpa [hl] using ht
    obtain ⟨hready, hen, -, -, hmem, hctxs⟩ := s.dvfsLost_spec n
    exact ⟨_, (exec_clockFault_dvfs hp).trans (by rw [if_pos hyes]), hready, hen, hmem, hctxs⟩
  case other =>
    intro p s hp hk
    refine exists_of_onlyIf rfl hp ?_
    rcases hk with ⟨n, rfl⟩ | ⟨n, rfl⟩ <;> simp [Power.setPll_pll, Power.setPll_rest]
  case module =>
    intro p s hp hk
    refine exists_of_onlyIf rfl hp ?_
    rcases hk with rfl | rfl <;> simp [Power.setPll_pll, State.askReset]
  case relock =>
    intro n s hp hr
    simp [execPllRelock, hp, hr, State.onPower]
  case ready =>
    intro n b s hr
    simp [execPllRelock, hr]
  case edge =>
    intro n s hp
    refine ⟨fun hf => ?_, fun hf he hw => ?_, fun hf hb => ?_⟩
    · simp [execPpsEdge, hp, hf, State.onPower]
    · simp [execPpsEdge, hp, hf, he, hw, State.onPower]
    · have hno : ¬ (s.power.edgeError.natAbs ≤ 200000 ∧ within (s.power.ppsSince + n) 1000000000 200000 = true) := by
        rintro ⟨he, hw⟩
        rcases hb with hb | hb
        · omega
        · simp [hw] at hb
      simp [execPpsEdge, hp, hf, hno, State.onPower]
  case step =>
    intro s e
    simp [State.ppsStep, State.ppsLock_spec]
  case accept =>
    intro s e hn
    simp [State.ppsAccept, State.ppsLock_spec, hn]
  case lost =>
    intro s hl
    exact congrArg _ (onlyIf_of (by simp [hl]) ..)
  case unlocked =>
    intro s hl
    simp [execPpsLost, hl]
  case wrap =>
    intro s h
    rcases h with h | h
    · simp [execNanosecondFieldWrap, State.wrapNanos, h, State.onPower]
    · cases hx : s.power.pendSec <;> simp [execNanosecondFieldWrap, State.wrapNanos, hx, h, State.onPower]
  case pending =>
    intro s x hx hl
    simp [execNanosecondFieldWrap, State.wrapNanos, hx, hl, State.setSeconds_power]

end Sys2Proof.Proofs

namespace Sys2Proof.Machine

open Sys2Proof

/-! ### What a fold leaves -/

/-- What each step of a fold leaves, the fold leaves. -/
theorem foldl_keeps {α β γ : Type} {f : β → α → β} (g : β → γ) (h : ∀ b a, g (f b a) = g b) (l : List α) (b : β) : g (l.foldl f b) = g b := by
  induction l generalizing b with
  | nil => rfl
  | cons a l ih => exact (ih (f b a)).trans (h b a)

/-! ### The books of memory that no write touches (R302, R309) -/

/-- The retraining channel, the retrain queue, the fenced channels in order, and whether the Basin is exceeded. -/
def Mem.books (m : Mem) : Option Nat × List Nat × List Nat × Bool := (m.busy, m.queue, m.order, m.exhausted)

theorem Mem.books_openPoison (m : Mem) (a : Nat) : (m.openPoison a).books = m.books := by
  unfold Mem.openPoison
  dsimp only
  split
  · split <;> rfl
  · rfl

theorem Mem.books_wholeSector (m : Mem) (sec : Nat) (bs : List (Nat × Byte)) : (m.wholeSector sec bs).books = m.books := by
  unfold Mem.wholeSector
  dsimp only
  split <;> rfl

theorem Mem.books_evictOldest (m : Mem) (st : Nat) : (m.evictOldest st).books = m.books := by
  unfold Mem.evictOldest
  split <;> rfl

theorem Mem.books_writeSector (m : Mem) (sec off : Nat) (bs : List Byte) : (m.writeSector sec off bs).books = m.books := by
  have hcount : (if (m.openPoison sec).remapped sec then (m.openPoison sec).count (channelOf sec / 32) 4 1 else m.openPoison sec).books = m.books := by
    split <;> exact m.books_openPoison sec
  unfold Mem.writeSector
  dsimp only
  generalize (if (m.openPoison sec).remapped sec then (m.openPoison sec).count (channelOf sec / 32) 4 1 else m.openPoison sec) = n at hcount
  rw [← hcount]
  split
  · exact (n.dropEntry sec).books_wholeSector _ _
  · split
    · split
      · exact (n.dropEntry sec).books_wholeSector _ _
      · rfl
    · split
      · rfl
      · exact n.books_evictOldest _

theorem Mem.books_writePiece (m : Mem) (a : Nat) (bs : List Byte) : (m.writePiece a bs).books = m.books := by
  unfold Mem.writePiece
  dsimp only
  split
  · refine foldl_keeps Mem.books (fun m b => ?_) _ m
    split
    · rfl
    · exact m.books_writeSector _ _ _
  · split
    · rfl
    · exact m.books_writeSector _ _ _

theorem Mem.books_writeFuel (k : Nat) (m : Mem) (a : Nat) (bs : List Byte) : (Mem.writeFuel k m a bs).books = m.books := by
  induction k generalizing m a bs with
  | zero => rfl
  | succ k ih =>
    cases bs with
    | nil => rfl
    | cons b bs => exact (ih _ _ _).trans (m.books_writePiece _ _)

@[simp] theorem Mem.books_write (m : Mem) (a : Nat) (bs : List Byte) : (m.write a bs).books = m.books := by
  unfold Mem.write
  split
  · rfl
  · exact m.books_writeFuel _ _ _

theorem Mem.write_exhausted (m : Mem) (a : Nat) (bs : List Byte) : (m.write a bs).exhausted = m.exhausted :=
  congrArg (fun b => b.2.2.2) (m.books_write a bs)

/-! ### Channels (R301 to R309) -/

/-- A dump that is written leaves the Basin as it was, and whether a reset is asked for. -/
theorem State.writeDump_exhausted (s : State) (c : W16) (q : Bool) : (s.writeDump c q).mem.exhausted = s.mem.exhausted := by
  have hfinish (t : State) (d : Dump) : (t.finishDump d q).mem.exhausted = t.mem.exhausted :=
    (congrArg Mem.exhausted (State.raise_mem ..)).trans (t.mem.write_exhausted _ _)
  unfold State.writeDump
  cases hd : s.faults.dump with
  | some d => simpa [hd] using hfinish s d
  | none => simpa [hd, State.startDump] using hfinish (s.startDump c) _

/-- Where the Basin is exceeded, a warm reset is asked for (R309). -/
theorem State.exhausted_spec (s : State) : s.exhausted.mem.exhausted = true ∧ s.exhausted.faults.resetAsked = true := by
  refine ⟨?_, rfl⟩
  rw [State.exhausted, State.askReset_mem, State.writeDump_exhausted, State.raise_mem]

end Sys2Proof.Machine

namespace Sys2Proof.Proofs

open Sys2Proof Sys2Proof.Machine

/-- Settles O34: each write is seen as `Mem.write_spec` says, and the first leaves every byte where it lies. -/
theorem writeVisible : Obligations.WriteVisible := by
  unfold Obligations.WriteVisible
  intro m a c bs cs hwf
  obtain ⟨hwf1, hmap, -, hbytes, hother⟩ := Mem.write_spec hwf a bs
  obtain ⟨-, -, -, hbytes2, hother2⟩ := Mem.write_spec hwf1 c cs
  simp only [hmap.home] at hbytes2 hother2
  exact ⟨hbytes2, fun i b hb hj hc => (hother2 _ hc).trans (hbytes i b hb hj), fun x hx hc => (hother2 x hc).trans (hother x hx),
    fun x hp => by simp [Mem.home, hp]⟩

/-- Settles O33: one execution per command and event. -/
theorem channelsRun : Obligations.ChannelsRun := by
  unfold Obligations.ChannelsRun
  refine ⟨?due, ?queued, ?request, ?start, ?busy, ?passed, ?failed, ?scrub, ?skip, ?evict, fun c s => rfl, ?phy, ?fenced, ?exceeded, ?relocate⟩
  case due =>
    intro c s ha hf
    simp [execRetrainDue, execDriftAlarm, State.trigger, State.chan, ha, hf]
  case queued =>
    intro c s hq
    simp [execRetrainDue, execDriftAlarm, State.trigger, State.chan, hq, onlyIf]
  case request =>
    intro h c s slot hr hc ha
    exact .of_dev rfl hr (by simpa [State.chan, ha] using hc) (by simp [done, State.trigger, State.chan, ha])
  case start =>
    intro s c r hb hq
    simp [execRetrainStart, hb, hq, State.chan]
  case busy =>
    intro s c hb
    simp [execRetrainStart, hb]
  case passed =>
    intro s c hb
    refine ⟨_, by rw [exec_retrainEnd, execRetrainEnd, hb, whenReady], ?_⟩
    simp [State.countRetrain, State.setChan, Mem.setChan]
  case failed =>
    intro s c hb
    rw [exec_retrainEnd, execRetrainEnd, hb]
    rfl
  case scrub =>
    intro c s ha
    exact congrArg _ (onlyIf_of (by simp [State.chan, ha]) ..)
  case skip =>
    intro c r s ha
    simp [execScrubStep, State.chan, ha]
  case evict =>
    intro k e s he
    rw [exec_wcbEvict, execWcbEvict, he]
    rfl
  case phy => exact fun k s => ⟨_, rfl, State.exhausted_spec _⟩
  case fenced =>
    intro c ce ue s ha hu hn
    refine exists_of_onlyIf rfl (by simp [State.chan, ha, hu]) ?_
    have hno : ¬ 16 ≤ s.mem.fencedCount := by omega
    simp [hno, Mem.setChan, Mem.chan]
  case exceeded =>
    intro c ce ue s ha hu hn
    refine exists_of_onlyIf rfl (by simp [State.chan, ha, hu]) ?_
    simp only [State.raise_mem, hn, if_true]
    exact State.exhausted_spec _
  case relocate =>
    intro c s hr hp hf
    exact congrArg _ (onlyIf_of (by simp [State.chan, hr, hp, hf]) ..)

end Sys2Proof.Proofs

namespace Sys2Proof.Machine

open Sys2Proof

/-! ### The boot (R432) -/

@[simp] theorem State.hostPortUp_boot (s : State) (p : Fin 2) (rate100 lane1Lost : Bool) : (s.hostPortUp p rate100 lane1Lost).boot = s.boot := by
  unfold State.hostPortUp
  dsimp only
  split <;> simp

@[simp] theorem slotFallback_boot (s : State) (i : Fin 2) (cause : W32) : (slotFallback s i cause).boot = s.boot := by
  simp [slotFallback]

@[simp] theorem State.restoreTest_boot (s : State) (n : Nat) (failed : Bool) : (s.restoreTest n failed).boot = s.boot := by
  unfold State.restoreTest
  split_ifs <;> simp [State.katFailed]

@[simp] theorem State.measureHoldup_boot (s : State) (mj : Nat) : (s.measureHoldup mj).boot = s.boot := (s.measureHoldup_spec mj).2.2.2

@[simp] theorem Boot.countTrial_bootCount (b : Boot) : b.countTrial.1.bootCount = b.bootCount := by
  unfold Boot.countTrial
  split_ifs <;> rfl

@[simp] theorem State.startXoel_bootCount (s : State) (slot : Fin 2) : (s.startXoel slot).boot.bootCount = s.boot.bootCount := rfl

@[simp] theorem State.readEeproms_bootCount (s : State) (i : BootInputs) : (s.readEeproms i).boot.bootCount = s.boot.bootCount := by
  have hfold (l : List PowerRecord) (t : State) :
      (l.foldl (fun s r => s.raise 0x63 none unitModule (BitVec.ofNat 64 r.cause) r.eventSeq) t).boot = t.boot :=
    foldl_keeps State.boot (fun _ _ => State.raise_boot ..) l t
  unfold State.readEeproms
  dsimp only
  split <;> split_ifs <;> simp [hfold, Boot.rewrite]

@[simp] theorem State.bringUpMemory_bootCount (s : State) (i : BootInputs) : (s.bringUpMemory i).boot.bootCount = s.boot.bootCount := by
  have hfold (l : List (W64 × Nat)) (t : State) : (l.foldl (fun s e =>
      if e.1 = s.boot.stackId.getD e.2 0 then s else s.raise 0x87 none unitModule e.1 (BitVec.ofNat 32 e.2)) t).boot = t.boot :=
    foldl_keeps State.boot (fun t e => by split <;> simp) l t
  have hstart (t : State) (m : List (BitVec 256)) : ({ t with boot := { t.boot with stacksRead := i.stackIds, measures := m, stage := 7 } }).boot.bootCount =
      t.boot.bootCount := rfl
  exact (hstart _ _).trans (congrArg Boot.bootCount (hfold _ _))

@[simp] theorem State.testArrays_bootCount (s : State) (i : BootInputs) : (s.testArrays i).boot.bootCount = s.boot.bootCount := by
  have hfold (l : List (Fin 192)) (t : State) : (l.foldl (fun s k => s.restoreTest k.val true) t).boot = t.boot :=
    foldl_keeps State.boot (fun t k => t.restoreTest_boot _ _) l t
  simp [State.testArrays, hfold]

@[simp] theorem State.openPorts_boot (s : State) (i : BootInputs) : (s.openPorts i).boot = { s.boot with stage := 10 } := by
  unfold State.openPorts
  dsimp only
  split <;> simp

/-- No slot is chosen whose signature does not hold (R432). -/
theorem Boot.chooseSlot_none (b : Boot) : b.chooseSlot false false = none := by
  simp [Boot.chooseSlot, Boot.slotValidNow]

/-- Steps 3 and 4 of the boot: it is counted, and a trial that is exhausted falls back (R432, R433). -/
def State.countBoot (s : State) : State :=
  let s := s.onPower fun p => { p with reference := { ready := true }, mgmtPll := { ready := true } }
  let s := { s with boot := { s.boot.rewrite with bootCount := s.boot.bootCount + 1, stage := 3 } }
  let b := s.boot.countTrial
  let t := { s with boot := { b.1 with stage := 4 } }
  if b.2 then slotFallback t s.boot.pref 1 else t

theorem State.countBoot_bootCount (s : State) : s.countBoot.boot.bootCount = s.boot.bootCount + 1 := by
  unfold State.countBoot
  dsimp only
  split <;> simp

/-- Steps 5 to 10 of the boot, from the slot that is chosen (R432). -/
def State.bootSlot (s : State) (i : BootInputs) (slot : Fin 2) : State :=
  let s := if slot = s.boot.pref then s else slotFallback s s.boot.pref 0
  ((((s.startXoel slot).readEeproms i).bringUpMemory i).testArrays i).openPorts i

theorem State.bootSlot_spec (s : State) (i : BootInputs) (slot : Fin 2) :
    (s.bootSlot i slot).boot.bootCount = s.boot.bootCount ∧ (s.bootSlot i slot).boot.stage = 10 := by
  unfold State.bootSlot
  dsimp only
  split <;> simp

/-- A boot that passes steps 1 and 2. -/
theorem State.bootUp_of_ok (s : State) {i : BootInputs} (hrom : i.romOk = true) (href : i.refOk = true) :
    s.bootUp i = (s.countBoot.boot.chooseSlot i.sigOkA i.sigOkB).elim s.countBoot.romRecovery (s.countBoot.bootSlot i) := by
  unfold State.bootUp
  rw [hrom, href]
  cases h : s.countBoot.boot.chooseSlot i.sigOkA i.sigOkB with
  | none =>
    simp only [State.countBoot] at h
    simp only [Bool.not_true, Bool.false_eq_true, if_false, h]
    rfl
  | some slot =>
    simp only [State.countBoot] at h
    simp only [Bool.not_true, Bool.false_eq_true, if_false, h]
    rfl

/-- It is counted and ends at BOOT_DONE or in ROM recovery, and in ROM recovery where no slot is chosen. -/
theorem State.bootUp_spec (s : State) {i : BootInputs} (hrom : i.romOk = true) (href : i.refOk = true) :
    (s.bootUp i).boot.bootCount = s.boot.bootCount + 1 ∧
      ((s.bootUp i).boot.stage = 10 ∨ (s.bootUp i).boot.stage = 11 ∧ (s.bootUp i).boot.recovery = true) := by
  rw [s.bootUp_of_ok hrom href]
  cases s.countBoot.boot.chooseSlot i.sigOkA i.sigOkB with
  | none => exact ⟨s.countBoot_bootCount, .inr ⟨rfl, rfl⟩⟩
  | some slot =>
    obtain ⟨hcount, hstage⟩ := s.countBoot.bootSlot_spec i slot
    exact ⟨hcount.trans s.countBoot_bootCount, .inl hstage⟩

/-! ### Module resets (R15, R313, R336) -/

theorem State.moduleReset_ctx (s : State) (full : Bool) (c : Nat) :
    ((s.moduleReset full).ctx c).state = .free ∧ ((s.moduleReset full).ctx c).program = none := by
  cases full with
  | true => exact ⟨rfl, rfl⟩
  | false =>
    simp only [State.ctx, State.moduleReset, Tab.get, Bool.false_eq_true, if_false, Tab.find?_mapAll]
    cases Tab.find? (s.raise 0x34 none unitModule (s.freeWord.setWidth 64) 0).drawn.ctxs c <;> exact ⟨rfl, rfl⟩

/-- Entries that stay are found as before. -/
theorem Tab.find?_filter {α : Type} {t : Tab α} {i : Nat} {p : Nat × α → Bool} (h : ∀ v, p (i, v) = true) : Tab.find? (List.filter p t) i = Tab.find? t i := by
  induction t with
  | nil => rfl
  | cons e t ih =>
    obtain ⟨j, v⟩ := e
    by_cases hj : j = i
    · subst hj
      simp [h, Tab.find?_cons]
    · by_cases hp : p (j, v) = true
      · simp [hp, Tab.find?_cons, hj, ih]
      · simp [hp, Tab.find?_cons, hj, ih]

/-- A warm reset keeps the bytes of HBM, with the buffers flushed (R313). -/
theorem State.moduleReset_byte (s : State) {a : Nat} (ha : a < hbmEnd) :
    Memory.byte (s.moduleReset false).mem.bytes a = Memory.byte s.mem.flush.bytes a := by
  have hmem : (s.moduleReset false).mem.bytes = s.mem.flush.bytes.filter fun e => decide (e.1 < hbmEnd) := by
    simp [State.moduleReset, Mem.moduleReset]
  rw [hmem]
  exact congrArg (Option.getD · 0) (Tab.find?_filter fun v => by simpa using ha)

end Sys2Proof.Machine

namespace Sys2Proof.Proofs

open Sys2Proof Sys2Proof.Machine

/-- Settles O29: where a boot begins, and where it ends. -/
theorem bootRun : Obligations.BootRun := by
  unfold Obligations.BootRun
  refine ⟨?begins, ?powerUp, fun i s hb hp hl => exec_moduleWarmReset_ready hb hp hl, ?rom, ?reference, ?recovery, ?counted⟩
  case begins =>
    intro i s hs hl
    rcases hs with hs | ⟨hs, hr⟩
    · simp [execColdBoot, State.bootDue, hs, hl]
    · simp [execColdBoot, State.bootDue, hs, hr, hl]
  case powerUp =>
    intro i s hs hr hl
    refine ⟨by simp [execColdBoot, State.bootDue, hs, hr, hl], rfl, rfl, rfl, rfl, rfl⟩
  case rom =>
    intro i s hrom
    simp [State.bootUp, hrom]
  case reference =>
    intro i s hrom href
    simp [State.bootUp, hrom, href]
  case recovery =>
    intro i s hrom href ha hb
    rw [s.bootUp_of_ok hrom href, ha, hb, Boot.chooseSlot_none]
    exact ⟨rfl, rfl⟩
  case counted =>
    intro i s hrom href
    exact s.bootUp_spec hrom href

/-- Settles O30: what a module reset builds afresh and what it copies, and one execution per event. -/
theorem resetsRun : Obligations.ResetsRun := by
  unfold Obligations.ResetsRun
  refine ⟨State.moduleReset_ctx, fun s full => ⟨rfl, rfl, rfl, ?boot, ?pending⟩, fun s => ⟨rfl, rfl⟩, fun s a => s.moduleReset_byte, ?bus,
    fun s hp => exec_resetNAssert_powered hp, fun us s hp hl => ⟨fun h => exec_resetNRelease_short hp hl h,
      fun h h' => exec_resetNRelease_warm hp hl h h', fun h => exec_resetNRelease_full hp hl h⟩⟩
  case boot => simp [State.moduleReset, Boot.moduleReset]
  case pending => simp [State.moduleReset]
  case bus =>
    intro s hb hp
    simp [execWarmReset, execFullReset, hb, hp]

end Sys2Proof.Proofs

namespace Sys2Proof.Machine

open Sys2Proof

/-! ### What taking a command leaves to its checks (R331) -/

@[simp] theorem State.take_memGrantChecks (s : State) (slot : Nat) (h k : KcpHdr) (b n : W64) :
    memGrantChecks k b n (s.take slot h) = memGrantChecks k b n s := by
  simp [memGrantChecks]

@[simp] theorem State.take_hostRange (s : State) (slot : Nat) (h : KcpHdr) (c : Nat) (a : W64) (n : Nat) (r : Bool) :
    (s.take slot h).hostRange c a n r = s.hostRange c a n r := by
  obtain ⟨_, _, ht⟩ := s.spoke_take slot h
  rw [ht]
  rfl

@[simp] theorem State.take_holds (s : State) (slot : Nat) (h : KcpHdr) (c f : Nat) : (s.take slot h).holds c f = s.holds c f := by
  simp [State.holds]

/-- An entry that a test treats like the old one leaves whether any entry passes the test. -/
theorem Tab.any_put_of_same {α : Type} {g : Nat × α → Bool} {t : Tab α} {i : Nat} {x y : α} (hx : Tab.find? t i = some x)
    (hg : g (i, y) = g (i, x)) : List.any (Tab.put t i y) g = List.any t g := by
  induction t with
  | nil => cases hx
  | cons e r ih =>
    obtain ⟨k, w⟩ := e
    simp only [Tab.find?_cons] at hx
    unfold Tab.put
    grind [Tab.mem_of_find?]

@[simp] theorem State.take_plan (s : State) (slot : Nat) (h : KcpHdr) (c : Nat) : (s.take slot h).plan c = s.plan c := by
  obtain ⟨_, _, ht⟩ := s.spoke_take slot h
  rw [ht]
  rfl

/-- Taking a command opens and closes no stream. -/
theorem State.take_streamsOf_any (s : State) (slot : Nat) (h : KcpHdr) (c : Nat) (p : Stream → Bool) :
    ((s.take slot h).streamsOf c).any p = (s.streamsOf c).any p := by
  cases hx : s.session? slot with
  | none => simp [State.take, hx]
  | some x =>
    rw [State.take_of_session hx]
    simp only [State.streamsOf, State.setSession, List.any_flatMap]
    exact Tab.any_put_of_same hx rfl

@[simp] theorem State.take_rangeUsed (s : State) (slot : Nat) (h : KcpHdr) (c a n : Nat) :
    (s.take slot h).rangeUsed c a n = s.rangeUsed c a n := by
  simp only [State.rangeUsed, State.take_plan, State.take_streamsOf_any, State.take_mem, State.take_structs]

@[simp] theorem State.take_fenceAt (s : State) (slot : Nat) (h : KcpHdr) (f : Nat) : (s.take slot h).fenceAt f = s.fenceAt f := by
  simp [State.fenceAt]

theorem settled_of_mem {x : Ctx} (h : x.state ∈ [CtxState.loaded, .held]) : x.settled = true := by
  simp only [List.mem_cons, List.not_mem_nil, or_false] at h
  rcases h with h | h <;> simp [Ctx.settled, h]

/-! ### Host accesses (R295, R354) -/

/-- Noting a host access changes no more than the context. -/
theorem State.noteHost_spec (s : State) (c a n : Nat) :
    (s.noteHost c a n).mem = s.mem ∧ (s.noteHost c a n).fences = s.fences ∧ (s.noteHost c a n).arrays = s.arrays ∧ (s.noteHost c a n).kcp = s.kcp := by
  unfold State.noteHost
  split <;> exact ⟨rfl, rfl, rfl, rfl⟩

theorem fillBytes_getElem? {p : W32} {n i : Nat} (h : i < n) : (fillBytes p n)[i]? = some ((le 4 p.toNat).getD (i % 4) 0) := by
  simp [fillBytes, h]

@[simp] theorem fillBytes_length (p : W32) (n : Nat) : (fillBytes p n).length = n := by
  simp [fillBytes]

/-- A reply on a port whose packet was next leaves the module, whatever its effect did to other parts of the state (R327). -/
theorem State.mem_answer_out_of_kcp {s t : State} {h : KcpHdr} {slot : Nat} (hn : s.kcpNext h slot = true) (ht : t.kcp = (s.take slot h).kcp)
    (op : W16) (st : Status) (ps : List Byte) : .reply (kcpReply h op st ps) ∈ (t.answer slot h op st ps).out := by
  refine State.mem_answer_out ?_ slot op st ps
  have hhp : t.hp h.port = (s.take slot h).hp h.port := by simp only [State.hp, ht]
  rw [hhp, State.take_hp]
  exact (State.kcpUp_of_kcpNext hn).1

/-! ### Fences (R346 to R348, R362) -/

theorem State.fenceAt_of_find {s : State} {f : Nat} {x : Fence} (h : Tab.find? s.fences f = some x) : s.fenceAt f = x := by
  simp [State.fenceAt, h]

theorem State.holds_of_find {s : State} {c f : Nat} {x : Fence} (h : Tab.find? s.fences f = some x) (ho : x.owner = c) : s.holds c f = true := by
  simp [State.holds, h, ho]

/-- A signal changes its fence, and besides it only sessions and what leaves the module. -/
theorem State.spoke_signal {s : State} {f : Nat} {x : Fence} (inc : W32) (hx : Tab.find? s.fences f = some x) (hz : x.frozen = false) :
    State.Spoke { s with fences := Tab.put s.fences f { x with value := x.value + inc } } (s.signal f inc) := by
  simpa [State.signal, hx, hz] using State.spoke_fenceNotices _ f x.owner (x.value + inc)

theorem State.signal_frozen {s : State} {f : Nat} {x : Fence} (inc : W32) (hx : Tab.find? s.fences f = some x) (hz : x.frozen = true) :
    s.signal f inc = s := by
  simp [State.signal, hx, hz]

/-- The entry of a session with an identifier stays when only its books change. -/
theorem State.slotOf_setSession {s : State} {id : W32} {slot : Nat} {x y : Session} (hk : s.slotOf id = some slot)
    (hx : s.session? slot = some x) (hid : y.id = x.id) : (s.setSession slot y).slotOf id = some slot :=
  Tab.find?_put_of_same hx (by simp [hid]) hk

end Sys2Proof.Machine

namespace Sys2Proof.Proofs

open Sys2Proof Sys2Proof.Machine

/-- Settles O36: one execution per command. -/
theorem grantRun : Obligations.GrantRun := by
  unfold Obligations.GrantRun
  refine ⟨?grant, ?release⟩
  case grant =>
    intro h b n s slot hr hc
    exact .of_ctx rfl hr (by simpa using hc) (by simp [done])
  case release =>
    intro h g r s slot hr hf hu
    exact .of_ctx rfl hr (by simp [hf, hu]) rfl

/-- Settles O37: the bytes of each effect, by `Mem.write_spec`. -/
theorem hostMemoryRun : Obligations.HostMemoryRun := by
  unfold Obligations.HostMemoryRun
  refine ⟨?write, ?read, ?fill, ?fillFence⟩
  case write =>
    intro h a d s slot hr hlen h4 hc hwf
    obtain ⟨-, -, -, hbytes, hother⟩ := Mem.write_spec hwf a.toNat d
    obtain ⟨hmem, hfences, harrays, hkcp⟩ := ((s.take slot h).write a.toNat d).noteHost_spec (hctx h) a.toNat d.length
    have hrun : Runs (.memWrite h a d []) s h slot 0x0303 .ok [] fun t => (t.write a.toNat d).noteHost (hctx h) a.toNat d.length :=
      .of_ctx rfl hr (by simpa [h4, hlen] using hc) rfl
    refine ⟨_, hrun, State.mem_answer_out_of_kcp (kcpNext_of_ctxReady hr) hkcp .., ?_⟩
    simpa [hmem, hfences, harrays] using ⟨hbytes, hother⟩
  case read =>
    intro h a n s slot hr hlo hhi h4 hp hc
    have hrun : Runs (.memRead h a n []) s h slot 0x0304 .ok (s.mem.read a.toNat n.toNat) fun t => t.noteReads [(a.toNat, n.toNat)] :=
      .of_ctx rfl hr (by simpa [hp, h4, hlo, hhi] using hc) (by simp [done, State.parityErrors])
    refine ⟨_, hrun, State.mem_answer_out_of_kcp (t := (s.take slot h).noteReads _) (kcpNext_of_ctxReady hr) rfl .., ?_⟩
    simp [State.noteReads]
  case fill =>
    intro h a n p s slot hr hc hwf h4
    obtain ⟨-, -, -, hbytes, hother⟩ := Mem.write_spec hwf a.toNat (fillBytes p n.toNat)
    obtain ⟨hmem, hfences, -, hkcp⟩ := ((s.take slot h).write a.toNat (fillBytes p n.toNat)).noteHost_spec (hctx h) a.toNat n.toNat
    have hrun : Runs (.memFill h a n p 0xFFFF) s h slot 0x0305 .accepted []
        fun t => (t.write a.toNat (fillBytes p n.toNat)).noteHost (hctx h) a.toNat n.toNat :=
      .of_ctx rfl hr (by simpa using hc) rfl
    simp only [fillBytes_length] at hbytes hother
    refine ⟨_, hrun, State.mem_answer_out_of_kcp (kcpNext_of_ctxReady hr) hkcp .., ?_⟩
    simpa [hmem, hfences] using ⟨fun i hi => hbytes i _ (fillBytes_getElem? hi), hother⟩
  case fillFence =>
    intro h a n p f s slot hr hc hh hf
    exact .of_ctx rfl hr (by simpa [hh] using hc) rfl (ha := by funext s; exact if_neg hf)

/-- Settles O39: one execution per command and event. -/
theorem cisternRun : Obligations.CisternRun := by
  unfold Obligations.CisternRun
  refine ⟨fun h s slot hr => .of_ctx rfl hr (by simp) rfl, fun c k s hf hk hfirst => congrArg _ (onlyIf_of (by rw [hf, hk, hfirst]; rfl) ..), ?shard⟩
  intro h l e fb age b1 b2 i s slot hr hi h1 h2
  exact .of_ctx rfl hr (by simp [hi, settled_of_mem (ctxReady_state hr)]; exact ⟨h1, h2⟩) (by simp [hi, done])

/-- Refutes O40: the last clause says that unloading leaves all of memory, but the accumulation buffers that the load placed in the Reservoir
are released with the program (R212, R338). Witness: one such buffer of context 0. -/
theorem not_programCommandsRun : ¬ Obligations.ProgramCommandsRun := by
  unfold Obligations.ProgramCommandsRun
  rintro ⟨-, -, -, -, -, -, hdropped⟩
  obtain ⟨-, -, -, -, -, hmem, -⟩ := hdropped { State.reset with mem := { placed := [{ ctx := 0, base := 0, bytes := 4, share := 4, shares := [], start := 0 }] } } 0
  exact absurd (congrArg (fun m : Mem => m.placed.length) hmem) (by decide)

/-- Settles O42: one execution per command. -/
theorem fenceCommandsRun : Obligations.FenceCommandsRun := by
  unfold Obligations.FenceCommandsRun
  refine ⟨?signal, ?query, ?notify, fun s f inc x hx hz => State.signal_frozen inc hx hz⟩
  case signal =>
    intro h f inc x s slot hr h0 hinc hf hx ho hz
    have hspoke := State.spoke_signal (s := s.take slot h) inc (by simpa using hx) hz
    have hfences : ((s.take slot h).signal f.toNat inc).fences = Tab.put s.fences f.toNat { x with value := x.value + inc } := by
      simpa using hspoke.fences
    have hrun : Runs (.fenceSignal h f inc) s h slot 0x0504 .ok (be 4 (x.value + inc).toNat) fun t => t.signal f.toNat inc :=
      .of_ctx rfl hr (by simpa [fenceCheck, State.holds_of_find hx ho, hf] using ⟨h0, hinc⟩) (by simp [done, State.fenceAt, hfences])
    refine ⟨_, hrun, State.mem_answer_out ?_ .., ?_⟩
    · rw [hspoke.hp]
      exact (State.take_hp s slot h _).symm ▸ (State.kcpUp_of_kcpNext (kcpNext_of_ctxReady hr)).1
    · simp only [State.answer_fences, State.answer_mem, State.answer_ctxs, hfences, hspoke.mem, hspoke.ctxs]
      exact ⟨Tab.find?_put .., fun g hg => Tab.find?_put_ne _ _ hg, by simp, by simp⟩
  case query =>
    intro h f x s slot hr hf hx ho
    exact .of_ctx rfl hr (by simpa [fenceCheck, State.holds_of_find hx ho] using hf) (by simp [State.fenceAt_of_find hx, done])
  case notify =>
    intro h f tg x y s slot hr hf hx ho hreach hslot hy hid hlt
    have htake := State.take_of_session hy h
    have hyt : (s.take slot h).session? slot = some { y with expected := y.expected + 1, port := h.port, held := y.held.filter fun e => e.1 ≠ h.sequence } := by
      rw [htake, State.setSession_session?]
    have hslott : (s.take slot h).slotOf h.session = some slot := by
      rw [htake]
      exact State.slotOf_setSession hslot hy rfl
    have hpass : fenceReached ((s.take slot h).fenceAt f.toNat).value tg = false := by
      rw [State.take_fenceAt, State.fenceAt_of_find hx, hreach]
    rw [exec_fenceNotify, execFenceNotify, KcpCmd.arrive_ctx_mk _ h s slot _ hr (by decide) (by decide)
      (by simpa [fenceCheck, State.holds_of_find hx ho, hf, hslott, hyt] using hlt)]
    simp only [done, hslott, hyt, hpass, Bool.false_eq_true, if_false]
    rw [State.answer_of_session (State.setSession_session? ..)]
    rw [if_neg (by simp [State.fenceAt] at hpass ⊢; exact hpass)]
    refine ⟨_, _, rfl, State.mem_sendReply_out ?_, by rw [State.sendReply_session?, State.setSession_session?], rfl, by simp, by simp, by simp⟩
    rw [(State.spoke_setSession _ _ _).hp, (State.spoke_setSession _ _ _).hp, State.take_hp]
    exact (State.kcpUp_of_kcpNext (kcpNext_of_ctxReady hr)).1

end Sys2Proof.Proofs

namespace Sys2Proof.Machine

open Sys2Proof

/-! ### Steps (R19, R344, R349 to R351) -/

/-- What of a context decides its steps: its state, the last step started, the steps left to run, and the step counter. -/
def Ctx.stepping (x : Ctx) : CtxState × Nat × W32 × W64 := (x.state, x.started, x.runLeft, x.step)

/-- A change of a context that leaves its steps. -/
theorem State.onCtx_stepping (s : State) (c d : Nat) {f : Ctx → Ctx} (hf : ∀ x : Ctx, (f x).stepping = x.stepping) :
    ((s.onCtx c f).ctx d).stepping = (s.ctx d).stepping := by
  rw [State.onCtx_ctx]
  split
  · next h => rw [h, hf]
  · rfl

/-- Submitting grids leaves the context's steps, memory, the fences and every other context. -/
theorem State.submitFuel_spec (fuel : Nat) (s : State) (c : Nat) :
    let t := State.submitFuel fuel s c
    (t.ctx c).stepping = (s.ctx c).stepping ∧ t.mem = s.mem ∧ t.fences = s.fences ∧ ∀ d, d ≠ c → t.ctx d = s.ctx d := by
  induction fuel generalizing s with
  | zero => exact ⟨rfl, rfl, rfl, fun _ _ => rfl⟩
  | succ k ih =>
    unfold State.submitFuel
    dsimp only
    split
    · exact ⟨rfl, rfl, rfl, fun _ _ => rfl⟩
    · split
      · exact ⟨rfl, rfl, rfl, fun _ _ => rfl⟩
      · split
        · exact ⟨rfl, rfl, rfl, fun _ _ => rfl⟩
        · next p _ _ g _ _ =>
          obtain ⟨hstep, hmem, hfences, hother⟩ := ih ((s.submit c (p.baseSlot + (s.ctx c).nextGrid) g (some (s.ctx c).started)).onCtx c
            fun y => { y with nextGrid := y.nextGrid + 1 })
          refine ⟨?_, hmem, hfences, fun d hd => ?_⟩
          · rw [hstep, State.onCtx_stepping, State.submit, State.onCtx_stepping]
            · exact fun _ => rfl
            · exact fun _ => rfl
          · rw [hother d hd, State.onCtx_ctx, if_neg hd]
            exact (s.onCtx_ctx c d _).trans (if_neg hd)

theorem State.submitGrids_spec (s : State) (c : Nat) :
    let t := s.submitGrids c
    (t.ctx c).stepping = (s.ctx c).stepping ∧ t.mem = s.mem ∧ t.fences = s.fences ∧ ∀ d, d ≠ c → t.ctx d = s.ctx d := by
  unfold State.submitGrids
  dsimp only
  split
  · exact State.submitFuel_spec _ s c
  · exact ⟨rfl, rfl, rfl, fun _ _ => rfl⟩

/-- Resetting roots changes memory alone. -/
theorem State.resetRoots_keeps {α : Type} (g : State → α) (hg : ∀ (u : State) m, g { u with mem := m } = g u) (s : State) (c n : Nat) :
    g (s.resetRoots c n) = g s := by
  unfold State.resetRoots
  split
  · rfl
  · refine foldl_keeps g (fun u x => ?_) _ s
    dsimp only
    split
    · rfl
    · refine foldl_keeps g (fun u k => ?_) _ u
      split
      · exact hg _ _
      · rfl

/-- Scheduling refreshes changes the statistics of the context alone. -/
theorem State.scheduleDue_keeps {α : Type} (g : State → α) (s : State) (c : Nat)
    (hg : ∀ (u : State) (f : Ctx → Ctx), (∀ x, (f x).stepping = x.stepping ∧ (f x).folds = x.folds ∧ (f x).holdStep = x.holdStep) → g (u.onCtx c f) = g u) :
    g (s.scheduleDue c) = g s := by
  unfold State.scheduleDue
  dsimp only
  split
  · rfl
  · refine foldl_keeps g (fun u i => ?_) _ s
    unfold State.scheduleRefreshes
    split
    · rfl
    · exact hg _ _ fun _ => ⟨rfl, rfl, rfl⟩

theorem State.onFolds_stepping (s : State) (c : Nat) (f : Folds → Folds) : ((s.onFolds c f).ctx c).stepping = (s.ctx c).stepping :=
  s.onCtx_stepping c c fun _ => rfl

theorem State.copyLabel_stepping (s : State) (c : Nat) (q : Plan) (u : Rec) (b n : Nat) :
    ((s.copyLabel c q u b n).ctx c).stepping = (s.ctx c).stepping := by
  unfold State.copyLabel
  dsimp only
  split
  · rfl
  · exact s.onFolds_stepping c _

/-- Entering HELD leaves the context HELD with nothing left to run (R351). -/
theorem State.enterHeld_spec (s : State) (c : Nat) : ((s.enterHeld c).ctx c).state = .held ∧ ((s.enterHeld c).ctx c).runLeft = 0 := by
  have hstep : ((s.enterHeld c).ctx c).stepping = ((s.onCtx c fun x => { x with state := .held, holdStep := none, runLeft := 0 }).ctx c).stepping := by
    unfold State.enterHeld
    dsimp only
    split
    rw [State.notify_ctx]
    all_goals
      split
      · rfl
      · refine foldl_keeps (fun v : State => (v.ctx c).stepping) (fun v t => ?_) _ _
        split
        · rfl
        · exact foldl_keeps (fun v : State => (v.ctx c).stepping) (fun v i => v.copyLabel_stepping c _ _ _ _) _ v
  rw [State.onCtx_ctx, if_pos rfl] at hstep
  simp only [Ctx.stepping, Prod.mk.injEq] at hstep
  exact ⟨hstep.1, hstep.2.2.1⟩

/-- What of a context and the fences a boundary leaves before a hold is looked at, and the context's steps (R19). -/
theorem State.closeStep_spec (s : State) (c n : Nat) :
    let t := ((s.resetRoots c n).onCtx c fun x => x.closeStep n).scheduleDue c
    (t.ctx c).stepping = ((s.ctx c).state, (s.ctx c).started, (s.ctx c).runLeft, BitVec.ofNat 64 n) ∧ (t.ctx c).folds = (s.ctx c).folds ∧
      (t.ctx c).holdStep = (s.ctx c).holdStep ∧ t.fences = s.fences := by
  have hroots : (s.resetRoots c n).ctx c = s.ctx c := State.resetRoots_keeps (fun u => u.ctx c) (fun _ _ => rfl) s c n
  have hclosed : ((s.resetRoots c n).onCtx c fun x => x.closeStep n).ctx c = (s.ctx c).closeStep n := by
    rw [State.onCtx_ctx, if_pos rfl, hroots]
  refine ⟨?_, ?_, ?_, ?_⟩
  · rw [State.scheduleDue_keeps (fun u => (u.ctx c).stepping) _ c fun u f hf => u.onCtx_stepping c c fun x => (hf x).1, hclosed]
    rfl
  · rw [State.scheduleDue_keeps (fun u => (u.ctx c).folds) _ c fun u f hf => by rw [State.onCtx_ctx, if_pos rfl, (hf _).2.1], hclosed]
    rfl
  · rw [State.scheduleDue_keeps (fun u => (u.ctx c).holdStep) _ c fun u f hf => by rw [State.onCtx_ctx, if_pos rfl, (hf _).2.2], hclosed]
    rfl
  · rw [State.scheduleDue_keeps State.fences _ c fun _ _ _ => rfl]
    exact State.resetRoots_keeps State.fences (fun _ _ => rfl) s c n

end Sys2Proof.Machine

namespace Sys2Proof.Proofs

open Sys2Proof Sys2Proof.Machine

/-- Settles O44: what submitting, scheduling and holding leave, step by step. -/
theorem stepEventsRun : Obligations.StepEventsRun := by
  unfold Obligations.StepEventsRun
  refine ⟨?start, ?boundary, ?held, ?complete, ?task⟩
  case start =>
    intro c s hm
    refine exists_of_onlyIf rfl hm ?_
    obtain ⟨hstep, hmem, hfences, hother⟩ := State.submitGrids_spec (s.onCtx c fun x =>
      { x with started := x.started + 1, runLeft := x.runLeft - 1, nextGrid := 0, state := if x.runLeft = 1 then .holding else x.state
               holdStep := if x.runLeft = 1 then some (x.started + 1) else x.holdStep
               folds := { x.folds with checkDue := x.folds.checkDue + s.checksPerStep c } }) c
    rw [State.onCtx_ctx, if_pos rfl] at hstep
    simp only [Ctx.stepping, Prod.mk.injEq] at hstep
    obtain ⟨hstate, hstarted, hrun, hcount⟩ := hstep
    exact ⟨hstarted, hrun, hstate, hcount, hmem, hfences, fun d hd => (hother d hd).trans ((s.onCtx_ctx c d _).trans (if_neg hd))⟩
  case boundary =>
    intro c s hb hs hh
    obtain ⟨hstep, hfolds, -, hfences⟩ := s.closeStep_spec c ((s.ctx c).step.toNat + 1)
    simp only [Ctx.stepping, Prod.mk.injEq] at hstep
    obtain ⟨hstate, hstarted, -, hcount⟩ := hstep
    refine exists_of_onlyIf rfl hb ?_
    simp only [hfolds, hh, Bool.false_eq_true, if_false, hstate, hs]
    exact ⟨hcount, hstate.trans hs, hstarted, hfences⟩
  case held =>
    intro c k s hb hs hh hk hle
    obtain ⟨hstep, hfolds, hhold, -⟩ := s.closeStep_spec c ((s.ctx c).step.toNat + 1)
    simp only [Ctx.stepping, Prod.mk.injEq] at hstep
    refine exists_of_onlyIf rfl hb ?_
    simp only [hfolds, hh, Bool.false_eq_true, if_false, hstep.1, hs, hhold, hk]
    rw [if_pos (by simpa using hle)]
    exact State.enterHeld_spec _ c
  case complete =>
    intro c slot task g s hcolls hearly hg he ht
    have hpoll : s.pollColls = s := by simp [State.pollColls, State.drainEarly, hcolls, hearly]
    simp only [exec_taskComplete, execTaskComplete, State.taskComplete, hpoll, hg, he, ht]
    cases hk : g.kind with
    | none => simp
    | some k => cases k <;> simp
  case task =>
    intro s c slot task g hg hd hlt h58 hmore
    have hd' : task ∉ g.done := by simpa using hd
    simp [State.completeTask, hg, hd', hlt, h58, hmore, State.signalIf]

end Sys2Proof.Proofs

namespace Sys2Proof.Machine

open Sys2Proof

/-! ### Resident Solve (R184 to R190) -/

@[simp] theorem State.take_struct? (s : State) (slot : Nat) (h : KcpHdr) (c : Nat) (hd : W16) : (s.take slot h).struct? c hd = s.struct? c hd := by
  simp [State.struct?]

@[simp] theorem State.take_badBuffer (s : State) (slot : Nat) (h : KcpHdr) (c : Nat) (a : W64) (n : Nat) :
    badBuffer (s.take slot h) c a n = badBuffer s c a n := by
  simp [badBuffer]

@[simp] theorem State.take_badFence (s : State) (slot : Nat) (h : KcpHdr) (c : Nat) (f : W16) : badFence (s.take slot h) c f = badFence s c f := by
  simp [badFence]

@[simp] theorem State.take_rsCreateChecks (s : State) (slot : Nat) (h : KcpHdr) (c : Nat) (order n : W32) (p b k : W64) (d : W32) (m : BitVec 8) :
    rsCreateChecks c order n p b k d m (s.take slot h) = rsCreateChecks c order n p b k d m s := by
  have hw : (s.take slot h).workspaceFree = s.workspaceFree := by
    simp [State.workspaceFree, State.rootsHeld, State.reservoirRegions]
  simp [rsCreateChecks, hw]

@[simp] theorem State.take_freeHandle (s : State) (slot : Nat) (h : KcpHdr) : (s.take slot h).freeHandle = s.freeHandle := by
  simp [State.freeHandle]

/-! ### Root Engines (R159 to R182) -/

@[simp] theorem State.take_factorOf (s : State) (slot : Nat) (h : KcpHdr) (c l e sd b : Nat) :
    (s.take slot h).factorOf c l e sd b = s.factorOf c l e sd b := by
  simp [State.factorOf]

/-- After the handling of a fault the engine is not halted, and in service as its test says; memory stays. -/
theorem State.rteFault_spec {s : State} {n : Nat} (h : (s.rte n).inService = true) (b : Bool) :
    let t := s.rteFault n b
    (t.rte n).halted = false ∧ (t.rte n).inService = b ∧ t.mem = s.mem := by
  unfold State.rteFault
  simp only [h, Bool.not_true, Bool.false_eq_true, if_false]
  generalize nextEngine _ n = m
  by_cases hm : n = m
  · subst hm
    cases b <;> simp [State.rte, Tab.get_put_of]
  · cases b <;> simp [State.rte, Tab.get_put_of, hm]

end Sys2Proof.Machine

namespace Sys2Proof.Proofs

open Sys2Proof Sys2Proof.Machine

/-- Settles O45: one execution per command and event. -/
theorem residentRun : Obligations.ResidentRun := by
  unfold Obligations.ResidentRun
  refine ⟨?create, ?destroy, ?feed, ?factor, ?solve, ?query, ?resident, ?complete⟩
  case create =>
    intro h order nblk p b k d m s slot hr hc
    exact .of_ctx rfl hr (by simpa using hc) (by simp [done])
  case destroy =>
    intro h hd r s slot hr hs hw
    exact .of_ctx rfl hr (by simp [hs, hw]) rfl
  case feed =>
    intro h hd n a r ds m q s slot hr hs hb hp hds hf
    exact .of_ctx rfl hr (by simp [hs, hb, hp]) (by simp [hs, hds, hf, done])
  case factor =>
    intro h hd fence st r s slot hr hs hf hb hg
    exact .of_ctx rfl hr (by simpa [hs, hf, hb] using hg) (by simp [hs, accepted])
  case solve =>
    intro h hd flags fence nrhs b x st r s slot hr hs hflags h0 hn hf hb hx hst hg hgen
    have hready : flags = 0 → r.factorGen = some r.gen := by
      rintro rfl
      exact hgen.resolve_left (by decide)
    refine .of_ctx rfl hr ?_ (by simp [hs, accepted])
    simp only [State.take_struct?, hs, State.take_badFence, State.take_badBuffer, hf, hst, Option.map_some, Option.getD_some, hb, hx]
    simpa using ⟨⟨⟨hflags, h0⟩, hn⟩, hg, hready⟩
  case query =>
    intro h hd r s slot hr hs
    exact .of_ctx rfl hr (by simp [hs]) (by simp [hs, done])
  case resident =>
    intro hd r g s hs hl hst hrun
    simp [execRsGenerationResident, hs, hl, hst, hrun, whenReady, Option.filter]
  case complete =>
    intro hd r w ws s hs hw hops hp hf
    simp [execRsWorkComplete, State.workComplete, hs, hw, hops, hp, hf]

/-- Settles O46: one execution per command and event. -/
theorem rootEnginesRun : Obligations.RootEnginesRun := by
  unfold Obligations.RootEnginesRun
  refine ⟨?config, ?query, ?publish, ?start, ?drain, ?fault⟩
  case config =>
    intro h w0 w1 w2 w3 s slot hr hw
    exact .of_ctx rfl hr (by simp [hw, settled_of_mem (ctxReady_state hr)]) rfl
  case query =>
    intro h l e sd b d s slot hr hd
    have hst := ctxReady_state hr
    refine .of_ctx rfl hr ?_ (by simp [hd, done])
    simp only [List.mem_cons, List.not_mem_nil, or_false] at hst
    rcases hst with hst | hst <;> simp [hd, hst]
  case publish =>
    intro n x s hx hw
    simp [execRootPublish, hx, hw, whenReady, State.guarded]
  case start =>
    intro n s hr hj
    refine ⟨fun j js h => ?_, fun x h hx => ?_⟩
    · simp [execRteJobStart, State.rteJobStart, hr, hj, h]
    · simp [execRteJobStart, State.rteJobStart, hr, hj, h, hx]
  case drain =>
    intro n j s hj hr hp
    refine ⟨fun h => ?_, fun h => ?_, fun h => ?_⟩ <;> simp [execRteProductDrain, State.productDrain, hj, hr, hp, h]
  case fault =>
    intro n b s hf hs
    exact exists_of_onlyIf rfl hf (State.rteFault_spec hs b)

end Sys2Proof.Proofs

namespace Sys2Proof.Machine

open Sys2Proof

/-! ### Telemetry (R246, R289, R330) -/

/-- Taking a command leaves what the counter blocks show. -/
@[simp] theorem State.take_counterBlock (s : State) (slot : Nat) (h : KcpHdr) (c b u : Nat) :
    (s.take slot h).counterBlock c b u = s.counterBlock c b u := by
  obtain ⟨hd, hc, hu⟩ := s.take_kcpCounters slot h
  unfold State.counterBlock
  simp [hd, hc, hu, State.array, State.rte, State.fuu, State.port, State.ctx]

@[simp] theorem State.take_tableEntry (s : State) (slot : Nat) (h : KcpHdr) (c k i : Nat) :
    (s.take slot h).tableEntry c k i = s.tableEntry c k i := by
  obtain ⟨_, _, ht⟩ := s.spoke_take slot h
  rw [ht]
  rfl

@[simp] theorem State.take_tableSize (s : State) (slot : Nat) (h : KcpHdr) (c k : Nat) : (s.take slot h).tableSize c k = s.tableSize c k := by
  obtain ⟨_, _, ht⟩ := s.spoke_take slot h
  rw [ht]
  rfl

/-- A register read shows the same word whether the command has been taken or not. -/
@[simp] theorem State.take_latchTime_regWord (s : State) (slot : Nat) (h : KcpHdr) (a n w : Nat) :
    ((s.take slot h).latchTime a n).regWord w = (s.latchTime a n).regWord w := by
  obtain ⟨_, _, ht⟩ := s.spoke_take slot h
  rw [ht]
  unfold State.latchTime
  split <;> rfl

/-! ### Recovery (R384, R385) -/

@[simp] theorem State.take_loadChecks (s : State) (slot : Nat) (h k : KcpHdr) (d : W64) (n : W16) :
    loadChecks k d n (s.take slot h) = loadChecks k d n s := by
  simp [loadChecks]

@[simp] theorem State.take_badSlots (s : State) (slot : Nat) (h : KcpHdr) (q : Plan) : (s.take slot h).badSlots q = s.badSlots q := by
  simp [State.badSlots]

theorem State.program_of_plan {s : State} {c : Nat} {q : Plan} (h : s.plan c = some q) : (s.ctx c).program = some q.p := by
  simp only [State.plan, Option.map_eq_some_iff] at h
  obtain ⟨p, hp, rfl⟩ := h
  exact hp

end Sys2Proof.Machine

namespace Sys2Proof.Proofs

open Sys2Proof Sys2Proof.Machine

/-- Settles O47: one execution per command, and the state that a saturated counter leaves. -/
theorem telemetryRun : Obligations.TelemetryRun := by
  unfold Obligations.TelemetryRun
  refine ⟨?counters, ?regRead, ?regClear, ?capture, ?arm, ?table, ?idle, ?idleClear, ?saturated⟩
  case counters =>
    intro h b u i n s slot hb hu hn hr
    cases hc : counterOfCtx b.toNat with
    | false => simpa using exec_counterRead_ok (by simpa [hc] using hr) hc hu hn
    | true =>
      rw [hc, if_pos rfl] at hr
      exact .of_ctx rfl hr (by simp [hb, hu, hn]) (by simp [done]) (hn := by simp [hc])
  case regRead =>
    intro h a n s slot hr h0 hn hb
    exact .of_ctx rfl hr (by simpa [hn, hb] using h0) (by simp [done])
  case regClear =>
    intro h a m s slot hr hb hm
    exact .of_ctx rfl hr (by simp [hb, hm]) rfl
  case capture =>
    intro h s slot hr
    exact .of_ctx rfl hr (by simp) (by simp [done])
  case arm =>
    intro h s slot hr
    exact .of_ctx rfl hr (by simp) rfl
  case table =>
    intro h k n i s slot hr hk h0 hn hsz hp
    refine .of_ctx rfl hr ?_ (by simp [done])
    simpa [hk, hn, hsz, Option.isSome_iff_ne_none] using ⟨h0, hp⟩
  case idle =>
    intro h s slot hr
    exact .of_ctx rfl hr (by simp) (by simp [done])
  case idleClear =>
    intro h m s slot hr
    exact .of_ctx rfl hr (by simp) rfl
  case saturated =>
    intro c k s hf hs
    refine exists_of_onlyIf rfl (by simp [hf, hs]) ⟨?_, ?_, ?_, ?_, ?_⟩
    · simp [State.saturateIdle, State.onCtx_ctx]
    · have hbit : (BitVec.ofNat 16 (2 ^ k.val)).getLsbD k.val = true := by
        rw [BitVec.getLsbD_ofNat, Nat.testBit_two_pow_self, Bool.and_true, decide_eq_true_eq]
        omega
      simp only [State.saturateIdle, State.raise_ctx, State.onCtx_ctx, if_pos, BitVec.getLsbD_or, hbit, Bool.or_true]
    · simp [State.saturateIdle]
    · simp [State.saturateIdle]
    · intro d hd
      simp [State.saturateIdle, State.onCtx_ctx, hd]

/-- Settles O48: one execution per command. -/
theorem recoveryCommandsRun : Obligations.RecoveryCommandsRun := by
  unfold Obligations.RecoveryCommandsRun
  refine ⟨?begin, ?point, ?load, ?rebuild, ?digest, ?divergence⟩
  case begin =>
    intro h s slot hr
    exact .of_ctx rfl hr (by simp) rfl
  case point =>
    intro h n q s slot hr hp hq hn hl
    have hst := ctxReady_state hr
    have hprog := State.program_of_plan hp
    refine .of_ctx rfl hr ?_ (by simp [hp, done])
    simp only [List.mem_singleton] at hst
    simp [hp, hq, hst, hprog, hn]
    omega
  case load =>
    intro h d n p f s slot hr hf hc
    refine .of_ctx rfl hr ?_ rfl
    simpa [hf] using hc
  case rebuild =>
    intro h s slot hr
    exact .of_ctx rfl hr (by simp) (by simp [done])
  case digest =>
    intro h l d s slot hr hd
    exact .of_ctx rfl hr (by simp [hd]) (by simp [hd, done])
  case divergence =>
    intro h d ds s slot hr hd
    exact .of_ctx rfl hr (by simp) (by simp [hd, done])

end Sys2Proof.Proofs

namespace Sys2Proof.Machine

open Sys2Proof

/-! ### Purges (R362 to R364) -/

@[simp] theorem State.restoreShard_boot (s : State) (c : Nat) (q : Plan) (t : Shard) : (s.restoreShard c q t).boot = s.boot := by
  unfold State.restoreShard
  split
  · rfl
  · refine foldl_keeps State.boot (fun s e => ?_) _ s
    dsimp only
    split <;> rfl

@[simp] theorem State.undoUpdates_boot (s : State) (c : Nat) : (s.undoUpdates c).boot = s.boot := by
  unfold State.undoUpdates
  dsimp only
  split
  · exact foldl_keeps State.boot (fun s t => s.restoreShard_boot ..) _ s
  · rfl

/-- What the end of a purge leaves of the context: FAULTED, no purge, and the snapshot of the state before. -/
theorem State.endPurge_spec (s : State) (c : Nat) (p : Purge) :
    let t := s.endPurge c p
    (t.ctx c).state = .faulted ∧ (t.ctx c).purge = none ∧ (t.ctx c).snapshot = s.snapImage c p ∧ t.boot = s.boot := by
  have hctx (t : State) (i n : Nat) : (t.countFault i n).ctx c = t.ctx c := rfl
  have hboot : (((s.stopRefreshes c).removeWork c).stopSolves c).boot = s.boot := rfl
  simp [State.endPurge, hctx, hboot, State.onCtx_ctx]

/-- Asking for an engine's reset lists the engine and changes nothing else. -/
theorem State.askEngineReset_spec (s : State) (e : Engine) :
    let t := s.askEngineReset e
    (t.faults.engines.contains e) = true ∧ t.mem = s.mem ∧ ∀ c, t.ctx c = s.ctx c := by
  unfold State.askEngineReset
  split
  · exact ⟨‹_›, rfl, fun _ => rfl⟩
  · exact ⟨by simp, rfl, fun _ => rfl⟩

/-- A unit of a purge that does not answer is noted in the purge, and its reset asked for. -/
theorem State.purgeTimeout_spec {s : State} {c : Nat} {p : Purge} {e : Engine} (ha : p.asked.contains e = true)
    (hh : p.hung.contains e = false) (hl : p.late.contains e = false) (late : Bool) :
    let t := s.purgeTimeout c p e late
    (t.ctx c).state = (s.ctx c).state ∧
      (t.ctx c).purge = some (if late then { p with late := p.late ++ [e] } else { p with hung := p.hung ++ [e] }) ∧
      t.faults.engines.contains e = true ∧ t.mem = s.mem := by
  unfold State.purgeTimeout
  simp only [ha, hh, hl, Bool.not_true, Bool.or_self, Bool.false_eq_true, if_false]
  generalize hu : State.onCtx _ c _ = u
  obtain ⟨he, hm, hx⟩ := u.askEngineReset_spec e
  have hu' : (u.ctx c).state = (s.ctx c).state ∧
      (u.ctx c).purge = some (if late then { p with late := p.late ++ [e] } else { p with hung := p.hung ++ [e] }) ∧ u.mem = s.mem := by
    subst hu
    split <;> simp [State.onCtx_ctx]
  simpa only [hx, hm, he, true_and] using hu'

end Sys2Proof.Machine

namespace Sys2Proof.Proofs

open Sys2Proof Sys2Proof.Machine

/-- Settles O50: a purge ends, a unit is noted, and an engine is back. -/
theorem purgeEventsRun : Obligations.PurgeEventsRun := by
  unfold Obligations.PurgeEventsRun
  refine ⟨?purged, ?timeout, ?reset⟩
  case purged =>
    intro c p s hst hcore hp hany hpass
    have hrun : exec (.contextPurged c) s = .next (s.endPurge c.val p) := by
      refine congrArg _ ((onlyIf_of (by simp [hst, hcore]) ..).trans ?_)
      simp only [hp, whenReady, hpass, hany, Bool.or_self, Bool.false_eq_true, if_false]
    exact ⟨_, hrun, s.endPurge_spec c p⟩
  case timeout =>
    intro c e late p s hst hcore hp ha hh hl
    have hrun : exec (.purgeUnitTimeout c e late) s = .next (s.purgeTimeout c.val p e late) := by
      refine congrArg _ ((onlyIf_of (by simp [hst, hcore]) ..).trans ?_)
      simp only [hp, whenReady]
    obtain ⟨hs, hrest⟩ := State.purgeTimeout_spec (s := s) (c := c.val) ha hh hl late
    exact ⟨_, hrun, hs.trans hst, hrest⟩
  case reset =>
    intro e us s he hcore
    exact congrArg _ (onlyIf_of (by simpa [hcore] using he) ..)

end Sys2Proof.Proofs

namespace Sys2Proof.Machine

open Sys2Proof

/-! ### Frames at their port (R251 to R256, R261) -/

/-- A frame in form that is next in the hop sequence of a port that is up is taken with the port's books kept. -/
theorem State.hopReceive_next {s : State} {f : FrameHdr} (n : Nat) (take : State → State) (hup : (s.port f.port.val).state = .up)
    (hc : s.carriesFrames = true) (he : f.etype = s.fabric.etype) (hm : f.dstMac = s.portMac f.port.val) (hv : f.ver = 1)
    (hs : f.hopSeq = ((s.hopAcked f.port.val f.hopAck).port f.port.val).hopRx) : s.hopReceive f n take = take (s.hopBooks f n) := by
  unfold State.hopReceive
  simp only [hup, hc, he, hm, hv, hs, ne_eq, not_true_eq_false, decide_false, Bool.not_true, Bool.or_self, Bool.false_eq_true, if_false, if_true]
  rfl

/-- A frame in form for this module is handled after its books. -/
theorem State.frameIn_here {s : State} {f : FrameHdr} {op : Byte} {cls : Nat} {p : List Byte} (h : frameHere s f op cls p.length = true)
    (here : State → State) {bad : Bool} (hb : bad = false := by rfl) : s.frameIn f op cls p here bad = here (s.frameBooks f p.length) := by
  simp only [frameHere, Bool.and_eq_true, Bool.not_eq_true', decide_eq_true_eq] at h
  obtain ⟨⟨⟨⟨⟨⟨⟨⟨⟨⟨⟨hup, hc⟩, harg⟩, he⟩, hm⟩, hv⟩, hres⟩, htc⟩, hvc⟩, hn⟩, hs⟩, hd⟩ := h
  rw [State.frameIn, State.hopReceive_next _ _ hup hc he hm hv hs]
  simp only [hres, hb, harg, hvc, hd, Nat.not_le.mpr htc, Nat.not_lt.mpr hn, decide_false, ne_eq, not_true_eq_false, Bool.or_self, Bool.false_eq_true,
    if_false]
  rfl

/-- A sequenced frame in form, new in its stream and for a context that takes frames has its effect, and its stream's books are kept. -/
theorem State.streamIn_new {s : State} {f : FrameHdr} {op : Byte} {cls : Nat} {p : List Byte} (h : frameHere s f op cls p.length = true)
    (hnew : frameNew s f cls p.length = true) (handle : State → State × RxItem) (also : Ctx → Bool) {bad : Bool}
    (hb : bad = false := by rfl) : s.streamIn f op cls p handle also bad = State.streamBooks f cls (handle (s.frameBooks f p.length)) := by
  simp only [frameNew, Bool.and_eq_true, Bool.not_eq_true', decide_eq_true_eq] at hnew
  obtain ⟨⟨hd, hgot⟩, htakes⟩ := hnew
  rw [State.streamIn, State.frameIn_here h _ hb, State.streamReceive]
  simp only [hgot, htakes, Nat.not_le.mpr hd, Nat.not_le.mpr (hd.trans (show 1024 < 2 ^ 23 by decide)), decide_false, Bool.or_self, Bool.true_or,
    Bool.false_eq_true, if_false, if_true]
  rfl

/-- A link frame in form is taken after the acknowledgement that it carries. -/
theorem State.linkReceive_here {s : State} {f : FrameHdr} {sts : List PortState} (h : linkHere s f sts = true) (take : State → State) :
    s.linkReceive f sts take = take (s.hopAcked f.port.val f.hopAck) := by
  simp only [linkHere, Bool.and_eq_true, Bool.not_eq_true', decide_eq_true_eq] at h
  obtain ⟨⟨⟨⟨hst, he⟩, hm⟩, hv⟩, hres⟩ := h
  simp only [State.linkReceive, hst, he, hm, hv, hres, ne_eq, not_true_eq_false, decide_false, Bool.not_true, Bool.or_self, Bool.false_eq_true, if_false]

/-! ### What a WRITE lands (R263, R286) -/

/-- A program without recovery has no parity group. -/
theorem Program.parityOn_none {p : Program} (h : p.recovery = none) : p.parityOn = none := by
  simp [Program.parityOn, h]

/-- What a payload at an address makes of the acknowledgement words and the digest area, where the context has neither. -/
theorem State.noteParityAck_of_none {s : State} {c : Nat} (h : (s.ctx c).program.bind Program.parityOn = none) (a n : Nat) :
    s.noteParityAck c a n = s := by
  simp [State.noteParityAck, h]

theorem State.noteDigest_of_none {s : State} {c : Nat} (h : (s.ctx c).program.bind (·.recovery) = none) (a : Nat) (bs : List Byte) :
    s.noteDigest c a bs = s := by
  simp [State.noteDigest, h]

/-- Noting a row changes nothing but the fabric's list of rows. -/
theorem State.noteRow_spec (s : State) (c a n : Nat) : (s.noteRow c a n).mem = s.mem ∧ (s.noteRow c a n).ctxs = s.ctxs := by
  unfold State.noteRow
  split
  · exact ⟨rfl, rfl⟩
  · dsimp only
    split <;> exact ⟨rfl, rfl⟩

/-- A payload inside the context's memory, of a context whose program has no recovery, is written at its address. -/
theorem State.landWrite_mem {s : State} {f : FrameHdr} {p : List Byte} (hp : p ≠ []) (hm : f.arg.msb = false)
    (hcov : (s.ctx f.context.val).coversHbm (f.arg.toNat % 2 ^ 48) p.length = true)
    (hrec : ∀ q, (s.ctx f.context.val).program = some q → q.recovery = none) :
    (s.landWrite f p).1.mem = s.mem.write (f.arg.toNat % 2 ^ 48) p ∧ (s.landWrite f p).2 = .plain f.last := by
  have hempty : p.isEmpty = false := by simpa using hp
  unfold State.landWrite
  simp only [hempty, hm, hcov, Bool.not_false, Bool.not_true, Bool.and_false, Bool.false_and, Bool.or_self, Bool.false_eq_true, if_false, and_true]
  generalize f.arg.toNat % 2 ^ 48 = a
  obtain ⟨hmem, hctxs⟩ := (s.write a p).noteRow_spec f.context.val a p.length
  have hctx : ((s.write a p).noteRow f.context.val a p.length).ctx f.context.val = s.ctx f.context.val := by
    rw [State.ctx, hctxs]
    rfl
  have hparity : (((s.write a p).noteRow f.context.val a p.length).ctx f.context.val).program.bind Program.parityOn = none := by
    rw [hctx, Option.bind_eq_none_iff]
    exact fun q hq => Program.parityOn_none (hrec q hq)
  have hdigest : (((s.write a p).noteRow f.context.val a p.length).ctx f.context.val).program.bind (·.recovery) = none := by
    rw [hctx, Option.bind_eq_none_iff]
    exact hrec
  rw [State.noteParityAck_of_none hparity, State.noteDigest_of_none hdigest, hmem]
  rfl

@[simp] theorem readReqBytes_length (q : W64) (n : ReqLength) : (readReqBytes q n).length = 16 := by
  simp [readReqBytes, le]

end Sys2Proof.Machine

namespace Sys2Proof.Proofs

open Sys2Proof Sys2Proof.Machine

/-- Settles O51: `State.streamIn_new` for each frame, and the cases of `State.landWrite`. -/
theorem frameStreamsRun : Obligations.FrameStreamsRun := by
  unfold Obligations.FrameStreamsRun
  refine ⟨?write, ?readResp, ?signal, ?readReq, ?dispatch, ?delta, ?parity, ?coll, ?lands, ?outside, ?fence⟩
  case write =>
    intro f p s h hn
    rw [exec_write, execWrite, State.streamIn_new h hn]
  case readResp =>
    intro f p s h hn
    rw [exec_readResp, execReadResp, State.streamIn_new h hn]
  case signal =>
    intro f s h hn hm ha
    rw [exec_signal, execSignal, State.streamIn_new (p := []) h hn _ _ (by rw [hm, ha]; rfl), List.length_nil]
  case readReq =>
    intro f q n s h hn hcov
    rw [exec_readReq, execReadReq, State.streamIn_new (by simpa using h) (by simpa using hn) _ _ (by simp)]
    simp only [readReqBytes_length, hcov, Bool.not_true, Bool.false_eq_true, if_false]
  case dispatch =>
    intro f p s h hn
    rw [exec_dispatch, execDispatch, State.streamIn_new h hn]
  case delta =>
    intro f p s h hn
    rw [exec_delta, execDelta, State.streamIn_new h hn]
  case parity =>
    intro f p r s h hn t off hr hoff
    rw [exec_parity, execParity, State.streamIn_new h hn, State.landParity, hr]
    simp only [Nat.not_lt.mpr hoff, if_false, t, off]
  case coll =>
    intro f p cut s h hn hcut hop e hstrange t
    rw [exec_coll, execColl, State.streamIn_new h hn]
    simp only [hcut, Option.isNone_some, Bool.false_or, Nat.not_le.mpr hop, if_false, hstrange, Bool.false_eq_true, e, t]
  case lands => exact fun f p s _ hp hcov hm hrec => State.landWrite_mem hp hm hcov hrec
  case outside =>
    intro f p s _ hp hcov
    have hempty : p.isEmpty = false := by simpa using hp
    simp only [State.landWrite, hempty, hcov, Bool.not_false, Bool.and_self, Bool.true_or, if_true]
  case fence =>
    intro f s _ hm hh
    simp [State.landWrite, hm, hh]

/-- Settles O52: `State.frameIn_here` for each control frame, `State.linkReceive_here` for each link frame. -/
theorem controlFramesRun : Obligations.ControlFramesRun := by
  unfold Obligations.ControlFramesRun
  refine ⟨?ack, ?nack, ?route, ?discover, ?hopNak, ?credit, ?linkState⟩
  case ack =>
    intro f s h
    rw [exec_e2eAck, execE2eAck, State.frameIn_here (p := []) h, List.length_nil]
  case nack =>
    intro f s h
    rw [exec_e2eNack, execE2eNack, State.frameIn_here (p := []) h, List.length_nil]
  case route =>
    intro f l a pl k s h hl hp ha
    rw [exec_routeUpdate, execRouteUpdate, State.frameIn_here (p := []) h]
    simp only [List.length_nil, hl, hp, ha, ne_eq, not_true_eq_false, if_false]
  case discover =>
    intro f bs ts s h hb t u
    rw [exec_discover, execDiscover, State.linkReceive_here h]
    simp only [hb, Bool.false_eq_true, if_false]
    exact ⟨fun hup => congrArg _ (if_pos hup), fun hup => congrArg _ (if_neg hup)⟩
  case hopNak =>
    intro f s h ha t
    rw [exec_hopNak, execHopNak, State.linkReceive_here h]
    simp only [Nat.not_le.mpr ha, if_false, t]
  case credit =>
    intro f ks s h hk
    rw [exec_credit, execCredit, State.linkReceive_here h]
    simp only [hk, ne_eq, not_true_eq_false, if_false]
  case linkState =>
    intro f s h ha t u
    rw [exec_linkState, execLinkState, State.linkReceive_here h]
    simp only [Nat.not_le.mpr ha, if_false]
    exact ⟨fun hfar => by rw [if_neg (by simpa using hfar)], fun hfar => by rw [if_pos (by simpa using hfar)]⟩

end Sys2Proof.Proofs

namespace Sys2Proof.Machine

open Sys2Proof

/-! ### Sending while no layout is loaded (R264, R286) -/

/-- Without a layout no frame finds a way. -/
theorem State.forward_of_unlaid {s : State} (h : s.layout? = none) (f : TxFrame) : s.forward f = none := by
  simp [State.forward, h]

/-- Without a layout a stream sends nothing. -/
theorem State.inject_of_unlaid {s : State} (h : s.layout? = none) (cls dst : Nat) : s.inject cls dst = s := by
  have hfwd (x : TxStream) (f : TxFrame) : (s.setTx cls dst x).forward f = none := State.forward_of_unlaid (s := s.setTx cls dst x) h f
  unfold State.inject State.injectFuel
  dsimp only
  split
  · rfl
  · simp [hfwd]

/-- What a state shows of a port that is down, beside memory, contexts and the event log. -/
def State.downBooks (s : State) (p : Nat) : Mem × Tab Ctx × Faults × PortState × BitVec 4 × List TxFrame × List TxFrame :=
  (s.mem, s.ctxs, s.faults, (s.port p).state, (s.port p).lanes, (s.port p).replay, (s.port p).waiting)

theorem State.layout?_of_downBooks {s t : State} {p : Nat} (h : t.downBooks p = s.downBooks p) : t.layout? = s.layout? :=
  congrArg (fun b => b.2.1.findSome? fun e => e.2.program.map fun p => p.layout) h

theorem State.leaveBuffer_downBooks (s : State) (g : TxFrame) (p : Nat) : (s.leaveBuffer g).downBooks p = s.downBooks p := by
  unfold State.leaveBuffer
  split
  · simp only [State.downBooks, State.freeUnitsAt, State.onPort_port, State.onPort_mem, State.onPort_ctxs, State.onPort_faults]
    split
    · subst p
      rfl
    · rfl
  · rfl

theorem State.route_downBooks {s : State} (h : s.layout? = none) (x : Parked) (p : Nat) : (s.route x).downBooks p = s.downBooks p := by
  rw [State.route, State.forward_of_unlaid h]
  rfl

/-- A fold whose every step keeps the books, as long as no layout is loaded, keeps them. -/
theorem State.foldl_downBooks {α : Type} {f : State → α → State} {p : Nat}
    (hf : ∀ s a, s.layout? = none → (f s a).downBooks p = s.downBooks p) (l : List α) {s : State} (h : s.layout? = none) :
    (l.foldl f s).downBooks p = s.downBooks p := by
  induction l generalizing s with
  | nil => rfl
  | cons a l ih => exact (ih ((State.layout?_of_downBooks (hf s a h)).trans h)).trans (hf s a h)

theorem State.resend_downBooks {s : State} (h : s.layout? = none) (cls dst first last p : Nat) :
    (s.resend cls dst first last).downBooks p = s.downBooks p := by
  unfold State.resend
  dsimp only
  generalize List.filter _ _ = gs
  have hroutes : (gs.foldl (fun s g => s.route { frame := { g with age := 0 }, retx := true }) s).downBooks p = s.downBooks p :=
    State.foldl_downBooks (fun s g hs => State.route_downBooks hs _ p) gs h
  rw [State.inject_of_unlaid ((State.layout?_of_downBooks hroutes).trans h), hroutes]

/-- Dropping the frames held at a port keeps the books of every port while no layout is loaded. -/
theorem State.dropHeld_downBooks {s : State} (h : s.layout? = none) (fs : List TxFrame) (p : Nat) : (s.dropHeld fs).downBooks p = s.downBooks p := by
  refine State.foldl_downBooks (fun s g hs => ?_) fs h
  have hl := (State.layout?_of_downBooks (s.leaveBuffer_downBooks g p)).trans hs
  dsimp only
  split_ifs
  · rw [State.route_downBooks hl, State.leaveBuffer_downBooks]
  · rw [State.resend_downBooks hl, State.leaveBuffer_downBooks]
  · rw [State.sendControl, State.route_downBooks hl, State.leaveBuffer_downBooks]

/-- A port that is lost while no layout is loaded: it is down with nothing in it, one event is raised, and memory and the contexts stay. -/
theorem State.losePort_of_unlaid {s : State} {p : Nat} (hd : (s.port p).state ≠ .down) (hr : (s.port p).state ≠ .retired) (hl : s.layout? = none) :
    let t := s.losePort p
    (t.port p).state = .down ∧ (t.port p).lanes = 0 ∧ (t.port p).replay = [] ∧ (t.port p).waiting = [] ∧
      t.faults.nextSeq = s.faults.nextSeq + 1 ∧ t.mem = s.mem ∧ t.ctxs = s.ctxs := by
  unfold State.losePort
  simp only [hd, hr, decide_false, Bool.false_and, Bool.or_self, Bool.false_eq_true, if_false]
  generalize hu : State.forgetBuffer _ p = u
  have hport : (u.port p).state = .down ∧ (u.port p).lanes = 0 ∧ (u.port p).replay = [] ∧ (u.port p).waiting = [] := by
    subst hu
    simp [State.forgetBuffer, State.port, State.setPort, Tab.get, Tab.find?_mapAll]
  have hrest : u.mem = s.mem ∧ u.ctxs = s.ctxs ∧ u.faults = s.faults := by
    subst hu
    exact ⟨rfl, rfl, rfl⟩
  obtain ⟨hmem, hctxs, hfaults⟩ := hrest
  have hlu : u.layout? = none := by rw [State.layout?, hctxs]; exact hl
  simp only [hlu, Option.bind_none]
  generalize (s.port p).replay ++ (s.port p).waiting = fs
  have hb := State.dropHeld_downBooks (s := u.raise 0x11 none (unitPort p) 0 0) (by rw [State.layout?, State.raise_ctxs]; exact hlu) fs p
  simp only [State.downBooks, Prod.mk.injEq, State.raise_mem, State.raise_ctxs, State.raise_port] at hb
  obtain ⟨h1, h2, h3, h4, h5, h6, h7⟩ := hb
  obtain ⟨hstate, hlanes, hreplay, hwaiting⟩ := hport
  refine ⟨h4.trans hstate, h5.trans hlanes, h6.trans hreplay, h7.trans hwaiting, ?_, h1.trans hmem, h2.trans hctxs⟩
  rw [h3, State.raise_nextSeq, hfaults]

/-! ### Ports (R251, R256, R267) -/

/-- The Ethernet header that a port sends follows the contexts' layout, the module's place and the port's record. -/
theorem State.ethHdr_congr {s t : State} {p : Nat} (hc : t.ctxs = s.ctxs) (hp : t.fabric.position = s.fabric.position)
    (he : t.fabric.etype = s.fabric.etype) (hr : (t.port p).record = (s.port p).record) (hf : t.free = s.free) : t.ethHdr p = s.ethHdr p := by
  simp only [State.ethHdr, State.farMac, State.portMac, State.layout?, State.expectedPeer, State.freeWord, hc, hp, he, hr, hf]

/-- With no port lost by its die there is nothing to handle. -/
theorem State.handleLost_of_none {s : State} (h : ∀ q, (s.port q).lost = false) : s.handleLost = s :=
  List.foldl_fixed' (fun p => by simp [h p]) _

/-- Sending the discovery record leaves the port's state and medium, memory and the contexts. -/
theorem State.sendDiscover_spec (s : State) (p : Nat) :
    let t := s.sendDiscover p
    (t.port p).state = (s.port p).state ∧ (t.port p).media = (s.port p).media ∧ t.mem = s.mem ∧ t.ctxs = s.ctxs := by
  unfold State.sendDiscover
  dsimp only
  have hport (t : State) (o : Out) : ((t.emit o).drawn).port p = t.port p := rfl
  simp [State.sendLink, hport, State.onPort_port]

/-- A frame that fails its FCS at a port that is up is counted and answered with a HOP_NAK. -/
theorem State.askReplay_of_up {s : State} {p : Nat} (h : (s.port p).state = .up) :
    let t := s.askReplay p
    (t.port p).fcsErr = (s.port p).fcsErr ∧ (t.port p).nakOut = true ∧ (t.port p).hopRx = (s.port p).hopRx ∧ t.mem = s.mem ∧ t.ctxs = s.ctxs ∧
      .link (BitVec.ofNat 5 p).toFin (s.ethHdr p) 0x30 (s.port p).hopRx ((s.port p).hopRx.setWidth 64) [] ∈ t.out := by
  have hport (t : State) (o : Out) : (t.emit o).port p = t.port p := rfl
  have heth : (s.onPort p fun x => { x with nakOut := true }).ethHdr p = s.ethHdr p :=
    State.ethHdr_congr rfl rfl rfl (by simp [State.onPort_port]) rfl
  simp [State.askReplay, h, State.sendLink, hport, State.onPort_port, heth]

end Sys2Proof.Machine

namespace Sys2Proof.Proofs

open Sys2Proof Sys2Proof.Machine

/-- Settles O53: one execution per event; the loss of a port by `State.losePort_of_unlaid`. -/
theorem portEventsRun : Obligations.PortEventsRun := by
  unfold Obligations.PortEventsRun
  refine ⟨?up, ?unnamed, ?drop, ?readmit, ?lost, ?linkUp, ?share, ?fcs, ?discarded, ?badOp, ?hopAck⟩
  case up =>
    intro p m s hp hb hd hu hlost
    refine exists_of_onlyIf rfl (by simp [hp, hb, hd, hu]) ?_
    have hnone : (s.onPort p.val fun x => { x with media := some m }).handleLost = s.onPort p.val fun x => { x with media := some m } :=
      State.handleLost_of_none fun q => by
        rw [State.onPort_port]
        split
        · exact hlost _
        · exact hlost q
    dsimp only
    rw [hnone]
    by_cases hm : m.kind = .other
    · simp [hm, State.onPort_port, hd]
    · simp only [hm, if_false, false_imp_iff, true_and]
      generalize hu : State.onPort (State.forgetBuffer _ _) _ _ = u
      obtain ⟨hstate, hmedia, hmem, hctxs⟩ := u.sendDiscover_spec p.val
      rw [hstate, hmedia, hmem, hctxs]
      subst hu
      simp [State.forgetBuffer, State.port, Tab.get, Tab.find?_mapAll, State.onPort, State.setPort]
  case unnamed =>
    intro p m s hu
    exact congrArg _ (if_neg (by simp [hu]))
  case drop =>
    intro p l s hup hl
    exact congrArg _ (onlyIf_of (by simp [hup, hl]) ..)
  case readmit =>
    intro p l s hup hl ht
    have hall : ((s.port p.val).readmit.all fun t => decide (t + 1000000000 ≤ s.upNs)) = true := by
      simpa [Option.all_eq_true] using ht
    exact congrArg _ (onlyIf_of (by simp only [hup, hl, hall]; rfl) ..)
  case lost =>
    intro p s hst hl
    exact ⟨_, rfl, rfl, State.losePort_of_unlaid (by grind) (by grind) hl⟩
  case linkUp =>
    intro a k l pl s hl hk hw hd
    have hends : ([true, false].any fun plus => s.linkLower l a plus = k.val && !(s.workingPorts l a plus).isEmpty) = true :=
      List.any_eq_true.mpr ⟨pl, by cases pl <;> simp, by simp [hk, hw]⟩
    rw [exec_linkUp, execLinkUp]
    simp only [hl, hends, hd, Bool.and_self, Bool.not_true, Bool.false_eq_true, if_false]
  case share =>
    intro p v s hd
    refine ⟨fun hall hsum => congrArg _ ((onlyIf_of (by simp [hd]) ..).trans ?_), fun hsum => congrArg _ ((onlyIf_of (by simp [hd]) ..).trans ?_)⟩
    · simp only [hall, hsum, decide_true, Bool.and_self, if_true]
    · simp only [hsum, decide_false, Bool.and_false, Bool.false_eq_true, if_false]
  case fcs =>
    intro p s hup
    refine exists_of_onlyIf rfl (by simp [hup]) ?_
    dsimp only
    generalize hu : State.stuck _ _ _ _ = u
    have hport : u.port p.val = { s.port p.val with fcsErr := stick (s.port p.val).fcsErr } := by
      subst hu
      simp [State.onPort_port]
    have heth : u.ethHdr p.val = s.ethHdr p.val := by
      refine State.ethHdr_congr ?_ ?_ ?_ (by rw [hport]) ?_ <;> subst hu <;> simp [State.onPort, State.setPort]
    obtain ⟨hfcs, hnak, hrx, hmem, hctxs, hout⟩ := State.askReplay_of_up (s := u) (p := p.val) (by rw [hport]; exact hup)
    rw [hport, heth] at hout
    rw [hport] at hfcs hrx
    refine ⟨hfcs, hnak, hout, hrx, hmem.trans ?_, hctxs.trans ?_⟩ <;> subst hu <;> simp
  case discarded =>
    intro p s hup
    exact ⟨congrArg _ (onlyIf_of (by simp [hup]) ..), congrArg _ (onlyIf_of (by simp [hup]) ..), congrArg _ (onlyIf_of (by simp [hup]) ..)⟩
  case badOp =>
    intro p f n s hup hc he hm hv hs
    exact congrArg _ ((onlyIf_of (by simp [hup]) ..).trans (State.hopReceive_next (f := { f with port := p }) n _ hup hc he hm hv hs))
  case hopAck =>
    intro p s hquiet hup howed
    refine ⟨_, ?_, rfl⟩
    rw [exec_hopAckInterval, execHopAckInterval, hquiet]
    simp only [hup, howed, decide_true, Bool.and_self, if_true]
    rfl

/-- A one-shot transfer grid of one task, and a module in SLEEP whose context 0 holds it. -/
def sleepingXfer : GridRun := { slot := 0, gseq := 0, desc := [BitVec.ofNat 64 (4 * 2 ^ 60)], step := none }
def asleepWithXfer : State :=
  { State.reset with ctxs := [(0, { state := .loaded, grids := [sleepingXfer] })], power := { State.reset.power with pstate := .sleep } }

/-- Refutes O54: its first clause has no condition on the power state, but the collective engines run in RUN alone, and an eligible transfer
task of a module in SLEEP does not start (R412, R416). -/
theorem not_collectivesRun : ¬ Obligations.CollectivesRun := by
  unfold Obligations.CollectivesRun
  rintro ⟨hxfer, -⟩
  have hrun : Host.Outcome.next asleepWithXfer = .next (asleepWithXfer.startXfer 0 0 0 (asleepWithXfer.mem.task sleepingXfer.desc 0)) :=
    hxfer 0 0 0 sleepingXfer asleepWithXfer rfl (by decide +kernel) rfl (by decide +kernel)
  exact absurd (congrArg (fun t => (t.ctx 0).grids.map fun g => (g.task 0).joined) (Host.Outcome.next.inj hrun)) (by decide +kernel)

end Sys2Proof.Proofs

namespace Sys2Proof.Machine

open Sys2Proof

/-! ### Passes (R84) -/

/-- Counting failing runs leaves the passes of every array, memory and the contexts. -/
theorem State.countParityEvents_keeps (s : State) (a n b : Nat) :
    ((s.countParityEvents a n).array b).passes = (s.array b).passes ∧ (s.countParityEvents a n).mem = s.mem := by
  have hpasses : ((s.countParityEvents a n).array b).passes = (s.array b).passes := by
    refine foldl_keeps (fun t => (t.array b).passes) (fun t _ => ?_) _ s
    simp only [State.countParityEvent, State.stuck_array, State.onArray_array]
    split
    · subst b
      rfl
    · rfl
  exact ⟨hpasses, foldl_keeps State.mem (fun t _ => by simp [State.countParityEvent]) _ s⟩

/-- Withdrawing passes takes them off their array; their tasks and blocks are posted again in the contexts alone. -/
theorem State.withdraw_spec (s : State) (a : Nat) (which : Pass → Bool) :
    ((s.withdraw a which).array a).passes = (s.array a).passes.filter (fun p => !which p) ∧ (s.withdraw a which).mem = s.mem := by
  constructor
  · refine (foldl_keeps (fun u : State => (u.array a).passes) (fun u p => ?_) _ _).trans (by simp [State.onArray_array])
    split <;> rfl
  · refine foldl_keeps State.mem (fun u p => ?_) _ _
    split <;> rfl

/-! ### Known-answer tests (R85, R86) -/

/-- A failed test halts the array and is counted; memory stays. -/
theorem State.katFailed_spec (s : State) (a : Nat) :
    let t := s.katFailed a
    (t.array a).halted = true ∧ (t.array a).katRun = false ∧ (t.array a).katPassed = false ∧ (t.array a).katFails = stick (s.array a).katFails ∧
      t.mem = s.mem := by
  have harray : (s.katFailed a).array a = { s.array a with
      katRun := false, halted := true, katPassed := false, katFails := stick (s.array a).katFails
      katStuck := (s.array a).katStuck || decide (stick (s.array a).katFails = 0xFFFF) } :=
    (State.raise_array ..).trans ((State.stuck_array ..).trans (by simp [State.onArray_array]))
  have hmem : (s.katFailed a).mem = s.mem := (State.raise_mem ..).trans (State.stuck_mem ..)
  simp only [harray, hmem, and_self]

/-- A repair register of a drained array that is in service takes its value; the array halts where the registers then disagree. -/
theorem State.writeRepair_spec {s : State} {a : Fin 192} (hf : s.firmware = true) (hr : (s.array a.val).retired = false)
    (hp : (s.array a.val).passes = []) (f : ArrayUnit → ArrayUnit) :
    let t := s.writeRepair a f
    let y := f (s.array a.val)
    t.array a.val = { y with halted := y.halted || trimMismatch y.spareCtl y.skewTrim, katPassed := false } ∧ t.mem = s.mem ∧ t.ctxs = s.ctxs := by
  rw [State.writeRepair, onlyIf_of (by simp [hf, hr, hp])]
  simp [State.onArray_array]

end Sys2Proof.Machine

namespace Sys2Proof.Proofs

open Sys2Proof Sys2Proof.Machine

/-- Settles O55: one execution per event. -/
theorem arrayPassesRun : Obligations.ArrayPassesRun := by
  unfold Obligations.ArrayPassesRun
  refine ⟨?start, ?passEnd, ?handover, ?clear, ?vxu⟩
  case start =>
    intro a c g t r b n i s hf hp
    refine congrArg _ ((onlyIf_of hf ..).trans ?_)
    simp only [hp, whenReady]
  case passEnd =>
    intro a p ps s hon hps
    refine ⟨fun n ecc hn hr => ?_, fun n ecc hn hr => ?_, fun ecc hfree => ?_, fun ecc hfin hocc => ?_⟩
    · refine congrArg _ ((onlyIf_of hon ..).trans ?_)
      simp only [hps, hn, if_true, hr, Bool.false_eq_true, if_false]
    · refine exists_of_onlyIf rfl hon ?_
      simp only [hps, hn, if_true, hr, State.onArray_array, State.onArray_mem]
      obtain ⟨-, hmem⟩ := s.countParityEvents_keeps a.val (min p.cols n) a.val
      obtain ⟨hpasses, hwmem⟩ := State.withdraw_spec (s.countParityEvents a.val (min p.cols n)) a.val
        fun q => q = p || (q.kind = p.kind && q.ctx = p.ctx)
      refine ⟨trivial, fun hmem => ?_, hwmem.trans hmem⟩
      rw [hpasses] at hmem
      simp at hmem
    · refine congrArg _ ((onlyIf_of hon ..).trans ?_)
      have hstay : (p.fin && (s.array a.val).handover.isSome) = false := by
        rcases hfree with h | h <;> simp [h]
      simp only [hps, hstay, Nat.lt_irrefl, Bool.false_eq_true, if_false]
    · refine congrArg _ ((onlyIf_of hon ..).trans ?_)
      simp only [hps, hfin, Option.isSome_iff_ne_none.mpr hocc, Nat.lt_irrefl, Bool.and_self, if_true, if_false]
  case handover =>
    intro a e s hon hlen htr hh
    refine congrArg _ ((onlyIf_of hon ..).trans ?_)
    simp only [State.fillSluice, Nat.not_le.mpr hlen, htr, hh, if_false]
  case clear =>
    intro a i s hc
    exact congrArg _ (onlyIf_of hc ..)
  case vxu =>
    intro a ecc s hon
    refine ⟨fun hst e he hmem => ?_, fun hst hmem => ?_, fun hst hlt => ?_, fun hst hle e he => ?_⟩ <;>
      refine congrArg _ ((onlyIf_of hon ..).trans ?_) <;> simp only [State.parityErrors, List.foldl_nil, hst, Bool.false_eq_true, if_true, if_false]
    · have hturn : (s.memReady a.val && decide (15 ≤ (s.array a.val).memWaited)) = false := by
        rcases hmem with h | h <;> simp [h]
      simp only [he, hturn, Bool.false_eq_true, if_false]
    · rcases hmem with h | ⟨hready, hwaited⟩
      · rw [h]
      · cases hhead : s.sluiceHead a.val <;> simp only [hready, hwaited, decide_true, Bool.and_self, if_true]
    · simp only [hlt, if_true]
    · simp only [Nat.not_lt.mpr hle, he, if_false]

/-- Settles O56: one execution per event. -/
theorem arrayRepairRun : Obligations.ArrayRepairRun := by
  unfold Obligations.ArrayRepairRun
  refine ⟨?due, ?test, ?registers, ?resume, ?noPass, ?retire⟩
  case due =>
    intro a s hon hh
    exact congrArg _ (onlyIf_of (by simp [hon, hh]) ..)
  case test =>
    intro a s hcd hr hp
    refine ⟨fun hf => congrArg _ (onlyIf_of (by simp [hf, hcd, hr, hp]) ..), fun hk => ⟨congrArg _ (onlyIf_of (by simp [hcd, hr, hp, hk]) ..), ?_⟩⟩
    exact exists_of_onlyIf rfl (by simp [hcd, hr, hp, hk]) (s.katFailed_spec a.val)
  case registers =>
    intro a v s hf hr hp
    refine ⟨⟨_, rfl, ?_⟩, ⟨_, rfl, ?_⟩⟩
    · obtain ⟨harray, hmem, hctxs⟩ := State.writeRepair_spec hf hr hp fun x => { x with spareCtl := v &&& 0xDFDFDFDF }
      simp only [harray, hmem, hctxs, Bool.or_eq_true, and_self]
    · obtain ⟨harray, hmem, hctxs⟩ := State.writeRepair_spec hf hr hp fun x => { x with skewTrim := v &&& 0x9F9F9F9F }
      simp only [harray, hmem, hctxs, and_self]
  case resume =>
    intro a s hf hr hh hk hp hm
    refine exists_of_onlyIf rfl (by simp [hf, hr, hh, hk, hp, hm]) ?_
    have harray := s.onArray_array a.val a.val fun x => { x with halted := false }
    rw [if_pos rfl] at harray
    dsimp only
    split
    · exact ⟨congrArg ArrayUnit.halted harray, (congrArg ArrayUnit.spareCtl harray :), rfl⟩
    · rw [State.raise_array, State.raise_mem]
      exact ⟨congrArg ArrayUnit.halted harray, (congrArg ArrayUnit.spareCtl harray :), rfl⟩
  case noPass =>
    intro a s hp
    exact congrArg _ (if_neg (by simp [hp]))
  case retire =>
    intro a s hf hr
    exact exists_of_onlyIf rfl (by simp [hf, hr]) rfl

end Sys2Proof.Proofs

namespace Sys2Proof.Proofs

open Sys2Proof Sys2Proof.Machine

/-- Settles O57: one execution per event. -/
theorem updateEventsRun : Obligations.UpdateEventsRun := by
  unfold Obligations.UpdateEventsRun
  refine ⟨?start, ?sweep, ?commit, ?late, ?absorb⟩
  case start =>
    intro c i b x s hx hrun hnext
    simp only [exec_blockUpdateStart, execBlockUpdateStart, State.blockUpdateStart, hx, hrun, hnext, decide_true, Bool.and_self, if_true]
  case sweep =>
    intro c i b x s hx hrun hfree hnext hreads hwrite t
    simp only [exec_writeSweepStart, execWriteSweepStart, State.writeSweepStart, hx, hrun, hfree, hnext, hreads, hwrite, Option.isNone_none,
      decide_true, Bool.and_self, if_true, Access.orElse, State.guarded, Bool.or_eq_true, decide_eq_true_eq, t]
  case commit =>
    intro c i b x r s hx hr hph hsw hrun hst
    have hgoes : (decide ((s.ctx c.val).state = .running) || decide ((s.ctx c.val).state = .holding)) = true := by
      simpa using hst
    simp only [exec_blockCommit, execBlockCommit, State.blockCommit, hx, hr, hph, hsw, hrun, hgoes, decide_true, Bool.and_self, if_true]
  case late =>
    intro c i t g x s ht hlate hx hlen hrun hstart
    simp only [exec_lateUpdate, execLateUpdate, State.lateUpdate, ht, hlate, List.foldl_cons, List.foldl_nil, hx, hrun, hlen, hstart, decide_true,
      Bool.and_self, if_true]
  case absorb =>
    intro c l e side q p k d ms s hp hst hk hd hside hq n a rs hn hg hmay hms hcd hreads hwrite
    simp only [n, a, rs] at *
    simp only [exec_statAbsorption, execStatAbsorption, State.statAbsorption, hp, hk, hd, hst, hn, hside, hq, hg, hmay, hms, hcd, hreads, hwrite,
      decide_true, Bool.true_or, Bool.and_self, Bool.not_true, Bool.false_eq_true, if_true, if_false, Access.orElse, State.guarded]

end Sys2Proof.Proofs
